-- ==== Sys2Proof/Word.lean ====
section
/-! DEFINITION. The word types of the block and their plainest arithmetic: bytes, little-endian fields (R5), bit fields,
saturating counters (R9) and sparse tables. -/

namespace Sys2Proof

/-- One byte of a structure in memory or of a packet. -/
abbrev Byte := BitVec 8

/-- The bits `[lo + w - 1 : lo]` of a number. -/
def bits (n lo w : Nat) : Nat := n / 2 ^ lo % 2 ^ w

/-- One bit of a number. -/
def bit (n k : Nat) : Bool := n / 2 ^ k % 2 == 1

/-- `n` rounded up to a multiple of `k`. -/
def roundUp (n k : Nat) : Nat := (n + k - 1) / k * k

/-- The little-endian number of a byte list (R5). -/
def leNat : List Byte → Nat
  | [] => 0
  | b :: bs => b.toNat + 256 * leNat bs

/-- `k` bytes, little-endian, of a number (R5). -/
def leBytes : Nat → Nat → List Byte
  | 0, _ => []
  | k + 1, n => BitVec.ofNat 8 n :: leBytes k (n / 256)

/-- The little-endian field of `size` bytes at offset `off` of a structure (R5). -/
def field (bs : List Byte) (off size : Nat) : Nat := leNat ((bs.drop off).take size)

/-- Every byte of the span of `size` bytes at `off` is zero: a reserved field that holds zero. -/
def zeroSpan (bs : List Byte) (off size : Nat) : Bool := ((bs.drop off).take size).all (· == 0)

/-- A counter of 31 bits with its sticky saturation bit (R9, R476). -/
structure Ctr where
  val : BitVec 31
  sat : Bool
deriving DecidableEq, Repr

/-- A counter at zero. -/
def Ctr.zero : Ctr := ⟨0, false⟩

/-- One event counted: the event that brings the value to all-ones sets the saturation bit, later events are not counted (R9). -/
def Ctr.bump (c : Ctr) : Ctr :=
  if c.val = BitVec.allOnes 31 then c
  else ⟨c.val + 1, c.sat || decide (c.val + 1 = BitVec.allOnes 31)⟩

/-- `n` units counted at once (lines, microseconds): the value stops at all-ones and the bit sticks (R9). -/
def Ctr.add (c : Ctr) (n : Nat) : Ctr :=
  if c.val.toNat + n < 2 ^ 31 - 1 then ⟨BitVec.ofNat 31 (c.val.toNat + n), c.sat⟩
  else if n = 0 then c else ⟨BitVec.allOnes 31, true⟩

/-- The 32-bit word a reader sees: the value in [30:0] and the bit in [31] (R493). -/
def Ctr.word (c : Ctr) : BitVec 32 := BitVec.ofNat 32 (c.val.toNat + if c.sat then 2 ^ 31 else 0)

/-- A sparse table: entries by ascending number; a number with no entry has no object. -/
abbrev Tab (α : Type) := List (Nat × α)

/-- The entry of number `k`. -/
def Tab.get? {α : Type} : Tab α → Nat → Option α
  | [], _ => none
  | (j, a) :: t, k => if j = k then some a else Tab.get? t k

/-- Put an entry, keeping the numbers ascending. -/
def Tab.set {α : Type} : Tab α → Nat → α → Tab α
  | [], k, a => [(k, a)]
  | (j, b) :: t, k, a => if j = k then (k, a) :: t else if k < j then (k, a) :: (j, b) :: t else (j, b) :: Tab.set t k a

/-- Remove an entry. -/
def Tab.del {α : Type} : Tab α → Nat → Tab α
  | [], _ => []
  | (j, b) :: t, k => if j = k then t else (j, b) :: Tab.del t k

/-- Is there an entry of this number. -/
def Tab.has {α : Type} (t : Tab α) (k : Nat) : Bool := (t.get? k).isSome

/-- The entry of number `k`, or a default. -/
def Tab.getD {α : Type} (t : Tab α) (k : Nat) (d : α) : α := (t.get? k).getD d

/-- Change one entry, where there is one. -/
def Tab.upd {α : Type} (t : Tab α) (k : Nat) (f : α → α) : Tab α :=
  match t.get? k with
  | some a => t.set k (f a)
  | none => t

/-- The lowest number at or above `k` with no entry, scanning a table in ascending order. -/
def Tab.freshFrom {α : Type} : Tab α → Nat → Nat
  | [], k => k
  | (j, _) :: t, k => if j = k then Tab.freshFrom t (k + 1) else if j < k then Tab.freshFrom t k else k

/-- The lowest number with no entry. -/
def Tab.fresh {α : Type} (t : Tab α) : Nat := t.freshFrom 0

/-- The numbers rise strictly: the canonical form of a table. -/
def Tab.sorted {α : Type} : Tab α → Bool
  | [] => true
  | [_] => true
  | (j, _) :: (k, b) :: t => decide (j < k) && Tab.sorted ((k, b) :: t)

/-- The entries that satisfy a test. -/
def Tab.keep {α : Type} (t : Tab α) (p : Nat → α → Bool) : Tab α := t.filter fun e => p e.1 e.2

/-- Change every entry. -/
def Tab.mapVals {α : Type} (t : Tab α) (f : Nat → α → α) : Tab α := t.map fun e => (e.1, f e.1 e.2)

/-- How many entries satisfy a test. -/
def Tab.count {α : Type} (t : Tab α) (p : Nat → α → Bool) : Nat := (t.keep p).length

/-- The bytes of `s` replaced from offset `off` on by `bs`. -/
def overlay (s : List Byte) (off : Nat) (bs : List Byte) : List Byte :=
  s.take off ++ bs ++ s.drop (off + bs.length)

/-- The numbers `lo, lo + 1, …` below `lo + n`. -/
def rangeFrom (lo n : Nat) : List Nat := (List.range n).map (lo + ·)

/-- Insert into a list that rises by a measure, after its equals. -/
def insertOn {α : Type} (f : α → Nat) (a : α) : List α → List α
  | [] => [a]
  | x :: xs => if f a < f x then a :: x :: xs else x :: insertOn f a xs

/-- Sort by a measure; equals keep their order. -/
def sortOn {α : Type} (f : α → Nat) (l : List α) : List α := l.foldl (fun acc a => insertOn f a acc) []

end Sys2Proof
end

