-- ==== Sys2Proof/Syntax.lean ====
section
/-! DEFINITION. The commands the block takes: operand types, and the inductive `Instr` with one constructor per row of
the opcode table, in the table's order. A command is a register access, a packet or a message that arrives, an answer
from another part, or an event of the block's own units. -/

namespace Sys2Proof

/-- A 32-bit register word. -/
abbrev W32 := BitVec 32
/-- A 16-bit code. -/
abbrev W16 := BitVec 16
/-- A byte string in memory order. -/
abbrev Bytes := List Byte
/-- A list of numbers. -/
abbrev Nats := List Nat
/-- A number that may be absent. -/
abbrev OptNat := Option Nat
/-- A lane map: bit `l` set, lane `l` trains (R339). -/
abbrev Lanes := BitVec 8

/-- Who makes a register access: the paths of R480, with what identifies the requester (R437, R487). -/
inductive Who where
  /-- The physical function, with a PASID prefix or without, and Privileged Mode Requested. -/
  | pf (pasid : Option Nat) (priv : Bool)
  /-- A virtual function, with a PASID prefix or without. -/
  | vf (fn : Nat) (pasid : Option Nat)
  /-- The management processor, through its secure port or its other port. -/
  | mp (secure : Bool)
  /-- The debug port. -/
  | debug
  /-- A core or a step program through local MMIO space, with its Burgee's slice and context (R106). -/
  | core (slice ctx : Nat)
  /-- Another chip through Lemdy, with its Burgee's slice (R31). -/
  | remote (slice : Nat)
deriving DecidableEq, Repr

/-- What a read whose home lies outside this chip's HBM and scratchpad returned. -/
inductive ExtRead where
  | data (bytes : Bytes)
  | poisoned
  | timedOut
deriving DecidableEq, Repr

/-- A Lemdy packet after its trailer check (Table 10.4). `rsvd` is false when a reserved field was non-zero (R346). -/
structure Pkt where
  typ : Nat
  vc : Nat
  resent : Bool
  classB : Bool
  ttl : Nat
  dest : Nat
  src : Nat
  txn : Nat
  spec : Bytes
  payload : Bytes
  rsvd : Bool
deriving DecidableEq, Repr

/-- A marker codeword (R342). -/
structure Marker where
  lanes : Lanes
  chip : Nat
  keyGen : Bool
  count : Nat
deriving DecidableEq, Repr

/-- A codeword as it arrives: how many of its symbols are wrong, and its message (Table 10.3) or marker. -/
structure Codeword where
  badSymbols : Nat
  seq : Nat
  firstPkt : Nat
  data : Bytes
  marker : Option Marker
deriving DecidableEq, Repr

/-- Who holds a translation (Table 06.4). -/
inductive Holder where
  | tre (work : Nat)
  | qfe (queue : Nat)
  | mar (run : Nat)
  | mdl (work : Nat)
  | core (core : Nat)
  | hlu (core : Nat)
  | coll (coll : Nat)
deriving DecidableEq, Repr

/-- Why a save record could not be written (R504). -/
inductive StopCause where
  | untranslated
  | refused
  | lost
deriving DecidableEq, Repr

/-- The dirty lines a core writes back for a cache-maintenance word (R252): physical address and 64 bytes. -/
abbrev FlushLines := List (Nat × Bytes)

/-- A fault that a step meets (Table 08.15). -/
inductive StepFault where
  | engine
  | core
  | dispatchPort
  | store
  /-- A cause that is not replayable: the item status, DETAIL_KIND and DETAIL. -/
  | final (status kind detail : Nat)
deriving DecidableEq, Repr

/-- An error of the model store (R298). -/
inductive StoreError where
  | piece (bank row : Nat)
  | bank (bank : Nat)
deriving DecidableEq, Repr

/-- How a request is charged (R375). -/
inductive ReqKind where
  | read
  | write
  | atomic
deriving DecidableEq, Repr

/-- A request that reaches a regulator (R375 to R382). `ctrl` is the HBM controller of the target line, none for any
other target (R383). `deadline` is the Burgee's field. `saving` marks the traffic of R265. -/
structure Request where
  slice : Nat
  cls : Nat
  deadline : Nat
  addr : Nat
  bytes : Nat
  kind : ReqKind
  ctrl : Option Nat
  saving : Bool
deriving DecidableEq, Repr

/-- Requests in arrival order. -/
abbrev Requests := List Request

/-- A side of a mailbox channel (R407). -/
inductive MbxSide where
  | host (who : Who)
  | mp
deriving DecidableEq, Repr

/-- A progress monitor and what it watched (Table 13.2). -/
inductive Monitor where
  | faultStall (item : Nat)
  | pageStall (item : Nat)
  | completionStall (item : Nat)
  | engine (n : Nat)
  | marionette (n : Nat)
  | port (n : Nat)
  | coreStop (core : Nat)
  | launchLimit (item : Nat)
  | teardown (ctx : Nat)
  | unitState (unit : Nat)
  | unitPipeline (unit : Nat)
deriving DecidableEq, Repr

/-- How a rung is requested from outside (R420): a write to RST_CMD, or the management processor's own port. -/
inductive RungReq where
  | cmd (who : Who) (w : W32)
  | mp
deriving DecidableEq, Repr

/-- Whose self-test ended (R422). -/
inductive SelfTest where
  | tre (n : Nat)
  | mar (n : Nat)
  | port (n : Nat)
  | block
deriving DecidableEq, Repr

/-- What returns the block from B1 (R451). -/
inductive B1Cause where
  | hostTlp
  | packet (typ : Nat)
  | register
  | fire
deriving DecidableEq, Repr

/-- What requests a wake (R453). -/
inductive WakeCause where
  | hostTlp
  | wired (line : Nat)
  | mp
  | time
  | pcmd (who : Who) (w : W32)
deriving DecidableEq, Repr

/-- The operation of an atomic (Table 05.5). -/
inductive AtomOp where
  | add
  | minS
  | maxS
  | minU
  | maxU
  | and
  | or
  | xor
  | exchange
  | compareExchange
  | addF32
deriving DecidableEq, Repr

/-- A request of a core (R213, R252, R427): a range-window fill, or an access that Swedikin carries. `launch` names the
launch the work group belongs to. -/
inductive CoreReq where
  | window (launch dva : Nat)
  | load (launch dva size : Nat)
  | store (launch dva : Nat) (bytes : Bytes)
  | atomic (launch dva size : Nat) (op : AtomOp) (operand compare : Nat)
deriving DecidableEq, Repr

/-- One command of the block: a row of the opcode table. -/
inductive Instr where
  /-- SQ_DOORBELL_WRITE (R61). -/
  | sqDoorbellWrite (who : Who) (page : Nat) (off : Nat) (size : Nat) (w : W32)
  /-- CQ_DOORBELL_WRITE (R64). -/
  | cqDoorbellWrite (who : Who) (page : Nat) (off : Nat) (size : Nat) (w : W32)
  /-- DEVICE_DOORBELL (R106). -/
  | deviceDoorbell (who : Who) (page : Nat) (size : Nat) (w : W32)
  /-- QUEUE_CREATE (R56). -/
  | queueCreate (who : Who) (page : Nat) (w : W32)
  /-- QUEUE_DESTROY (R58). -/
  | queueDestroy (who : Who) (page : Nat) (w : W32)
  /-- QUEUE_DRAIN_END (R58). -/
  | queueDrainEnd (slice : Nat) (slot : Nat)
  /-- ARBITRATION_TURN (R102). -/
  | arbitrationTurn
  /-- ENTRY_RECEIVED (R77). -/
  | entryReceived (slice : Nat) (slot : Nat) (ext : ExtRead)
  /-- ITEM_START (R79). -/
  | itemStart (item : Nat)
  /-- COMPLETION_WRITE_RETRY (R227). -/
  | completionWriteRetry (item : Nat)
  /-- ITEM_DEADLINE_EXPIRY (R503). -/
  | itemDeadlineExpiry (item : Nat)
  /-- LAUNCH (R85). -/
  | launch (item : Nat)
  /-- COPY (R307). -/
  | copy (item : Nat)
  /-- REDUCE (R311). -/
  | reduce (item : Nat)
  /-- COLLECTIVE (R321). -/
  | collective (item : Nat)
  /-- KV_MOVE (R308). -/
  | kvMove (item : Nat)
  /-- FENCE_SIGNAL (R86). -/
  | fenceSignal (item : Nat)
  /-- FENCE_WAIT (R155). -/
  | fenceWait (item : Nat)
  /-- FLUSH_RANGE (R199). -/
  | flushRange (item : Nat)
  /-- MODEL_LOAD (R90). -/
  | modelLoad (item : Nat)
  /-- MODEL_PIN (R91). -/
  | modelPin (item : Nat)
  /-- STEP_RUN (R92). -/
  | stepRun (item : Nat)
  /-- SEQ_JOIN (R93). -/
  | seqJoin (item : Nat)
  /-- SEQ_LEAVE (R95). -/
  | seqLeave (item : Nat)
  /-- ALLOC (R96). -/
  | alloc (item : Nat)
  /-- FREE (R97). -/
  | free (item : Nat)
  /-- WORK_GROUP_PLACE (R249). -/
  | workGroupPlace (part : Nat)
  /-- WORK_GROUP_END (R85). -/
  | workGroupEnd (core : Nat) (launch : Nat)
  /-- CHEAP_POINT_ACK (R256). -/
  | cheapPointAck (core : Nat)
  /-- CORE_IDLE (R256). -/
  | coreIdle (core : Nat) (image : Bytes)
  /-- GRACE_EXPIRY (R256). -/
  | graceExpiry (core : Nat) (mapUnreadable : Bool)
  /-- SAVE_STOP_FAILURE (R504). -/
  | saveStopFailure (core : Nat) (cause : StopCause)
  /-- RESTORE_DISPATCH (R266). -/
  | restoreDispatch (ctx : Nat)
  /-- RESTORE_FAILURE (R504). -/
  | restoreFailure (core : Nat) (uncorrectable : Bool)
  /-- CACHE_MAINTENANCE_ACK (R252). -/
  | cacheMaintenanceAck (core : Nat) (lines : FlushLines)
  /-- PREEMPT (R269). -/
  | preempt (who : Who) (w : W32)
  /-- RESUME (R269). -/
  | resume (who : Who) (w : W32)
  /-- SCH_LWA_WRITE (R244). -/
  | schLwaWrite (who : Who) (w : W32)
  /-- SIGNAL_PORT_WRITE (R152). -/
  | signalPortWrite (who : Who) (page : Nat) (off : Nat) (bytes : Bytes)
  /-- POLL_RECHECK (R159). -/
  | pollRecheck
  /-- WAIT_DEADLINE_EXPIRY (R160). -/
  | waitDeadlineExpiry (item : Nat)
  /-- FSIG_RECEIVE (R164). -/
  | fsigReceive (port : Nat) (p : Pkt)
  /-- FACK_RECEIVE (R164). -/
  | fackReceive (port : Nat) (p : Pkt)
  /-- REMOTE_SIGNAL_TIMEOUT (R165). -/
  | remoteSignalTimeout (item : Nat)
  /-- FSIG_SEND (R163). -/
  | fsigSend (item : Nat)
  /-- FENCE_QUERY_READ (R170). -/
  | fenceQueryRead (who : Who) (page : Nat) (size : Nat)
  /-- FENCE_STALE_CLEAR (R152). -/
  | fenceStaleClear (who : Who) (page : Nat) (w : W32)
  /-- MANAGER_FENCE_QUERY_READ (R171). -/
  | managerFenceQueryRead (who : Who) (size : Nat)
  /-- REMOTE_WRITE_ACK (R191). -/
  | remoteWriteAck (port : Nat) (p : Pkt)
  /-- REMOTE_WRITE_LOST (R192). -/
  | remoteWriteLost (dest : Nat) (txn : Nat)
  /-- REMOTE_READ_TIMEOUT (R194). -/
  | remoteReadTimeout (dest : Nat) (txn : Nat)
  /-- HOST_FLUSH_READ_ISSUE (R193). -/
  | hostFlushReadIssue (fn : Nat)
  /-- HOST_READ_COMPLETION (R36). -/
  | hostReadCompletion (tag : Nat) (ext : ExtRead)
  /-- HOST_READ_TIMEOUT (R36). -/
  | hostReadTimeout (tag : Nat)
  /-- OWNERSHIP_PUSH_ACK (R42). -/
  | ownershipPushAck (push : Nat)
  /-- ATS_COMPLETION (R215). -/
  | atsCompletion (slice : Nat) (page : Nat) (hpa : Nat) (read : Bool) (write : Bool)
  /-- RANGE_CACHE_MISS_DONE (R213). -/
  | rangeCacheMissDone (miss : Nat)
  /-- ATS_INVALIDATION_REQUEST (R222). -/
  | atsInvalidationRequest (fn : Nat) (pasid : Nat) (hva : Nat) (pages : Nat) (itag : Nat)
  /-- HOLD_RELEASE (R220). -/
  | holdRelease (holder : Holder)
  /-- SHOOTDOWN_ACK (R222). -/
  | shootdownAck (core : Nat)
  /-- INVALIDATION_ABORT (R224). -/
  | invalidationAbort (epoch : Nat)
  /-- ABORT_DRAIN_EXPIRY (R224). -/
  | abortDrainExpiry (epoch : Nat) (lines : Nat)
  /-- FAULT_BATCH_CLOSE (R229). -/
  | faultBatchClose (slice : Nat)
  /-- PRG_RESPONSE (R230). -/
  | prgResponse (fn : Nat) (prg : Nat) (code : Nat)
  /-- FQ_HEAD_WRITE (R228). -/
  | fqHeadWrite (who : Who) (page : Nat) (w : W32)
  /-- FQ_EN_WRITE (R243). -/
  | fqEnWrite (who : Who) (page : Nat) (w : W32)
  /-- HOT_NOTICE (R239). -/
  | hotNotice (slice : Nat) (granule : Nat)
  /-- ACC_CLEAR (R243). -/
  | accClear (who : Who) (page : Nat) (w : W32)
  /-- DIRTY_RECORD (R234). -/
  | dirtyRecord (slice : Nat) (addr : Nat) (host : Bool)
  /-- MAP_PEER (R212). -/
  | mapPeer (who : Who) (w : W32) (ext : ExtRead)
  /-- UNMAP_PEER (R242). -/
  | unmapPeer (who : Who) (w : W32) (ext : ExtRead)
  /-- DIRTY_START (R234). -/
  | dirtyStart (who : Who) (w : W32) (ext : ExtRead)
  /-- DIRTY_STOP (R237). -/
  | dirtyStop (who : Who) (w : W32) (ext : ExtRead)
  /-- DIRTY_REARM (R237). -/
  | dirtyRearm (who : Who) (w : W32) (ext : ExtRead)
  /-- INVAL_SLICE (R242). -/
  | invalSlice (who : Who) (w : W32) (ext : ExtRead)
  /-- XLT_AREA_WRITE (R240). -/
  | xltAreaWrite (who : Who) (off : Nat) (w : W32)
  /-- CREATE_PARTITION (R114). -/
  | createPartition (who : Who) (w : W32) (ext : ExtRead)
  /-- DESTROY_PARTITION (R140). -/
  | destroyPartition (who : Who) (w : W32) (ext : ExtRead)
  /-- CREATE_SLICE (R118). -/
  | createSlice (who : Who) (w : W32) (ext : ExtRead)
  /-- MODIFY_SLICE (R119). -/
  | modifySlice (who : Who) (w : W32) (ext : ExtRead)
  /-- DESTROY_SLICE (R139). -/
  | destroySlice (who : Who) (w : W32) (ext : ExtRead)
  /-- GRANT (R120). -/
  | grant (who : Who) (w : W32) (ext : ExtRead)
  /-- RECLAIM (R121). -/
  | reclaim (who : Who) (w : W32) (ext : ExtRead)
  /-- CREATE_CONTEXT (R125). -/
  | createContext (who : Who) (w : W32) (ext : ExtRead)
  /-- DESTROY_CONTEXT (R134). -/
  | destroyContext (who : Who) (w : W32) (ext : ExtRead)
  /-- PIN_CONTEXT (R132). -/
  | pinContext (who : Who) (w : W32) (ext : ExtRead)
  /-- UNPIN_CONTEXT (R132). -/
  | unpinContext (who : Who) (w : W32) (ext : ExtRead)
  /-- VIEW_CONTEXT_CREATE (R126). -/
  | viewContextCreate (who : Who) (page : Nat) (w : W32)
  /-- VIEW_CONTEXT_DESTROY (R126). -/
  | viewContextDestroy (who : Who) (page : Nat) (w : W32)
  /-- CTX_TABLES_WRITE (R110). -/
  | ctxTablesWrite (who : Who) (off : Nat) (w : W32)
  /-- TD_HEAD_WRITE (R136). -/
  | tdHeadWrite (who : Who) (w : W32)
  /-- SPILL_DONE (R125). -/
  | spillDone (ctx : Nat)
  /-- RESTORE_DONE (R125). -/
  | restoreDone (ctx : Nat)
  /-- ADMISSION_SERVE (R130). -/
  | admissionServe
  /-- MARIONETTE_ASSIGN (R270). -/
  | marionetteAssign
  /-- READY_RECEIVE (R271). -/
  | readyReceive (port : Nat) (p : Pkt)
  /-- PLAN_RECEIVE (R271). -/
  | planReceive (port : Nat) (p : Pkt)
  /-- PLAN_TIMEOUT (R271). -/
  | planTimeout (run : Nat)
  /-- LEAVE_RECEIVE (R272). -/
  | leaveReceive (port : Nat) (p : Pkt)
  /-- ADMITTED_JOIN_TIMEOUT (R272). -/
  | admittedJoinTimeout (run : Nat) (seq : Nat)
  /-- STEP_START (R283). -/
  | stepStart (run : Nat)
  /-- OPERATION_START (R275). -/
  | operationStart (run : Nat)
  /-- OPERATION_COMPLETE (R275). -/
  | operationComplete (run : Nat) (op : Nat)
  /-- STEP_COMMIT (R286). -/
  | stepCommit (run : Nat)
  /-- STEP_ROLLBACK (R288). -/
  | stepRollback (run : Nat) (op : Nat) (fault : StepFault)
  /-- MARIONETTE_FAILURE (R270). -/
  | marionetteFailure (mar : Nat)
  /-- RUN_END (R92). -/
  | runEnd (run : Nat)
  /-- MODEL_BLOCK_LOADED (R296). -/
  | modelBlockLoaded (work : Nat)
  /-- MODEL_STORE_ERROR (R298). -/
  | modelStoreError (err : StoreError)
  /-- MODEL_PIECE_RELOADED (R298). -/
  | modelPieceReloaded (model : Nat) (piece : Nat)
  /-- STORE_CONFIG_WRITE (R302). -/
  | storeConfigWrite (who : Who) (off : Nat) (w : W32)
  /-- TRE_ITEM_ASSIGN (R304). -/
  | treItemAssign (work : Nat)
  /-- TRE_CHUNK_DONE (R305). -/
  | treChunkDone (engine : Nat)
  /-- TRE_FAILURE (R306). -/
  | treFailure (engine : Nat)
  /-- GCREATE (R319). -/
  | gcreate (who : Who) (w : W32) (ext : ExtRead)
  /-- GDESTROY (R319). -/
  | gdestroy (who : Who) (w : W32) (ext : ExtRead)
  /-- COLL_CHUNK_RECEIVE (R328). -/
  | collChunkReceive (port : Nat) (p : Pkt)
  /-- COLL_RREQ_RECEIVE (R333). -/
  | collRreqReceive (port : Nat) (p : Pkt)
  /-- STAGE_CHUNK_EXPIRY (R328). -/
  | stageChunkExpiry
  /-- COLL_PEER_TIMEOUT (R330). -/
  | collPeerTimeout (coll : Nat)
  /-- LANE_REMOVE (R339). -/
  | laneRemove (port : Nat) (lane : Nat)
  /-- LANE_RECEIVE (R339). -/
  | laneReceive (port : Nat) (p : Pkt)
  /-- MARKERS_MISSED (R342). -/
  | markersMissed (port : Nat)
  /-- CODEWORD_RECEIVE (R343). -/
  | codewordReceive (port : Nat) (cw : Codeword)
  /-- LACK_RECEIVE (R343). -/
  | lackReceive (port : Nat) (p : Pkt)
  /-- RETRY_RECEIVE (R343). -/
  | retryReceive (port : Nat) (p : Pkt)
  /-- LACK_SEND_TIMER (R343). -/
  | lackSendTimer (port : Nat)
  /-- CREDIT_RECEIVE (R349). -/
  | creditReceive (port : Nat) (p : Pkt)
  /-- REMOTE_WR_RECEIVE (R353). -/
  | remoteWrReceive (port : Nat) (p : Pkt)
  /-- REMOTE_RD_RECEIVE (R353). -/
  | remoteRdReceive (port : Nat) (p : Pkt)
  /-- REMOTE_AT_RECEIVE (R196). -/
  | remoteAtReceive (port : Nat) (p : Pkt)
  /-- SESSION_RECEIVE (R352). -/
  | sessionReceive (port : Nat) (p : Pkt)
  /-- RESPONSE_RECEIVE (R347). -/
  | responseReceive (port : Nat) (p : Pkt)
  /-- TXN_GAP_TIMEOUT (R353). -/
  | txnGapTimeout (src : Nat)
  /-- TRANSACTION_TIMEOUT (R354). -/
  | transactionTimeout (dest : Nat) (txn : Nat)
  /-- PORT_DOWN (R359). -/
  | portDown (port : Nat) (cause : Nat)
  /-- PORT_RETRY_TIMER (R359). -/
  | portRetryTimer (port : Nat)
  /-- CAL_DONE (R371). -/
  | calDone (port : Nat) (ok : Bool)
  /-- TRAIN_DONE (R371). -/
  | trainDone (port : Nat) (lanes : Lanes)
  /-- ALIGN_DONE (R371). -/
  | alignDone (port : Nat) (ok : Bool) (chip : Nat) (peerPort : Nat)
  /-- KEYCHK_RECEIVE (R363). -/
  | keychkReceive (port : Nat) (cipher : Bytes) (tag : Bytes)
  /-- MEASURE_DONE (R366). -/
  | measureDone (port : Nat) (delays : Nats)
  /-- PORT_EN_WRITE (R372). -/
  | portEnWrite (who : Who) (w : W32)
  /-- PORT_OFF_DRAIN_END (R372). -/
  | portOffDrainEnd (port : Nat)
  /-- RETRAIN (R372). -/
  | retrain (who : Who) (port : Nat) (w : W32)
  /-- ROUTING_COMMIT (R374). -/
  | routingCommit (who : Who) (chip : Nat) (w : W32)
  /-- KITE_SEND (R365). -/
  | kiteSend (port : Nat) (frac : Nat)
  /-- KITE_RECEIVE (R368). -/
  | kiteReceive (port : Nat) (p : Pkt)
  /-- HOLDOVER_TIMEOUT (R370). -/
  | holdoverTimeout
  /-- KEY_SWITCH (R362). -/
  | keySwitch (port : Nat)
  /-- REKEY_THRESHOLD (R362). -/
  | rekeyThreshold (port : Nat)
  /-- REGULATOR_WINDOW (R379). -/
  | regulatorWindow (reg : Nat)
  /-- REGULATOR_ISSUE (R381). -/
  | regulatorIssue (reg : Nat) (arrivals : Requests)
  /-- FEEDBACK_LEVEL_CHANGE (R383). -/
  | feedbackLevelChange (ctrl : Nat) (level : Nat)
  /-- REGULATOR_CTRL_COMMIT (R388). -/
  | regulatorCtrlCommit (who : Who) (reg : Nat) (w : W32)
  /-- WIRED_LINE_CHANGE (R394). -/
  | wiredLineChange (line : Nat) (level : Bool)
  /-- PENDING_WRITE (R397). -/
  | pendingWrite (who : Who) (page : Nat) (off : Nat) (bytes : Bytes)
  /-- EVC_DOORBELL (R395). -/
  | evcDoorbell (who : Who) (w : W32)
  /-- EVC_MODE_WRITE (R393). -/
  | evcModeWrite (who : Who) (w : W32)
  /-- PEND_SET (R398). -/
  | pendSet (who : Who) (word : Nat) (w : W32)
  /-- PEND_CLR (R398). -/
  | pendClr (who : Who) (word : Nat) (w : W32)
  /-- SOURCE_CONFIG_WRITE (R392). -/
  | sourceConfigWrite (who : Who) (w : W32)
  /-- PN_EN_WRITE (R399). -/
  | pnEnWrite (who : Who) (page : Nat) (w : W32)
  /-- PN_HEAD_WRITE (R399). -/
  | pnHeadWrite (who : Who) (page : Nat) (w : W32)
  /-- PENNANT_RECORD_ISSUE (R401). -/
  | pennantRecordIssue
  /-- MBX_SEND (R408). -/
  | mbxSend (side : MbxSide) (chan : Nat)
  /-- MBX_WITHDRAW (R409). -/
  | mbxWithdraw (side : MbxSide) (chan : Nat)
  /-- MBX_RELEASE (R408). -/
  | mbxRelease (side : MbxSide) (chan : Nat)
  /-- MBX_TAKE (R408). -/
  | mbxTake (side : MbxSide) (chan : Nat)
  /-- MBX_ACK (R408). -/
  | mbxAck (side : MbxSide) (chan : Nat) (code : W16)
  /-- LOCK_READ (R411). -/
  | lockRead (who : Who) (lock : Nat)
  /-- LOCK_FREE_WRITE (R411). -/
  | lockFreeWrite (who : Who) (lock : Nat) (w : W32)
  /-- LOCK_BREAK (R411). -/
  | lockBreak (who : Who) (secure : Bool) (w : W32)
  /-- MONITOR_FIRE (R416). -/
  | monitorFire (mon : Monitor)
  /-- CORE_FAULT_LINE (R419). -/
  | coreFaultLine (core : Nat) (level : Bool)
  /-- CONTEXT_RESET (R421). -/
  | contextReset (req : RungReq)
  /-- ENGINE_RESET (R422). -/
  | engineReset (req : RungReq)
  /-- PARTITION_RESET (R423). -/
  | partitionReset (req : RungReq)
  /-- BLOCK_RESET (R424). -/
  | blockReset (req : RungReq)
  /-- DUMP (R430). -/
  | dump (req : RungReq)
  /-- DUMP_READ_TIMEOUT (R431). -/
  | dumpReadTimeout (unit : Nat) (word : Nat)
  /-- SELF_TEST_DONE (R422). -/
  | selfTestDone (unit : SelfTest) (pass : Bool)
  /-- IDENTITY (R436). -/
  | identity (rec : Bytes)
  /-- SLICE_KEY (R440). -/
  | sliceKey (rec : Bytes)
  /-- LINK_KEY (R362). -/
  | linkKey (rec : Bytes)
  /-- ERASE (R440). -/
  | erase (rec : Bytes)
  /-- DBG_GRANT (R448). -/
  | dbgGrant (rec : Bytes)
  /-- DBG_DENY (R448). -/
  | dbgDeny (rec : Bytes)
  /-- DBG_REQ (R448). -/
  | dbgReq (who : Who) (w : W32)
  /-- DBG_DROP (R448). -/
  | dbgDrop (who : Who) (w : W32)
  /-- CHALLENGE_EXPIRY (R448). -/
  | challengeExpiry (slice : OptNat)
  /-- ALARM_TRIP (R443). -/
  | alarmTrip (sensor : Nat) (slice : Nat)
  /-- NI_SELF_WRITE (R449). -/
  | niSelfWrite (who : Who) (page : Nat) (w : W32)
  /-- NI_MGR_REQ (R449). -/
  | niMgrReq (who : Who) (page : Nat) (w : W32)
  /-- NI_RESP_SUBMIT (R449). -/
  | niRespSubmit (who : Who) (page : Nat) (w : W32)
  /-- NI_MGR_DROP (R449). -/
  | niMgrDrop (who : Who) (page : Nat) (w : W32)
  /-- B1_ENTRY (R451). -/
  | b1Entry
  /-- B1_EXIT (R451). -/
  | b1Exit (cause : B1Cause)
  /-- ENTER_B2 (R452). -/
  | enterB2 (who : Who) (w : W32)
  /-- B2_GRACE_END (R452). -/
  | b2GraceEnd
  /-- ENTER_B3 (R455). -/
  | enterB3 (who : Who) (w : W32)
  /-- WAKE (R454). -/
  | wake (cause : WakeCause) (hbmLost : Bool)
  /-- CORE_SUPPLY_LOSS (R48). -/
  | coreSupplyLoss
  /-- SUPPLIES_VALID (R458). -/
  | suppliesValid
  /-- START_GO (R460). -/
  | startGo (who : Who) (w : W32)
  /-- READY_REPORT (R459). -/
  | readyReport
  /-- RS_SEAL_WRITE (R463). -/
  | rsSealWrite (who : Who) (w : W32)
  /-- GEN_CHIP_WRITE (R33). -/
  | genChipWrite (who : Who) (w : W32)
  /-- TRG_NOW (R473). -/
  | trgNow (who : Who) (w : W32)
  /-- ARM (R474). -/
  | arm (who : Who) (w : W32)
  /-- MARK (R478). -/
  | mark (who : Who) (w : W32)
  /-- TB_HEAD_WRITE (R472). -/
  | tbHeadWrite (who : Who) (w : W32)
  /-- TB_MODE_WRITE (R478). -/
  | tbModeWrite (who : Who) (w : W32)
  /-- ST_HEAD_WRITE (R479). -/
  | stHeadWrite (who : Who) (page : Nat) (w : W32)
  /-- ST_EN_WRITE (R479). -/
  | stEnWrite (who : Who) (page : Nat) (w : W32)
  /-- LATCHED_PAIR_READ (R491). -/
  | latchedPairRead (who : Who) (off : Nat) (size : Nat)
  /-- COUNTER_SAT_CLEAR (R476). -/
  | counterSatClear (who : Who) (off : Nat) (w : W32)
  /-- PAGE_LOCK_WRITE (R488). -/
  | pageLockWrite (who : Who) (off : Nat) (w : W32)
  /-- PAGE_FREEZE_WRITE (R489). -/
  | pageFreezeWrite (who : Who) (off : Nat) (w : W32)
  /-- PAGE_ERROR_CLEAR (R484). -/
  | pageErrorClear (who : Who) (off : Nat) (w : W32)
  /-- REGISTER_WRITE (R486). -/
  | registerWrite (who : Who) (off : Nat) (size : Nat) (w : W32) (hi : W32)
  /-- CORE_MEMORY_REQUEST (R213). -/
  | coreMemoryRequest (core : Nat) (req : CoreReq)
  /-- DISPATCH_PORT_FAILURE (R269). -/
  | dispatchPortFailure (port : Nat)
  /-- RECORD_RESTORED (R266). -/
  | recordRestored (core : Nat)
  /-- DUMP_COMPLETE (R433). -/
  | dumpComplete
  /-- DEBUG_LOCKOUT_EXPIRY (R442). -/
  | debugLockoutExpiry
  /-- DIRTY_RING_HEAD_ADVANCE (R236). -/
  | dirtyRingHeadAdvance (slice : Nat) (head : Nat)
  /-- POWER_CYCLE (R425). -/
  | powerCycle
deriving DecidableEq, Repr

end Sys2Proof
end

