-- ==== Sys2Proof/WellFormed.lean ====
section
/-! DEFINITION. Which commands are well formed: every number names a part that the block has, every access size is one
that R486 knows, packets and codewords have the shapes of Tables 10.3 and 10.4. `exec` is total on ill-formed commands as well. -/

namespace Sys2Proof

/-- A number below a bound. -/
def ltB (n k : Nat) : Bool := decide (n < k)
/-- An access of four or eight bytes, or one of another size that the block discards (R486): at most 64. -/
def sizeOk (n : Nat) : Bool := decide (0 < n) && decide (n ≤ 64)
/-- A register offset on a 4-byte boundary (R486). -/
def alignedB (n : Nat) : Bool := n % 4 == 0
/-- A requester: functions below 512, PASIDs of 20 bits, slices below 4,096 (R35, R117). -/
def whoWf : Who → Bool
  | .pf (some p) _ => ltB p (2 ^ 20)
  | .pf none _ => true
  | .vf f p => ltB 0 f && ltB f 512 && (p.all fun x => ltB x (2 ^ 20))
  | .core s c => ltB s 4096 && ltB c 65536
  | .remote s => ltB s 4096
  | .mp _ => true
  | .debug => true
/-- A packet whose header fields fit (Table 10.4). -/
def pktWf (p : Pkt) : Bool :=
  ltB p.typ 256 && ltB p.vc 4 && ltB p.ttl 16 && ltB p.dest 1024 && ltB p.src 1024 && ltB p.txn (2 ^ 64) &&
  p.spec.length == 16 && ltB p.payload.length 4097
/-- A codeword of 544 symbols with its message of 642 bytes, or a marker (R341, R342). -/
def cwWf (c : Codeword) : Bool :=
  ltB c.badSymbols 545 && ltB c.seq 4096 && ltB c.firstPkt 64 && (c.marker.isSome || c.data.length == 640)
/-- A core request of 1 to 4,096 bytes; an atomic of a size of Table 05.5, on its natural boundary. -/
def coreReqWf : CoreReq → Bool
  | .window _ _ => true
  | .load _ _ n => ltB 0 n && ltB n 4097
  | .store _ _ bs => ltB 0 bs.length && ltB bs.length 4097
  | .atomic _ dva n op _ _ => (n == 4 || (n == 8 && op != .addF32)) && dva % n == 0
/-- A mailbox side whose host requester is well formed. -/
def sideWf : MbxSide → Bool
  | .host w => whoWf w
  | .mp => true
/-- A wake cause whose line and requester exist. -/
def wakeWf : WakeCause → Bool
  | .wired l => ltB l 64
  | .pcmd w _ => whoWf w
  | _ => true
/-- A rung request whose requester is well formed. -/
def rungWf : RungReq → Bool
  | .cmd w _ => whoWf w
  | .mp => true
/-- Write-backs of whole 64-byte lines. -/
def flushWf (ls : FlushLines) : Bool := ls.all fun l => l.1 % 64 == 0 && l.2.length == 64
/-- A slice, where one is named. -/
def sliceOptWf : OptNat → Bool
  | some s => ltB s 4096
  | none => true
/-- A request of an existing slice, class and controller (R375). -/
def requestWf (r : Request) : Bool :=
  ltB r.slice 4096 && ltB r.cls 8 && ltB r.deadline (2 ^ 24) && (r.ctrl.all fun c => ltB c 16)

/-- The well-formed commands. -/
def Instr.wf : Instr → Bool
  | .sqDoorbellWrite who page off size _ => whoWf who && ltB page 4096 && alignedB off && sizeOk size
  | .cqDoorbellWrite who page off size _ => whoWf who && ltB page 4096 && alignedB off && sizeOk size
  | .deviceDoorbell who page size _ => whoWf who && ltB page 4096 && sizeOk size
  | .queueCreate who page _ => whoWf who && ltB page 4096
  | .queueDestroy who page _ => whoWf who && ltB page 4096
  | .queueDrainEnd slice slot => ltB slice 4096 && ltB slot 512
  | .arbitrationTurn => true
  | .entryReceived slice slot _ => ltB slice 4096 && ltB slot 512
  | .itemStart _ => true
  | .completionWriteRetry _ => true
  | .itemDeadlineExpiry _ => true
  | .launch _ => true
  | .copy _ => true
  | .reduce _ => true
  | .collective _ => true
  | .kvMove _ => true
  | .fenceSignal _ => true
  | .fenceWait _ => true
  | .flushRange _ => true
  | .modelLoad _ => true
  | .modelPin _ => true
  | .stepRun _ => true
  | .seqJoin _ => true
  | .seqLeave _ => true
  | .alloc _ => true
  | .free _ => true
  | .workGroupPlace part => ltB part 64
  | .workGroupEnd core _ => ltB core 192
  | .cheapPointAck core => ltB core 192
  | .coreIdle core _ => ltB core 192
  | .graceExpiry core _ => ltB core 192
  | .saveStopFailure core _ => ltB core 192
  | .restoreDispatch ctx => ltB ctx 65536
  | .restoreFailure core _ => ltB core 192
  | .cacheMaintenanceAck core lines => ltB core 192 && flushWf lines
  | .preempt who _ => whoWf who
  | .resume who _ => whoWf who
  | .schLwaWrite who _ => whoWf who
  | .signalPortWrite who page off _ => whoWf who && ltB page 4096 && alignedB off
  | .pollRecheck => true
  | .waitDeadlineExpiry _ => true
  | .fsigReceive port p => ltB port 32 && pktWf p
  | .fackReceive port p => ltB port 32 && pktWf p
  | .remoteSignalTimeout _ => true
  | .fsigSend _ => true
  | .fenceQueryRead who page size => whoWf who && ltB page 4096 && sizeOk size
  | .fenceStaleClear who page _ => whoWf who && ltB page 4096
  | .managerFenceQueryRead who size => whoWf who && sizeOk size
  | .remoteWriteAck port p => ltB port 32 && pktWf p
  | .remoteWriteLost dest txn => ltB dest 1024 && ltB 0 txn
  | .remoteReadTimeout dest txn => ltB dest 1024 && ltB 0 txn
  | .hostFlushReadIssue fn => ltB fn 512
  | .hostReadCompletion tag _ => ltB tag 4096
  | .hostReadTimeout tag => ltB tag 4096
  | .ownershipPushAck _ => true
  | .atsCompletion slice _ _ _ _ => ltB slice 4096
  | .rangeCacheMissDone _ => true
  | .atsInvalidationRequest fn pasid _ _ itag => ltB fn 512 && ltB pasid 1048576 && ltB itag 32
  | .holdRelease _ => true
  | .shootdownAck core => ltB core 192
  | .invalidationAbort _ => true
  | .abortDrainExpiry _ _ => true
  | .faultBatchClose slice => ltB slice 4096
  | .prgResponse fn prg _ => ltB fn 512 && ltB prg 512
  | .fqHeadWrite who page _ => whoWf who && ltB page 4096
  | .fqEnWrite who page _ => whoWf who && ltB page 4096
  | .hotNotice slice _ => ltB slice 4096
  | .accClear who page _ => whoWf who && ltB page 4096
  | .dirtyRecord slice _ _ => ltB slice 4096
  | .mapPeer who _ _ => whoWf who
  | .unmapPeer who _ _ => whoWf who
  | .dirtyStart who _ _ => whoWf who
  | .dirtyStop who _ _ => whoWf who
  | .dirtyRearm who _ _ => whoWf who
  | .invalSlice who _ _ => whoWf who
  | .xltAreaWrite who off _ => whoWf who && alignedB off
  | .createPartition who _ _ => whoWf who
  | .destroyPartition who _ _ => whoWf who
  | .createSlice who _ _ => whoWf who
  | .modifySlice who _ _ => whoWf who
  | .destroySlice who _ _ => whoWf who
  | .grant who _ _ => whoWf who
  | .reclaim who _ _ => whoWf who
  | .createContext who _ _ => whoWf who
  | .destroyContext who _ _ => whoWf who
  | .pinContext who _ _ => whoWf who
  | .unpinContext who _ _ => whoWf who
  | .viewContextCreate who page _ => whoWf who && ltB page 4096
  | .viewContextDestroy who page _ => whoWf who && ltB page 4096
  | .ctxTablesWrite who off _ => whoWf who && alignedB off
  | .tdHeadWrite who _ => whoWf who
  | .spillDone ctx => ltB ctx 65536
  | .restoreDone ctx => ltB ctx 65536
  | .admissionServe => true
  | .marionetteAssign => true
  | .readyReceive port p => ltB port 32 && pktWf p
  | .planReceive port p => ltB port 32 && pktWf p
  | .planTimeout _ => true
  | .leaveReceive port p => ltB port 32 && pktWf p
  | .admittedJoinTimeout _ _ => true
  | .stepStart _ => true
  | .operationStart _ => true
  | .operationComplete _ _ => true
  | .stepCommit _ => true
  | .stepRollback _ _ _ => true
  | .marionetteFailure mar => ltB mar 16
  | .runEnd _ => true
  | .modelBlockLoaded _ => true
  | .modelStoreError _ => true
  | .modelPieceReloaded _ _ => true
  | .storeConfigWrite who off _ => whoWf who && alignedB off
  | .treItemAssign _ => true
  | .treChunkDone engine => ltB engine 32
  | .treFailure engine => ltB engine 32
  | .gcreate who _ _ => whoWf who
  | .gdestroy who _ _ => whoWf who
  | .collChunkReceive port p => ltB port 32 && pktWf p
  | .collRreqReceive port p => ltB port 32 && pktWf p
  | .stageChunkExpiry => true
  | .collPeerTimeout _ => true
  | .laneRemove port lane => ltB port 32 && ltB lane 8
  | .laneReceive port p => ltB port 32 && pktWf p
  | .markersMissed port => ltB port 32
  | .codewordReceive port cw => ltB port 32 && cwWf cw
  | .lackReceive port p => ltB port 32 && pktWf p
  | .retryReceive port p => ltB port 32 && pktWf p
  | .lackSendTimer port => ltB port 32
  | .creditReceive port p => ltB port 32 && pktWf p
  | .remoteWrReceive port p => ltB port 32 && pktWf p
  | .remoteRdReceive port p => ltB port 32 && pktWf p
  | .remoteAtReceive port p => ltB port 32 && pktWf p
  | .sessionReceive port p => ltB port 32 && pktWf p
  | .responseReceive port p => ltB port 32 && pktWf p
  | .txnGapTimeout src => ltB src 1024
  | .transactionTimeout dest txn => ltB dest 1024 && ltB 0 txn
  | .portDown port _ => ltB port 32
  | .portRetryTimer port => ltB port 32
  | .calDone port _ => ltB port 32
  | .trainDone port _ => ltB port 32
  | .alignDone port _ chip peerPort => ltB port 32 && ltB chip 1024 && ltB peerPort 32
  | .keychkReceive port _ _ => ltB port 32
  | .measureDone port _ => ltB port 32
  | .portEnWrite who _ => whoWf who
  | .portOffDrainEnd port => ltB port 32
  | .retrain who port _ => whoWf who && ltB port 32
  | .routingCommit who chip _ => whoWf who && ltB chip 1024
  | .kiteSend port frac => ltB port 32 && ltB frac 65536
  | .kiteReceive port p => ltB port 32 && pktWf p
  | .holdoverTimeout => true
  | .keySwitch port => ltB port 32
  | .rekeyThreshold port => ltB port 32
  | .regulatorWindow reg => ltB reg 120
  | .regulatorIssue reg arrivals => ltB reg 120 && arrivals.all requestWf
  | .feedbackLevelChange ctrl level => ltB ctrl 16 && ltB level 4
  | .regulatorCtrlCommit who reg _ => whoWf who && ltB reg 120
  | .wiredLineChange line _ => ltB line 64
  | .pendingWrite who page off _ => whoWf who && ltB page 4096 && alignedB off
  | .evcDoorbell who _ => whoWf who
  | .evcModeWrite who _ => whoWf who
  | .pendSet who word _ => whoWf who && ltB word 256
  | .pendClr who word _ => whoWf who && ltB word 256
  | .sourceConfigWrite who _ => whoWf who
  | .pnEnWrite who page _ => whoWf who && ltB page 4096
  | .pnHeadWrite who page _ => whoWf who && ltB page 4096
  | .pennantRecordIssue => true
  | .mbxSend side chan => sideWf side && ltB chan 32
  | .mbxWithdraw side chan => sideWf side && ltB chan 32
  | .mbxRelease side chan => sideWf side && ltB chan 32
  | .mbxTake side chan => sideWf side && ltB chan 32
  | .mbxAck side chan _ => sideWf side && ltB chan 32
  | .lockRead who lock => whoWf who && ltB lock 64
  | .lockFreeWrite who lock _ => whoWf who && ltB lock 64
  | .lockBreak who _ _ => whoWf who
  | .monitorFire _ => true
  | .coreFaultLine core _ => ltB core 192
  | .contextReset req => rungWf req
  | .engineReset req => rungWf req
  | .partitionReset req => rungWf req
  | .blockReset req => rungWf req
  | .dump req => rungWf req
  | .dumpReadTimeout unit _ => ltB unit 18
  | .selfTestDone _ _ => true
  | .identity _ => true
  | .sliceKey _ => true
  | .linkKey _ => true
  | .erase _ => true
  | .dbgGrant _ => true
  | .dbgDeny _ => true
  | .dbgReq who _ => whoWf who
  | .dbgDrop who _ => whoWf who
  | .challengeExpiry slice => sliceOptWf slice
  | .alarmTrip sensor slice => ltB sensor 32 && ltB slice 4096
  | .niSelfWrite who page _ => whoWf who && ltB page 4096
  | .niMgrReq who page _ => whoWf who && ltB page 4096
  | .niRespSubmit who page _ => whoWf who && ltB page 4096
  | .niMgrDrop who page _ => whoWf who && ltB page 4096
  | .b1Entry => true
  | .b1Exit _ => true
  | .enterB2 who _ => whoWf who
  | .b2GraceEnd => true
  | .enterB3 who _ => whoWf who
  | .wake cause _ => wakeWf cause
  | .coreSupplyLoss => true
  | .suppliesValid => true
  | .startGo who _ => whoWf who
  | .readyReport => true
  | .rsSealWrite who _ => whoWf who
  | .genChipWrite who _ => whoWf who
  | .trgNow who _ => whoWf who
  | .arm who _ => whoWf who
  | .mark who _ => whoWf who
  | .tbHeadWrite who _ => whoWf who
  | .tbModeWrite who _ => whoWf who
  | .stHeadWrite who page _ => whoWf who && ltB page 4096
  | .stEnWrite who page _ => whoWf who && ltB page 4096
  | .latchedPairRead who off size => whoWf who && alignedB off && sizeOk size
  | .counterSatClear who off _ => whoWf who && alignedB off
  | .pageLockWrite who off _ => whoWf who && alignedB off
  | .pageFreezeWrite who off _ => whoWf who && alignedB off
  | .pageErrorClear who off _ => whoWf who && alignedB off
  | .registerWrite who off size _ _ => whoWf who && alignedB off && sizeOk size
  | .coreMemoryRequest core req => ltB core 192 && coreReqWf req
  | .dispatchPortFailure port => ltB port 4
  | .recordRestored core => ltB core 192
  | .dumpComplete => true
  | .debugLockoutExpiry => true
  | .dirtyRingHeadAdvance slice _ => ltB slice 4096
  | .powerCycle => true

end Sys2Proof
end

