-- ==== Sys2Proof/Config.lean ====
section
/-! DEFINITION. The values the spec leaves open. Each is a constant without a body: no proof can see a value of it. -/

namespace Sys2Proof.Config

/-- The 96-bit nonce of SEC's entropy source (R448), by draw. -/
opaque entropy : Nat → BitVec 96

/-- The bytes of a context's spill record (R125), by draw and offset: the spec gives the record its place and size and leaves
its layout to Swedikin. -/
opaque spillByte : Nat → Nat → BitVec 8

/-- The CAUSE of the fault record of R504 where no translation fault of Table 06.6 stands behind it (a lost record write, an
uncorrectable record read), by draw: the spec asks for the record and names no cause. -/
opaque recordCause : Nat → BitVec 8

/-- The TAG that the failure flag of an SQ holds once a context reset has set it with no failed item of that SQ (R421 step 4, R83), by
draw: the spec names only the TAG of an item. -/
opaque flagTag : Nat → BitVec 32

/-- The code of an atomic's operation in an AT packet (Table 10.5 names the byte and gives no encoding), by the operation's place in
Table 05.5. -/
opaque atomCode : Nat → BitVec 8

end Sys2Proof.Config
end

