-- ==== Sys2Proof/Machine/State.lean ====
section
/-! DEFINITION. The state of the block, unit by unit, its faults and refusals, and the state at reset. Numbers, counts,
addresses and times are `Nat`; words that software reads and writes whole, masks and fence values are bit vectors. An
object that is FREE has no entry in its table. -/

namespace Sys2Proof.Machine

/-- What crosses the block's edge outward (Table 01.7), in the order it leaves. The log is the model's own field. -/
inductive Out where
  /-- A packet handed to a Lemdy port; none when it waits in the sending queue (R357). -/
  | packet (port : Nat) (p : Pkt)
  /-- A posted write to the host bus through a function and PASID, at a translated address. -/
  | hostWrite (fn pasid addr : Nat) (bytes : Bytes)
  /-- A read of the host bus, with the tag its completion names. -/
  | hostRead (fn pasid addr len tag : Nat)
  /-- A flushing read of a function (R37). -/
  | flushRead (fn tag : Nat)
  /-- An ATS Translation Request: first page and pages (R215). -/
  | atsRequest (slice page pages : Nat)
  /-- An Invalidation Completion (R222). -/
  | invalComplete (fn itag : Nat)
  /-- A PRI Page Request (R229). -/
  | pageRequest (fn pasid page prg : Nat) (last : Bool)
  /-- The failure response of R139 step 4. -/
  | pageRequestFail (fn prg : Nat)
  /-- An MSI-X message (R402, R410). -/
  | msix (fn vector : Nat)
  /-- A dispatch word on a dispatch port (Table 07.2). -/
  | dispatch (port core : Nat) (word : BitVec 256)
  /-- A cache-maintenance word (R252). -/
  | maintenance (port : Nat) (word : BitVec 256)
  /-- The pre-empt request line of a core (R256). -/
  | preemptLine (core : Nat) (level : Bool)
  /-- A forced stop on a dispatch port (R256). -/
  | forcedStop (core : Nat)
  /-- A discard stop of a core. -/
  | discardStop (core : Nat)
  /-- The answer to a core's range-window fill: physical base, start, length, none when it faults. -/
  | windowFill (core dva pa len : Nat) (fault : Option Nat)
  /-- Data or an error returned to a core. -/
  | coreData (core : Nat) (bytes : Bytes) (fault : Option Nat)
  /-- A shootdown of one slice's range-window entries (R222): range index, none for every range. -/
  | shootdown (core slice : Nat) (range : Option Nat)
  /-- An ownership push to the checkers (R42): granule and new owner. -/
  | ownerPush (granule : Nat) (owner : Option Nat)
  /-- Reservation-clearing notifications for lines of local HBM or scratchpad (R43, R202). -/
  | reservationClear (line lines : Nat)
  /-- A notice to the management processor on a mailbox channel (R410). -/
  | mpNotice (channel : Nat)
  /-- The result code of a delivery record (R439). -/
  | deliveryResult (code : Nat)
  /-- The signal that the core supply may be removed (R455). -/
  | coreSupplyMayGo
  /-- Codewords resent from a SEQ (R343). -/
  | resend (port seq : Nat)
  /-- The lasers of a port on or off (R372). -/
  | lasers (port : Nat) (on : Bool)
deriving DecidableEq, Repr

/-- The page header state that writes and errors change (R483, R484). -/
structure PageHdr where
  freeze : Bool := false
  locked : Bool := false
  selftestFail : Bool := false
  errCode : BitVec 8 := 0
  errFt : BitVec 24 := 0
  err : Ctr := Ctr.zero
deriving DecidableEq, Repr

/-- A result of an item: status (Table 00.3), DETAIL_KIND and DETAIL (Table 02.5). -/
structure Result where
  status : Nat
  kind : Nat
  detail : Nat
deriving DecidableEq, Repr

/-! ## Slices, partitions, contexts (CTX) -/

/-- A partition entry (Table 03.5); SLICES is counted from the slice table. -/
structure Partition where
  mask : BitVec 64
  hbmShare : Nat
  spShare : Nat
  storeBlocks : Nat
  hbmGranted : Nat := 0
  spGranted : Nat := 0
deriving DecidableEq, Repr

/-- A slice entry (Table 03.6), with the arbitration state of R102 and the phase of R139 while it drains. -/
structure Slice where
  pasid : Nat
  fn : Nat
  localIdx : Nat
  part : Nat
  draining : Bool := false
  weight : Nat
  clsMax : Nat
  maxQueues : Nat
  inflight : Nat
  maxContexts : Nat
  maxFences : Nat
  storeBlocks : Nat
  spGranted : Nat := 0
  hbmGranted : Nat := 0
  deficit : Nat := 0
  lastSlot : List Nat := [511, 511, 511, 511]
  drainPhase : Nat := 0
  drainFt : Nat := 0
deriving DecidableEq, Repr

/-- The states of Table 03.8 that hold an entry. -/
inductive CtxState where
  | defined
  | restoring
  | resident
  | spilling
  | destroying
deriving DecidableEq, Repr

/-- Who waits for a destruction to end: the manager's BUSY, the view page's VBUSY, or the slice's drain. -/
inductive DestroyBy where
  | manager
  | view
  | slice
deriving DecidableEq, Repr

/-- A work group on a core or in a save record: its launch, linear index and needs (R247). -/
structure WorkGroup where
  launch : Nat
  index : Nat
  lgs : Nat
  regs : Nat
  lwa : Nat
deriving DecidableEq, Repr

/-- A record of a save area (Table 07.6): REC_STATE 1 cheap, 2 forced, 3 restoring, its work groups and when it was saved. -/
structure SaveRec where
  recState : Nat
  groups : List WorkGroup
  savedAt : Nat
  order : Nat
deriving DecidableEq, Repr

/-- A context entry (Table 03.7); SQS, INFLIGHT and FENCES are counted from their tables. `phase` is the step of R134 that
a destruction has reached; `destroyNext` waits for a transition or a reset in progress (R125, R426). `resetNext` is 0 while a reset
waits for a transition and 1 while it runs (R421). -/
structure Context where
  slice : Nat
  state : CtxState
  pinned : Bool := false
  admitting : Bool := false
  slot : Option Nat := none
  saveArea : Nat
  lastSched : Nat := 0
  created : Nat
  held : Bool := false
  records : Tab SaveRec := []
  phase : Nat := 0
  by' : DestroyBy := .manager
  destroyNext : Option DestroyBy := none
  resetNext : Option Nat := none
  destroyFt : Nat := 0
  logCount : Nat := 0
deriving DecidableEq, Repr

/-- The CTX unit: Table 03.2, the resident slots, the admission and restore queues (R130, R131), the teardown log ring. `spilled`
names, for each context whose spill record has been written, the draw of `Config.spillByte` that its 2 KiB hold (R125). -/
structure Ctx where
  base : Nat := 0
  tablesEn : Bool := false
  cmd : Nat := 0
  result : Nat := 0
  resultId : Nat := 0
  busy : Bool := false
  pinWait : Option Nat := none
  td : Nat := 0
  tdLog2 : Nat := 0
  tdHead : Nat := 0
  tdTail : Nat := 0
  tdPhase : Bool := true
  admitQ : List Nat := []
  restoreQueue : List Nat := []
  pairs : List (Nat × Nat) := []
  spilled : Tab Nat := []
  spills : Ctr := Ctr.zero
deriving DecidableEq, Repr

/-! ## Queues and items (QFE, RCV ledger) -/

/-- Where an outstanding fetch of an SQ stands. -/
inductive FetchState where
  | issued
  | translating
  | stalled
deriving DecidableEq, Repr

/-- One host read of entries (R103): first slot and entries. -/
structure Fetch where
  first : Nat
  count : Nat
  state : FetchState
deriving DecidableEq, Repr

/-- A queue slot that is ACTIVE or DRAINING. `flag` is the failure flag: the TAG of the first item that set it (R83).
`phase` is the PHASE of the CQ's present pass (R66), `reserved` its reserved slots (R67). -/
structure Queue where
  isSq : Bool
  draining : Bool := false
  ring : Nat
  log2 : Nat
  cq : Nat
  prio : Nat
  pennantAll : Bool
  ctx : Nat
  head : Nat := 0
  tail : Nat := 0
  phase : Bool := true
  reserved : Nat := 0
  flag : Option Nat := none
  fetch : Option Fetch := none
  paused : Bool := false
deriving DecidableEq, Repr

/-- LSTATE of the item ledger (Table 13.1). -/
inductive LState where
  | fetched
  | running
  | waiting
  | stalled
  | completing
deriving DecidableEq, Repr

/-- What a stalled item or stream waits for: an ATS answer, a page request group, a record slot of the fault queue, a
range-cache miss or a lost piece, a dirty-ring slot, the replay of its step. -/
inductive StallOn where
  | ats (page : Nat)
  | group (page : Nat)
  | record
  | miss
  | dirtyRing
  | replay
deriving DecidableEq, Repr

/-- A remote FENCE_SIGNAL in flight (R163): its TXN once sent. -/
structure RemoteSig where
  txn : Option Nat
  applyBy : Nat
deriving DecidableEq, Repr

/-- A fetched item: its ledger entry (Table 13.1), its submission entry and its progress. `deadline` is absolute (R72).
`rbuf` holds data that reads of other homes returned, by DVA. -/
structure Item where
  slice : Nat
  ctx : Nat
  sq : Nat
  slot : Nat
  cq : Nat
  entry : Bytes
  deadline : Option Nat
  fetchFt : Nat
  startFt : Nat := 0
  order : Nat
  st : LState := .fetched
  started : Bool := false
  issued : Bool := false
  result : Option Result := none
  replayed : Bool := false
  stall : Option StallOn := none
  stallFt : Nat := 0
  rbuf : List (Nat × Bytes) := []
  wants : Option (Nat × Nat) := none
  sig : Option RemoteSig := none
  complWait : Bool := false
  hangs : List Nat := []
deriving DecidableEq, Repr

/-- The QFE unit (Table 16.6) and the round-robin position among slices (R102). -/
structure Qfe where
  fetched : Ctr := Ctr.zero
  dbDrops : Ctr := Ctr.zero
  lastSlice : Nat := 4095
  order : Nat := 0
deriving DecidableEq, Repr

/-! ## Fences (FEN) -/

/-- A fence entry that is LIVE or ABANDONING (Table 04.1). -/
structure Fence where
  value : BitVec 64
  owner : Nat
  creator : Nat
  abandoning : Bool := false
  stale : Nat := 0
  abandoned : Bool := false
  staleSat : Bool := false
deriving DecidableEq, Repr

/-- A wait-table entry or a poll-list place (Table 04.4). -/
structure Wait where
  item : Nat
  value : BitVec 64
  deadline : Option Nat
  fence : Nat
  armedFt : Nat
deriving DecidableEq, Repr

/-- A Marionette wait slot (R161); `outcome` is the status it was released with, none while it is armed. -/
structure MarWait where
  run : Nat
  op : Nat
  fence : Nat
  value : BitVec 64
  deadline : Option Nat := none
  outcome : Option Nat := none
deriving DecidableEq, Repr

/-- A kept answer to an FSIG (R166). -/
structure KeptFsig where
  txn : Nat
  result : Nat
  valueAfter : BitVec 64
deriving DecidableEq, Repr

/-- The FEN unit. The free list of R143 is `freeHead ++ [freeNext, …, 65535] ++ freeTail`. -/
structure Fen where
  fences : Tab Fence := []
  freeHead : List Nat := []
  freeNext : Nat := 0
  freeTail : List Nat := []
  table : List Wait := []
  poll : List Wait := []
  marWaits : List MarWait := []
  kept : Tab (List KeptFsig) := []
  commits : Tab (Nat × Nat) := []
  freeing : Tab Nat := []
  staleTotal : Ctr := Ctr.zero
  dupDropped : Ctr := Ctr.zero
  abandons : Ctr := Ctr.zero
  pollEntries : Ctr := Ctr.zero
  mqSel : Nat := 0
deriving DecidableEq, Repr

/-! ## Translation (XLT) and host link (HLU) -/

/-- A range entry (Table 06.2). `invalid` marks a range whose invalidation runs: VALID is clear. -/
structure Range where
  start : Nat
  len : Nat
  pa : Nat
  creator : Nat
  readOnly : Bool := false
  peer : Bool := false
  valid : Bool := true
deriving DecidableEq, Repr

/-- A host-translation cache entry (Table 06.3). -/
structure HostEntry where
  slice : Nat
  fn : Nat
  pasid : Nat
  hva : Nat
  hpa : Nat
  epoch : Nat
  read : Bool
  write : Bool
  logged : Bool
deriving DecidableEq, Repr

/-- What a hold is on: a range of a slice, a model window index, or a host page. -/
inductive Target where
  | range (slice index : Nat)
  | model (index : Nat)
  | page (slice hva : Nat)
deriving DecidableEq, Repr

/-- A hold (R220). -/
structure Hold where
  holder : Holder
  target : Target
  epoch : Nat
deriving DecidableEq, Repr

/-- What an invalidation serves, and so what its completion does. -/
inductive InvalFor where
  | free (item : Nat)
  | freeGone
  | unmapPeer (slice index : Nat)
  | invalSlice
  | hostRequest (fn itag : Nat)
  | teardown (ctx : Nat)
  | model (index : Nat)
  | drain (slice : Nat)
deriving DecidableEq, Repr

/-- An invalidation in progress (R222): the epoch it raised from, the affected targets, cores yet to acknowledge. -/
structure Inval where
  epoch : Nat
  startFt : Nat
  slice : Nat
  targets : List Target
  cores : List Nat
  why : InvalFor
  aborted : Bool := false
deriving DecidableEq, Repr

/-- A range-cache miss in progress (R213): who waits for it. -/
structure Miss where
  id : Nat
  slice : Nat
  dva : Nat
  write : Bool
  work : Option Nat
  core : Option Nat
  launch : Nat := 0
deriving DecidableEq, Repr

/-- Where a stalled stream continues once its page is there. -/
inductive Stream where
  | work (work : Nat)
  | item (item : Nat)
  | completion (item : Nat)
  | fetch (slice slot : Nat)
  | queueDesc (slice : Nat)
  | core (core launch dva : Nat)
  | pennant (slice : Nat)
  | write (slice dva : Nat) (bytes : Bytes)
  | coll (coll : Nat)
deriving DecidableEq, Repr

/-- A page of an open or outstanding host-fault batch (R229): its record and the streams that wait on it. -/
structure FaultPage where
  page : Nat
  dva : Nat
  write : Bool
  ctx : Nat
  sq : Nat
  tag : Nat
  source : Nat
  outcome : Nat
  count : Nat
  time : Nat
  streams : List Stream
deriving DecidableEq, Repr

/-- A batch (R229), open or closed under a PRG index. -/
structure Batch where
  slice : Nat
  fn : Nat
  pasid : Nat
  openFt : Nat
  prg : Option Nat
  pages : List FaultPage
deriving DecidableEq, Repr

/-- A fault record that waits for a slot (R232). -/
structure WaitRecord where
  slice : Nat
  bytes : Bytes
  item : Option Nat
  result : Option Result
deriving DecidableEq, Repr

/-- A stream that waits for an ATS answer (R215). -/
structure AtsWait where
  slice : Nat
  page : Nat
  dva : Nat
  write : Bool
  stream : Stream
deriving DecidableEq, Repr

/-- Dirty logging of a slice (R234): bitmaps, ring, head and tail as known, phase. `pendingBits` are granules written and
not yet set. -/
structure Dirty where
  hbmMap : Nat
  spMap : Nat
  ring : Nat
  ringLog2 : Nat
  head : Nat := 0
  tail : Nat := 0
  phase : Bool := true
  pendingBits : List Nat := []
  stopping : Bool := false
deriving DecidableEq, Repr

/-- An access counter (R238). -/
structure AccCtr where
  slice : Nat
  granule : Nat
  value : Nat
  sat : Bool
  last : Nat
  noticed : Bool
deriving DecidableEq, Repr

/-- An ATS answer that found every way of its set held (R216). -/
structure ParkedAts where
  slice : Nat
  page : Nat
  hpa : Nat
  read : Bool
  write : Bool
deriving DecidableEq, Repr

/-- The XLT unit: Table 06.9, range tables by slice, caches, holds, invalidations, faults, logging, counters. -/
structure Xlt where
  area : Nat := 0
  areaEn : Bool := false
  xcmd : Nat := 0
  xresult : Nat := 0
  xresultId : Nat := 0
  xbusy : Bool := false
  epoch : Nat := 1
  ranges : Tab (Tab Range) := []
  rangeCache : List (Nat × Nat × Nat) := []
  hostCache : List HostEntry := []
  holds : List Hold := []
  invals : List Inval := []
  misses : List Miss := []
  missNext : Nat := 0
  batches : List Batch := []
  atsWaits : List AtsWait := []
  parked : List ParkedAts := []
  aborted : List (Nat × Nat) := []
  recordWaits : List WaitRecord := []
  priOff : List Nat := []
  priAlloc : Nat := 512
  priStopped : List Nat := []
  prgNext : Nat := 0
  dirty : Tab Dirty := []
  acc : List AccCtr := []
  accClock : Nat := 0
  rcMisses : Ctr := Ctr.zero
  hcMisses : Ctr := Ctr.zero
  faults : Ctr := Ctr.zero
  invalAborts : Ctr := Ctr.zero
deriving DecidableEq, Repr

/-- What a host read serves (R36). -/
inductive ReadFor where
  | item (item dva len : Nat)
  | work (work dva len : Nat)
  | coll (coll dva len : Nat)
  | fetch (slice slot : Nat)
  | flush (fn : Nat)
  | queueDesc (slice : Nat)
  | core (core launch : Nat)
  /-- A read of this chip's host window by another chip: its source, TXN and length. -/
  | inbound (src txn len : Nat)
deriving DecidableEq, Repr

/-- An outstanding host read: its tag, purpose, function, and when it times out. -/
structure HostRead where
  tag : Nat
  why : ReadFor
  fn : Nat
  limitFt : Nat
deriving DecidableEq, Repr

/-- A posted host-bus write that no flushing read has confirmed (R193): the item, none once that item has completed; the
flushing read that covers it. -/
structure HostStore where
  fn : Nat
  item : Option Nat
  atFt : Nat
  flush : Option Nat
deriving DecidableEq, Repr

/-- The HLU unit (Table 16.5) with the PCIe configuration it reads: VF Enable and NumVFs (R118). -/
structure Hlu where
  cplToMs : Nat := 10
  lostFn : Nat := 0
  flushReads : Ctr := Ctr.zero
  storesLost : Ctr := Ctr.zero
  readErrs : Ctr := Ctr.zero
  vfEnable : Bool := true
  numVfs : Nat := 511
  reads : List HostRead := []
  tagNext : Nat := 0
  stores : List HostStore := []
  invalRequests : Nat := 0
deriving DecidableEq, Repr

/-- Ownership at the memory side (R218): the owner in force by granule (space × 2^30 + page), the pushes not yet
acknowledged, and the scrubbed pages (R457). -/
structure Push where
  id : Nat
  granules : List Nat
  owner : Option Nat
  why : Option Nat
deriving DecidableEq, Repr

/-- The memory-side ownership as XLT pushes it. -/
structure Own where
  owner : Tab Nat := []
  pushes : List Push := []
  pushNext : Nat := 0
  scrubbed : Tab Unit := []
  grant : Option (Nat × Nat × Nat × Nat) := none
  reclaim : Option (Nat × Nat × Nat × Nat) := none
deriving DecidableEq, Repr

/-! ## Dispatch (SCH) -/

/-- Whose launch it is (R245). -/
inductive LaunchOwner where
  | item (item : Nat)
  | op (run op : Nat)
deriving DecidableEq, Repr

/-- A launch being placed or run (R249). `stop` is the result it ends with once its discard stops have ended. -/
structure Launch where
  owner : LaunchOwner
  slice : Nat
  ctx : Nat
  part : Nat
  cls : Nat
  scope : Nat
  deadline : Option Nat
  gx : Nat
  gy : Nat
  gz : Nat
  next : Nat := 0
  ended : Nat := 0
  maxCores : Nat
  lgs : Nat
  regs : Nat
  lwa : Nat
  graceNs : Nat
  descPa : Nat
  args : Nat
  order : Nat
  used : List Nat := []
  stop : Option Result := none
deriving DecidableEq, Repr

/-- A core being stopped (R256). `only` names the one launch whose work groups a discard stop throws away; none, all. -/
structure CoreStop where
  save : Bool
  only : Option Nat := none
  ack : Bool := false
  forced : Bool := false
  raisedFt : Nat
  graceFt : Nat
  forcedFt : Nat := 0
deriving DecidableEq, Repr

/-- An entry of a core's range window (R213). -/
structure WindowEntry where
  slice : Nat
  index : Nat
  model : Bool
  epoch : Nat
deriving DecidableEq, Repr

/-- A core as SCH sees it. -/
structure Core where
  out : Bool := false
  faultLine : Bool := false
  ctx : Option Nat := none
  groups : List WorkGroup := []
  placedFt : Nat := 0
  stop : Option CoreStop := none
  restoring : Option (Nat × Nat) := none
  window : List WindowEntry := []
  hung : Bool := false
deriving DecidableEq, Repr

/-- A dispatch word issued, for the reissue of R422 and Table 13.6. -/
structure PortWord where
  port : Nat
  core : Nat
  atFt : Nat
  word : BitVec 256
deriving DecidableEq, Repr

/-- Where the walk of a FLUSH_RANGE stands (R252): the cores that still perform its last word, the place in the range after
that word, and the physical address and bytes that the word named. -/
structure FlushWord where
  item : Nat
  cores : List Nat
  bytes : Nat
  pa : Nat := 0
  span : Nat := 0
deriving DecidableEq, Repr

/-- The SCH unit (Table 07.8). -/
structure Sch where
  lwa : Nat := 4
  presult : Nat := 0
  pbusy : Option Nat := none
  portsUp : BitVec 4 := 0xF
  cores : Tab Core := []
  launches : Tab Launch := []
  order : Nat := 0
  saveOrder : Nat := 0
  descCache : List (Nat × Nat × Bytes) := []
  words : List PortWord := []
  flush : List FlushWord := []
  preempts : Ctr := Ctr.zero
  forced : Ctr := Ctr.zero
  issued : Ctr := Ctr.zero
deriving DecidableEq, Repr

/-! ## Step programs (MAR) and the model store (MDL) -/

/-- A sequence's state once it holds an entry (Table 08.9). -/
inductive SeqState where
  | active
  | held
  | leaving
deriving DecidableEq, Repr

/-- A sequence-table entry (Table 08.8) with its output ring's state (R280). -/
structure Seq where
  run : Nat
  item : Nat
  seqId : Nat
  kvTable : Nat
  outRing : Nat
  kvTokens : Nat
  kvCap : Nat
  maxTokens : Nat
  stopToken : Nat
  user : Nat
  outLog2 : Nat
  state : SeqState
  reason : Nat := 0
  tokens : Nat := 0
  lastStep : Option Nat := none
  lastToken : Option Nat := none
  head : Nat := 0
  tail : Nat := 0
  phase : Bool := true
  admitted : Bool := false
  isNew : Bool := true
  replayed : Bool := false
deriving DecidableEq, Repr

/-- A WAITING sequence: its SEQ_JOIN and the image it gave. -/
structure WaitingSeq where
  item : Nat
  seqId : Nat
  image : Bytes
  deadline : Option Nat
  order : Nat
deriving DecidableEq, Repr

/-- A staged signal (Table 08.14) and its outcome once known: a status, none while unknown. -/
structure Staged where
  op : Nat
  fence : Nat
  chip : Nat
  value : BitVec 64
  txn : Nat := 0
  sent : Bool := false
  outcome : Option Result := none
deriving DecidableEq, Repr

/-- Where a run stands. -/
inductive RunPhase where
  /-- Waiting for a Marionette. -/
  | waiting
  /-- Loading the model slices it names (R297), or waiting for READY (R271). -/
  | loading
  /-- Between steps: the next step's start is set. -/
  | planned
  /-- A follower waiting for a plan. -/
  | awaitPlan
  /-- Running a step. -/
  | running
  /-- Committing: staged signals awaited. -/
  | committing
  /-- At a boundary, idle or empty. -/
  | boundary
deriving DecidableEq, Repr

/-- A change that a plan carries (R271). -/
structure PlanChange where
  seqId : Nat
  depart : Bool
deriving DecidableEq, Repr

/-- A run (R270): its parameters, program memory, step state and sequences. `heldPlans` are the PLAN packets received and not yet taken
in, each with the time it came. -/
structure Run where
  item : Nat
  slice : Nat
  ctx : Nat
  runId : Nat
  cls : Nat
  scope : Nat
  maxSeq : Nat
  period : Nat
  steps : Nat
  idleNs : Nat
  timeout : Nat
  batch : Nat
  progDva : Nat
  opsCount : Nat
  order : Nat
  slot : Option Nat := none
  mar : Option Nat := none
  program : List Bytes := []
  group : Option Nat := none
  lead : Nat := 0
  journal : Nat := 0
  retries : Nat := 3
  phase : RunPhase := .waiting
  step : Nat := 0
  startFt : Nat := 0
  prevStart : Option Nat := none
  attempt : Nat := 0
  startedOps : Nat := 0
  doneOps : List Nat := []
  liveOps : List Nat := []
  staged : List Staged := []
  rows : List Nat := []
  admittedNow : Nat := 0
  waiting : List WaitingSeq := []
  leaves : List (Nat × Nat) := []
  ready : List Nat := []
  plan : List PlanChange := []
  heldPlans : List (Nat × Pkt) := []
  planFt : Nat := 0
  planDone : Bool := false
  planRecv : Nat := 0
  planWaitFt : Option Nat := none
  committed : Nat := 0
  replayed : Bool := false
  emptyFt : Option Nat := none
  lostSignal : Option Result := none
  opFail : Tab Result := []
deriving DecidableEq, Repr

/-- The MAR unit (Table 08.17). -/
structure Mar where
  up : BitVec 16 := 0xFFFF
  runs : Tab Run := []
  seqs : Tab Seq := []
  order : Nat := 0
  errOp : Nat := 0
  steps : Ctr := Ctr.zero
  replays : Ctr := Ctr.zero
  lateSteps : Ctr := Ctr.zero
  leftWaits : List Nat := []
  readyHeld : List (Nat × Nat) := []
deriving DecidableEq, Repr

/-- A model slice's state (Table 08.16). -/
inductive ModelState where
  | registered
  | loading
  | resident
  | repairing
deriving DecidableEq, Repr

/-- A registered model slice (R294, R295). `pieces` is its piece map: bank and row of each 64 KiB piece. `lost` are
pieces being reloaded (R298); `stuck` that no spare page remains or SRC is unreadable. -/
structure Model where
  slice : Nat
  ctx : Nat
  modelId : Nat
  src : Nat
  len : Nat
  state : ModelState
  pinned : Bool := false
  pinNext : List Nat := []
  waiters : List Nat := []
  runs : List Nat := []
  blocks : List Nat := []
  pieces : List (Nat × Nat) := []
  loaded : Nat := 0
  lost : List Nat := []
  stuck : Bool := false
  lastUse : Nat := 0
  cls : Nat := 0
  invalidating : Bool := false
  failed : Option Result := none
  deadline : Option Nat := none
deriving DecidableEq, Repr

/-- The MDL unit (Table 08.18): the blocks that hold no model slice, spare pages, loads that wait for blocks. -/
structure Mdl where
  rows : Nat := 0
  storeBlocks : Nat := 0
  storeEn : Bool := false
  models : Tab Model := []
  freeBlocks : List Nat := []
  blockPieces : Tab (List (Nat × Nat)) := []
  spares : List (Nat × Nat) := []
  waiting : List Nat := []
  useClock : Nat := 0
  loads : Ctr := Ctr.zero
  badPieces : Ctr := Ctr.zero
  evictions : Ctr := Ctr.zero
deriving DecidableEq, Repr

/-! ## Transfer and reduce engines (TRE) -/

/-- Whose work an engine does (Table 09.1). -/
inductive WorkOwner where
  | item (item : Nat)
  | op (run op : Nat)
  | load (model : Nat)
  | repair (model piece : Nat)
  | grantFill
  | reclaimFill
  | drainFill (slice : Nat)
  | lwaFill (part : Nat)
deriving DecidableEq, Repr

/-- What a piece of single-engine work does (Table 09.2 KIND). -/
inductive WorkKind where
  | copy (src dst rowBytes rows srcPitch dstPitch : Nat)
  | fill (pa len : Nat)
  | reduce (srcA srcB dst count op srcFmt dstFmt bFmt : Nat)
  | kvmove (src dst blockBytes blocks srcIndex dstIndex : Nat) (listed : Bool)
  | load (src pa len : Nat)
  | flush (addr len mode : Nat)
deriving DecidableEq, Repr

/-- A piece of single-engine work (R304, R305). `next` is the first destination byte not yet written, counted along the
work; `issuedAll` that its last chunk was issued (R503). -/
structure Work where
  owner : WorkOwner
  kind : WorkKind
  slice : Nat
  ctx : Nat
  cls : Nat
  deadline : Option Nat
  order : Nat
  engine : Option Nat := none
  next : Nat := 0
  total : Nat
  issuedAll : Bool := false
  rbuf : List (Nat × Bytes) := []
  wants : Option (Nat × Nat) := none
  stall : Option StallOn := none
  replay : Bool := false
deriving DecidableEq, Repr

/-- A collective group entry (Table 09.5). `start` is where the oldest reservation of the resend area begins; `resv` lists the
reservations in order: collective, bytes, released (R332). -/
structure Group where
  slice : Nat
  size : Nat
  rank : Nat
  ring : Bool
  members : List Nat
  resendBase : Nat
  resendBytes : Nat
  start : Nat := 0
  resv : List (Nat × Nat × Bool) := []
deriving DecidableEq, Repr

/-- A chunk of a collective as sent or received (Table 09.8). -/
structure ChunkId where
  rank : Nat
  piece : Nat
  chunk : Nat
  gather : Bool
deriving DecidableEq, Repr

/-- A running accumulation of one owned chunk (R323): FP32 values, ranks taken in, whether poisoned. -/
structure Acc where
  chunk : Nat
  vals : List (BitVec 32)
  from' : List Nat
  poison : Bool
deriving DecidableEq, Repr

/-- A chunk as this member sent it, kept for resends (R332): to which ranks, its wire bytes, whether poisoned. The own piece
of kinds 0 and 1 is kept with no rank. -/
structure SentChunk where
  id : ChunkId
  dests : List Nat
  bytes : Bytes
  poison : Bool
deriving DecidableEq, Repr

/-- What an engine still has to do for a collective, in order: quantize a chunk of SRC and send it, take in an accepted chunk,
write bytes at an element offset of DST. -/
inductive CollTask where
  | send (piece chunk : Nat)
  | take (id : ChunkId) (bytes : Bytes) (poison : Bool)
  | put (piece chunk elem : Nat) (bytes : Bytes)
deriving DecidableEq, Repr

/-- A live collective (R321): a COLLECTIVE item or a KCOLL operation of a run, with its group's fields as it began. `ended`
marks a KCOLL kept for resends only. -/
structure Coll where
  owner : WorkOwner
  group : Nat
  size : Nat
  rank : Nat
  ring : Bool
  members : List Nat
  slice : Nat
  ctx : Nat
  cls : Nat
  deadline : Option Nat
  scope : Nat
  key : Nat
  kcoll : Bool
  kind : Nat
  op : Nat
  memFmt : Nat
  wireFmt : Nat
  root : Nat
  count : Nat
  src : Nat
  dst : Nat
  timeout : Nat
  engines : List Nat
  order : Nat := 0
  nokeep : Bool := false
  todo : List CollTask := []
  accs : List Acc := []
  accepted : List ChunkId := []
  sent : List SentChunk := []
  expect : List (ChunkId × Nat × Nat) := []
  timers : List (Nat × Nat) := []
  fail : Option Result := none
  rbuf : List (Nat × Bytes) := []
  stall : Option StallOn := none
  ended : Bool := false
deriving DecidableEq, Repr

/-- A chunk held unclaimed in the staging pool (R328). -/
structure StagedChunk where
  pkt : Pkt
  atFt : Nat
deriving DecidableEq, Repr

/-- The TRE unit (Table 09.12). -/
structure Tre where
  up : BitVec 32 := 0xFFFFFFFF
  gcmd : Nat := 0
  gresult : Nat := 0
  gbusy : Bool := false
  groups : Tab Group := []
  works : Tab Work := []
  workNext : Nat := 0
  order : Nat := 0
  intake : List Nat := []
  turn : Tab Nat := []
  colls : Tab Coll := []
  collNext : Nat := 0
  staging : List StagedChunk := []
  heldChunks : List (Nat × Pkt) := []
  ended : List (Nat × Nat × Bool) := []
  stageDrops : Ctr := Ctr.zero
  lateChunks : Ctr := Ctr.zero
  mismatches : Ctr := Ctr.zero
  nokeeps : Ctr := Ctr.zero
  failovers : Ctr := Ctr.zero
  resends : Ctr := Ctr.zero
deriving DecidableEq, Repr

/-! ## Lemdy (LMF) -/

/-- The port states of Table 10.10. -/
inductive PState where
  | off
  | cal
  | train
  | align
  | key
  | measure
  | active
  | down
deriving DecidableEq, Repr

/-- A codeword kept in the replay buffer (R343): its SEQ and the packets that begin in it. -/
structure Kept where
  seq : Nat
  pkts : List Pkt
deriving DecidableEq, Repr

/-- A Lemdy port. Send side: SEQ, replay buffer, packet counter, credits by VC and class. Receive side: next SEQ, bytes of
packets not yet whole, packet counter, granules to return. -/
structure Port where
  state : PState := .off
  lanes : BitVec 8 := 0
  downCause : Nat := 0
  peerChip : Nat := 0
  peerPort : Nat := 0
  delay : Nat := 0
  dateline : Bool := false
  draining : Bool := false
  downFt : Nat := 0
  offFt : Nat := 0
  calibrated : Bool := false
  encOff : Bool := false
  txSeq : Nat := 0
  replay : List Kept := []
  queue : List Pkt := []
  retrySeq : Nat := 0
  retryCount : Nat := 0
  tagFailSeq : Nat := 0
  tagFailRun : Nat := 0
  rxSeq : Nat := 0
  rxBytes : Bytes := []
  rxPos : Nat := 63
  retrySent : Bool := false
  lackFt : Nat := 0
  lackCount : Nat := 0
  txCtr : Nat := 0
  rxCtr : Nat := 0
  keyGenTx : Bool := false
  keyGenRx : Bool := false
  keyBank : Nat := 0
  newLanes : Option (BitVec 8) := none
  sentLanes : Option (BitVec 8) := none
  creditA : List Nat := [2048, 2048, 4096]
  creditB : List Nat := [2048, 2048, 4096]
  owed : List Nat := [0, 0, 0, 0, 0, 0, 0, 0]
  keyTx : Bool := false
  keyRx : Bool := false
  rekeyed : Bool := false
  markerCount : Nat := 0
  kiteFt : Option Nat := none
  kiteTx : Nat := 0
  kiteRx : Nat := 0
  kiteRoot : Nat := 0
  kitePrio : Nat := 255
  kiteStratum : Nat := 15
  corrected : Ctr := Ctr.zero
  retries : Ctr := Ctr.zero
  uncorr : Ctr := Ctr.zero
  tagFails : Ctr := Ctr.zero
  kitesMissed : Ctr := Ctr.zero
deriving DecidableEq, Repr

/-- A routing entry (Table 10.12). -/
structure Route where
  primary : BitVec 32 := 0
  alternate : BitVec 32 := 0
  hopsP : Nat := 0
  hopsA : Nat := 0
  valid : Bool := false
deriving DecidableEq, Repr

/-- What a request-channel packet of this chip serves. -/
inductive ReqFor where
  | itemWrite (item : Nat)
  | itemRead (item dva len : Nat)
  | workWrite (work : Nat)
  | workRead (work dva len : Nat)
  | collWrite (coll : Nat)
  | collRead (coll dva len : Nat)
  | coreWrite (core launch : Nat)
  | coreRead (core launch : Nat)
  | fsig (item : Nat)
  | commitSig (run op : Nat)
  | fetch (slice slot : Nat)
  | queueDesc (slice : Nat)
  | own
deriving DecidableEq, Repr

/-- A request with no response yet (R354). -/
structure Request' where
  dest : Nat
  txn : Nat
  why : ReqFor
  limitFt : Nat
  dva : Nat := 0
deriving DecidableEq, Repr

/-- What a destination keeps of a source (R166, R353): last TXN applied, JOIN_FT, packets held out of order. -/
structure Source where
  last : Nat := 0
  joinFt : Nat := 0
  held : List (Nat × Nat × Pkt) := []
deriving DecidableEq, Repr

/-- The fabric-time state (Table 10.12 FT_STATE). -/
inductive FtState where
  | free
  | locked
  | holdover
deriving DecidableEq, Repr

/-- The LMF unit (Table 10.12). `joined` says that this start or wake has taken its one step of fabric time (R50). -/
structure Lmf where
  txnTimeoutUs : Nat := 50
  rootPrio : Nat := 255
  stratum : Nat := 15
  rootChip : Nat := 0
  followPrio : Nat := 255
  ftState : FtState := .free
  upstream : Nat := 0
  portEn : BitVec 32 := 0
  encOff : Bool := false
  ports : Tab Port := []
  routes : Tab Route := []
  staged : Tab Route := []
  rr : Nat := 31
  txn : Tab Nat := []
  outstanding : List Request' := []
  lost : List (Nat × Nat) := []
  sources : Tab Source := []
  sendq : List (Nat × Pkt) := []
  joinFt : Nat := 0
  joined : Bool := false
  slew : Int := 0
  slewUs : Nat := 0
  lastRootKite : Nat := 0
  txnGaps : Ctr := Ctr.zero
  dupReq : Ctr := Ctr.zero
  lateResp : Ctr := Ctr.zero
  ttlDrops : Ctr := Ctr.zero
  noRoute : Ctr := Ctr.zero
deriving DecidableEq, Repr

/-! ## Regulators (BWR) -/

/-- A request waiting at a regulator, with its arrival and absolute deadline (R382). -/
structure Waiting where
  req : Request
  arriveFt : Nat
  absDeadline : Option Nat
  paused : Bool := false
deriving DecidableEq, Repr

/-- A regulator (Table 11.4). Budgets in force, staged and remaining by class; a commit waiting for its boundary: the new WIN_K, the
budgets and the boundary's time. -/
structure Regulator where
  winK : Nat := 0
  budgets : List Nat := List.replicate 8 0xFFFFFF
  staged : List Nat := List.replicate 8 0xFFFFFF
  commit : Option (Nat × Nats × Nat) := none
  remaining : List Int := List.replicate 8 0xFFFFFF
  windowFt : Nat := 0
  heldWindow : Bool := false
  waiting : List Waiting := []
  lines : Ctr := Ctr.zero
  held : Ctr := Ctr.zero
  pauses : Ctr := Ctr.zero
  late7 : Ctr := Ctr.zero
deriving DecidableEq, Repr

/-- The BWR unit (Table 11.3). -/
structure Bwr where
  levels : BitVec 32 := 0
  ambers : Ctr := Ctr.zero
  reds : Ctr := Ctr.zero
  regs : Tab Regulator := []
deriving DecidableEq, Repr

/-! ## Events (EVC), mailboxes (MBX) -/

/-- A source's count and configuration (R391, Table 12.9). -/
structure Source' where
  count : Nat := 0
  sat : Bool := false
  pending : Bool := false
  mixed : Bool := false
  ctx : Nat := 0
  data : BitVec 32 := 0
  time : Nat := 0
  owner : Nat := 0
  prio : Nat := 0
  assigned : Bool := false
  wake : Bool := false
  filter : Nat := 1
  activeLow : Bool := false
  enabled : Bool := false
deriving DecidableEq, Repr

/-- An unclaimed record in the shadow pool (R404). -/
structure Shadow where
  slice : Nat
  slot : Nat
  ctx : Nat
deriving DecidableEq, Repr

/-- The EVC unit: global sources by number; banked sources by slice × 16 + (number − 8,176). `faulted` holds, by slice, a record that is
issued and could not be written yet (R401), with 1 once its fault is recorded. -/
structure Evc where
  mode : Nat := 1
  lines : BitVec 64 := 0
  sources : Tab Source' := []
  banked : Tab Source' := []
  srcSel : Nat := 0
  shadow : List Shadow := []
  lastSlice : Nat := 4095
  faulted : List (Nat × Nat × Bytes) := []
  presented : Ctr := Ctr.zero
  withdrawn : Ctr := Ctr.zero
  shadowWaits : Ctr := Ctr.zero
deriving DecidableEq, Repr

/-- A mailbox slot (Table 12.6). -/
inductive SlotState where
  | empty
  | posted
  | taken
  | acked
deriving DecidableEq, Repr

/-- One direction of a channel (R408). -/
structure MbxSlot where
  state : SlotState := .empty
  ptr : BitVec 64 := 0
  len : BitVec 32 := 0
  tag : BitVec 16 := 0
  ackCode : BitVec 16 := 0
  wdLate : Bool := false
deriving DecidableEq, Repr

/-- The MBX unit: H2M slots by channel, M2H slots by channel, lock owners, SVEC. -/
structure Mbx where
  h2m : Tab MbxSlot := []
  m2h : Tab MbxSlot := []
  locks : Tab Nat := []
  svec : Nat := 0
  svecEn : Bool := false
deriving DecidableEq, Repr

/-! ## Recovery (RCV), trace (TRC) -/

/-- A rung in progress or waiting (R426): OP, target, who asked. -/
structure Rung where
  op : Nat
  target : Nat
deriving DecidableEq, Repr

/-- A dump in progress (R430, R431). `bad` lists what could not be read: unit, first word, words; `done` the units whose sections
are already written; `werrs` the writes that failed; `discards` BR_DISCARDS as it stood at the start. -/
structure Dump where
  reason : Nat
  cause : Nat
  culprit : Nat
  startFt : Nat
  discards : Nat
  bad : List (Nat × Nat × Nat) := []
  done : List Nat := []
  werrs : Nat := 0
deriving DecidableEq, Repr

/-- The RCV unit (Table 13.9). -/
structure Rcv where
  stallMs : Nat := 10
  engineUs : Nat := 100
  launchMs : Nat := 0
  autoCtx : Bool := false
  autoEng : Bool := true
  dumpOnReset : Bool := true
  dumpOnHang : Bool := false
  dumpBase : Nat := 0
  result : Nat := 0
  lastOp : Nat := 0
  busy : Option Rung := none
  waitingRungs : List Rung := []
  culCtx : Nat := 0
  culSlice : Nat := 0
  culValid : Bool := false
  culUnit : Nat := 0
  culInst : Nat := 0
  culCause : Nat := 0
  culTag : Nat := 0
  culFt : Nat := 0
  dump : Option Dump := none
  dumpDone : Bool := false
  dumpWerr : Bool := false
  unreadable : BitVec 18 := 0
  unreadWords : Nat := 0
  fired : List (Nat × Nat × Nat) := []
  blockPhase : Nat := 0
  blockLog : List (Nat × Item) := []
  partFill : Option Nat := none
  hangs : Ctr := Ctr.zero
  ctxResets : Ctr := Ctr.zero
  engResets : Ctr := Ctr.zero
  partResets : Ctr := Ctr.zero
  blockResets : Ctr := Ctr.zero
  brDiscards : Ctr := Ctr.zero
  discarded : Ctr := Ctr.zero
  corrected : Ctr := Ctr.zero
  absorbed : Ctr := Ctr.zero
deriving DecidableEq, Repr

/-- The TRC unit (Table 15.5), its tail window (record bytes by slot) and the count of dropped records that a GAP record
will report. -/
structure Trc where
  mode : Nat := 0
  postPhase : Bool := false
  frozen : Bool := false
  wrapped : Bool := false
  base : Nat := 0
  log2 : Nat := 10
  postCount : Nat := 0
  postLeft : Nat := 0
  head : Nat := 0
  tail : Nat := 0
  kindMask : BitVec 32 := 0xFFFFFFFF
  gap : Nat := 0
  gapFt : Nat := 0
  dropped : Ctr := Ctr.zero
  triggers : Ctr := Ctr.zero
  trigMissed : Ctr := Ctr.zero
  trigFt : Nat := 0
  winNext : Nat := 0
  written : Nat := 0
  window : Tab Bytes := []
deriving DecidableEq, Repr

/-! ## Security (SEC), power (PWR), identity (GEN) -/

/-- A slice key slot (R438, R441). -/
structure SliceKey where
  key : Option Bytes := none
  gen : Nat := 0
  bound : Bool := false
  holdKey : Bool := false
  fails : Nat := 0
deriving DecidableEq, Repr

/-- One bank of a link-key slot. -/
structure LinkBank where
  key : Bytes
  salt : Nat
deriving DecidableEq, Repr

/-- A link-key slot (R362, R438). -/
structure LinkKey where
  bank0 : Option LinkBank := none
  bank1 : Option LinkBank := none
  gen : Nat := 0
deriving DecidableEq, Repr

/-- A challenge (R448): its 128 bits and its expiry. -/
structure Challenge where
  bits : BitVec 128
  level : Nat
  expireFt : Nat
deriving DecidableEq, Repr

/-- The SEC unit (Table 14.13). `lifecycle` 3 is not yet delivered. -/
structure Sec where
  lifecycle : Nat := 3
  identOk : Bool := false
  securePasid : Nat := 0
  dbgLevel : Nat := 0
  dbgFails : Nat := 0
  chal : Option Challenge := none
  chalWords : BitVec 128 := 0
  lockoutFt : Option Nat := none
  keySel : Nat := 0
  keySelLink : Bool := false
  alarmMask : BitVec 32 := 0
  alarmTripped : BitVec 32 := 0
  alarmSensor : Nat := 0
  alarmClass : Nat := 0
  alarmSlice : Nat := 0
  alarmFt : Nat := 0
  erasures : Ctr := Ctr.zero
  sliceKeys : Tab SliceKey := []
  linkKeys : Tab LinkKey := []
deriving DecidableEq, Repr

/-- What the retained store holds beside the Ret Y fields themselves, which keep their values (R462): the slice and
partition entries, validity, lifecycle and chip of its header. -/
structure Retained where
  sealed' : Bool := false
  lifecycle : Nat := 3
  chip : Nat := 0
  slices : Tab Slice := []
  partitions : Tab Partition := []
  crcOk : Bool := true
deriving DecidableEq, Repr

/-- The PWR unit (Table 14.12) and the progress of a start (R458, R459). -/
structure Pwr where
  supplies : Bool := false
  pstate : Nat := 0
  presult : Nat := 0
  pbusy : Bool := false
  graceFt : Option Nat := none
  toB3 : Bool := false
  idleB1Us : Nat := 100
  refuse : BitVec 7 := 0
  wakeAt : Nat := 0
  wakeCause : Nat := 0
  wakeLine : Nat := 0
  wakePending : Option (Nat × Nat) := none
  rsValid : Bool := false
  startKind : Nat := 0
  starting : Bool := false
  coldStart : Bool := false
  selfTestDone : Bool := false
  startGo : Bool := false
  ready : Bool := false
  readyFt : Nat := 0
  idleFt : Nat := 0
  armedFt : Nat := 0
  b1Entries : Ctr := Ctr.zero
  b2Entries : Ctr := Ctr.zero
  retained : Retained := {}
deriving DecidableEq, Repr

/-! ## View pages -/

/-- What a view page's Q_CMD is doing (R57). -/
inductive QOp where
  | create (dva : Nat)
  | drain (slot : Nat)
deriving DecidableEq, Repr

/-- The view-page registers of one slice: Tables 02.2, 03.10, 04.3, 06.12, 12.10, 14.14 and 15.4. -/
structure View where
  qDesc : Nat := 0
  qResult : Nat := 0
  qOp : Option QOp := none
  peekSel : Nat := 0
  vResult : Nat := 0
  vCtxOut : Nat := 0
  vBusy : Bool := false
  save : Nat := 0
  fqSel : Nat := 0
  fqBase : Nat := 0
  fqEn : Bool := false
  fqOverflow : Bool := false
  fqHead : Nat := 0
  fqTail : Nat := 0
  fqPhase : Bool := true
  hotThresh : Nat := 0
  accSel : Nat := 0
  pnBase : Nat := 0
  pnLog2 : Nat := 0
  pnEn : Bool := false
  pnVector : Nat := 0
  pnHead : Nat := 0
  pnTail : Nat := 0
  pnPhase : Bool := true
  bankEn : BitVec 15 := 0x7FFF
  qSel : Nat := 0
  niSelf : Bool := false
  niMgr : Bool := false
  niChal : Option Challenge := none
  niChalWords : BitVec 128 := 0
  niResp : List W32 := [0, 0, 0, 0]
  stBase : Nat := 0
  stLog2 : Nat := 0
  stEn : Bool := false
  stHead : Nat := 0
  stTail : Nat := 0
  stGap : Nat := 0
  stGapFt : Nat := 0
  itemsOk : Ctr := Ctr.zero
  itemsFailed : Ctr := Ctr.zero
  waitUs : Ctr := Ctr.zero
  lines : Ctr := Ctr.zero
  wgStarted : Ctr := Ctr.zero
  tokens : Ctr := Ctr.zero
deriving DecidableEq, Repr

/-- Who holds a latch of R491: each PCIe function, the management processor, the debug port. -/
inductive Latcher where
  | fn (n : Nat)
  | mp
  | debug
deriving DecidableEq, Repr

/-- A latched value: whose, at which offset of the window, the word. -/
structure Latch where
  whose : Latcher
  off : Nat
  word : W32
deriving DecidableEq, Repr

/-! ## The state -/

/-- The block itself: everything but the queue of waiting commands. `out`, `readOut` and `free` are the model's own
fields: the log of what left the block, the word the last register read returned, and the counter that names free values.
`mem` holds local HBM (space 0), scratchpad (space 1) and what the block wrote to the host window (space 2), by
space × 2^46 + offset, in the canonical form of `Memory.wf`; `uncorr` the 64-byte lines that hold uncorrectable data
(R500). -/
structure Blk where
  ft : Nat := 0
  free : Nat := 0
  out : List Out := []
  readOut : BitVec 64 := 0
  mem : List Host.Cell := []
  uncorr : List Nat := []
  own : Own := {}
  pages : Tab PageHdr := []
  latches : List Latch := []
  chip : Nat := 0
  pwr : Pwr := {}
  sec : Sec := {}
  hlu : Hlu := {}
  qfe : Qfe := {}
  ctx : Ctx := {}
  fen : Fen := {}
  evc : Evc := {}
  mbx : Mbx := {}
  sch : Sch := {}
  mar : Mar := {}
  mdl : Mdl := {}
  xlt : Xlt := {}
  tre : Tre := {}
  bwr : Bwr := {}
  lmf : Lmf := {}
  rcv : Rcv := {}
  trc : Trc := {}
  slices : Tab Slice := []
  partitions : Tab Partition := []
  contexts : Tab Context := []
  queues : Tab Queue := []
  items : Tab Item := []
  views : Tab View := []
deriving DecidableEq, Repr

/-- The state: the queue of commands that wait, first in, first out, and the block. -/
structure State where
  pending : List Instr
  blk : Blk
deriving DecidableEq, Repr

/-- No command of the model ends in a fault: the spec gives every row of the table an effect, and an event whose occasion
is absent leaves the state as it is. The one constructor names the stop kept for an access that the spec would place
outside the model's memory; nothing raises it. Safe. -/
inductive Fault where
  | outsideModel
deriving DecidableEq, Repr

/-- A refusal by name, for a command that has no meaning in the model yet. Safe: the machine stops. -/
inductive Refusal where
  | notModelled (mnemonic : String)
deriving DecidableEq, Repr

/-- The block right after power is applied and before the supplies are valid (R48, R50): every register at the reset value
of its table, every object table empty, every port OFF. -/
def Blk.reset : Blk := {}

/-- The state at reset: the block at reset and no command waiting. -/
def State.reset : State := { pending := [], blk := Blk.reset }

end Sys2Proof.Machine
end

