-- ==== Sys2Proof/Machine/Ops.lean ====
section
/-! DEFINITION. The named operations of the block that every family shares: memory and ownership, page errors, event
fires, packets and transactions, translation, and writes that Swedikin issues at a device virtual address. -/

namespace Sys2Proof.Machine

/-! ## Small updates -/

/-- Run a change of the block; the queue of commands stays as it is. -/
def act (f : Blk → Blk) (s : State) : Host.Outcome State Fault Refusal :=
  .next { pending := s.pending, blk := f s.blk }

/-- Log what leaves the block. -/
def Blk.emit (b : Blk) (o : Out) : Blk := { b with out := b.out ++ [o] }

/-- Change the Xlt state. -/
def Blk.xltU (b : Blk) (f : Xlt → Xlt) : Blk := { b with xlt := f b.xlt }
/-- Change the Lmf state. -/
def Blk.lmfU (b : Blk) (f : Lmf → Lmf) : Blk := { b with lmf := f b.lmf }
/-- Change the Ctx state. -/
def Blk.ctxU (b : Blk) (f : Ctx → Ctx) : Blk := { b with ctx := f b.ctx }
/-- Change the Fen state. -/
def Blk.fenU (b : Blk) (f : Fen → Fen) : Blk := { b with fen := f b.fen }
/-- Change the Evc state. -/
def Blk.evcU (b : Blk) (f : Evc → Evc) : Blk := { b with evc := f b.evc }
/-- Change the Mbx state. -/
def Blk.mbxU (b : Blk) (f : Mbx → Mbx) : Blk := { b with mbx := f b.mbx }
/-- Change the Sch state. -/
def Blk.schU (b : Blk) (f : Sch → Sch) : Blk := { b with sch := f b.sch }
/-- Change the Mar state. -/
def Blk.marU (b : Blk) (f : Mar → Mar) : Blk := { b with mar := f b.mar }
/-- Change the Mdl state. -/
def Blk.mdlU (b : Blk) (f : Mdl → Mdl) : Blk := { b with mdl := f b.mdl }
/-- Change the Tre state. -/
def Blk.treU (b : Blk) (f : Tre → Tre) : Blk := { b with tre := f b.tre }
/-- Change the Bwr state. -/
def Blk.bwrU (b : Blk) (f : Bwr → Bwr) : Blk := { b with bwr := f b.bwr }
/-- Change the Rcv state. -/
def Blk.rcvU (b : Blk) (f : Rcv → Rcv) : Blk := { b with rcv := f b.rcv }
/-- Change the Trc state. -/
def Blk.trcU (b : Blk) (f : Trc → Trc) : Blk := { b with trc := f b.trc }
/-- Change the Sec state. -/
def Blk.secU (b : Blk) (f : Sec → Sec) : Blk := { b with sec := f b.sec }
/-- Change the Pwr state. -/
def Blk.pwrU (b : Blk) (f : Pwr → Pwr) : Blk := { b with pwr := f b.pwr }
/-- Change the Hlu state. -/
def Blk.hluU (b : Blk) (f : Hlu → Hlu) : Blk := { b with hlu := f b.hlu }
/-- Change the Qfe state. -/
def Blk.qfeU (b : Blk) (f : Qfe → Qfe) : Blk := { b with qfe := f b.qfe }
/-- Change the Own state. -/
def Blk.ownU (b : Blk) (f : Own → Own) : Blk := { b with own := f b.own }
/-- Change one item. -/
def Blk.updItem (b : Blk) (i : Nat) (f : Item → Item) : Blk := { b with items := b.items.upd i f }
/-- Change one queue. -/
def Blk.updQueue (b : Blk) (q : Nat) (f : Queue → Queue) : Blk := { b with queues := b.queues.upd q f }
/-- Change one context. -/
def Blk.updContext (b : Blk) (c : Nat) (f : Context → Context) : Blk := { b with contexts := b.contexts.upd c f }
/-- Change one slice. -/
def Blk.updSlice (b : Blk) (s : Nat) (f : Slice → Slice) : Blk := { b with slices := b.slices.upd s f }
/-- The view page of a slice. -/
def Blk.view (b : Blk) (s : Nat) : View := b.views.getD s {}
/-- Change a slice's view page. -/
def Blk.updView (b : Blk) (s : Nat) (f : View → View) : Blk := { b with views := b.views.set s (f (b.view s)) }
/-- A core as SCH sees it. -/
def Blk.core (b : Blk) (c : Nat) : Core := b.sch.cores.getD c {}
/-- Change one core. -/
def Blk.updCore (b : Blk) (c : Nat) (f : Core → Core) : Blk :=
  { b with sch := { b.sch with cores := b.sch.cores.set c (f (b.core c)) } }
/-- A Lemdy port. -/
def Blk.port (b : Blk) (p : Nat) : Port := b.lmf.ports.getD p {}
/-- Change one port. -/
def Blk.updPort (b : Blk) (p : Nat) (f : Port → Port) : Blk :=
  { b with lmf := { b.lmf with ports := b.lmf.ports.set p (f (b.port p)) } }
/-- The queue of a slice's slot, by key. -/
def qkey (slice slot : Nat) : Nat := slice * 512 + slot

/-- One nanosecond of fabric time, while the supplies are valid, and in B3 in the always-on domain (R46, R50). A slew in progress moves the count by at most 1 ns
more or less in each microsecond and never back (R50, R51). -/
def Blk.tick (b : Blk) : Blk :=
  if b.pwr.supplies ∨ b.pwr.pstate = 3 then
    if b.lmf.slew ≠ 0 ∧ b.ft / 1000 ≠ b.lmf.slewUs then
      { b with
        ft := if b.lmf.slew > 0 then b.ft + 2 else b.ft
        lmf := { b.lmf with
          slew := if b.lmf.slew > 0 then b.lmf.slew - 1 else b.lmf.slew + 1
          slewUs := b.ft / 1000 } }
    else { b with ft := b.ft + 1 }
  else b

/-! ## Page errors (R483 to R485) -/

/-- The page number (offset / 4,096) of each unit's page 0 (Table 16.3). -/
def pgGEN : Nat := 0x000
/-- PWR page 0. -/
def pgPWR : Nat := 0x004
/-- SEC page 0. -/
def pgSEC : Nat := 0x008
/-- HLU page 0. -/
def pgHLU : Nat := 0x010
/-- QFE page 0. -/
def pgQFE : Nat := 0x020
/-- CTX page 0. -/
def pgCTX : Nat := 0x030
/-- FEN page 0. -/
def pgFEN : Nat := 0x040
/-- EVC page 0. -/
def pgEVC : Nat := 0x050
/-- MBX page 0. -/
def pgMBX : Nat := 0x060
/-- SCH page 0. -/
def pgSCH : Nat := 0x080
/-- MAR page 0. -/
def pgMAR : Nat := 0x090
/-- MDL page 0. -/
def pgMDL : Nat := 0x0A0
/-- XLT page 0. -/
def pgXLT : Nat := 0x0B0
/-- TRE page 0. -/
def pgTRE : Nat := 0x0C0
/-- BWR page 0. -/
def pgBWR : Nat := 0x0E0
/-- LMF page 0. -/
def pgLMF : Nat := 0x100
/-- RCV page 0. -/
def pgRCV : Nat := 0x200
/-- TRC page 0. -/
def pgTRC : Nat := 0x210
/-- The view page of slice `s` (R52). -/
def pgView (s : Nat) : Nat := 0x1000 + s

/-- The header state of a page. -/
def Blk.hdr (b : Blk) (pg : Nat) : PageHdr := b.pages.getD pg {}

/-- A page header that counts one error; the first since a clear latches its code and time (R484). -/
def PageHdr.count (h : PageHdr) (ft code : Nat) : PageHdr :=
  if h.err.val = 0 ∧ h.err.sat = false then
    { h with err := h.err.bump, errCode := BitVec.ofNat 8 code, errFt := BitVec.ofNat 24 (ft / 1024) }
  else { h with err := h.err.bump }

/-- One error counted on a page (R485). -/
def pageErr (pg code : Nat) (b : Blk) : Blk := { b with pages := b.pages.set pg ((b.hdr pg).count b.ft code) }

/-- An error that a slice's own access causes counts on its view page and on the unit page (R484). -/
def viewErr (slice pg code : Nat) (b : Blk) : Blk := pageErr pg code (pageErr (pgView slice) code b)

/-- `n` errors counted on a page. -/
def pageErrs (pg code : Nat) : Nat → Blk → Blk
  | 0, b => b
  | n + 1, b => pageErrs pg code n (pageErr pg code b)

/-! ## Memory -/

/-- The byte at a key: zero where nothing is listed. -/
def memGet : List Host.Cell → Nat → Byte
  | [], _ => 0
  | (j, u) :: t, k => if j = k then u else memGet t k

/-- Write one byte, keeping the canonical form. -/
def memSet : List Host.Cell → Nat → Byte → List Host.Cell
  | [], k, v => if v = 0 then [] else [(k, v)]
  | (j, u) :: t, k, v =>
    if j < k then (j, u) :: memSet t k v
    else if j = k then (if v = 0 then t else (k, v) :: t)
    else if v = 0 then (j, u) :: t
    else (k, v) :: (j, u) :: t

/-- Write bytes at rising keys. -/
def memWrite : List Host.Cell → Nat → Bytes → List Host.Cell
  | m, _, [] => m
  | m, k, v :: vs => memWrite (memSet m k v) (k + 1) vs

/-- Read `n` bytes at rising keys. -/
def memRead (m : List Host.Cell) (k n : Nat) : Bytes := (List.range n).map fun i => memGet m (k + i)

/-- The canonical form: keys strictly rising and no listed byte zero. -/
def Memory.wf : List Host.Cell → Bool
  | [] => true
  | [(_, u)] => u != 0
  | (j, u) :: (k, v) :: t => u != 0 && decide (j < k) && Memory.wf ((k, v) :: t)

/-- The chip of a physical address (Table 01.5). -/
def paChip (pa : Nat) : Nat := bits pa 48 10
/-- The space of a physical address: 0 HBM, 1 scratchpad, 2 host window, 3 MMIO. -/
def paSpace (pa : Nat) : Nat := bits pa 46 2
/-- The offset of a physical address within its space. -/
def paOff (pa : Nat) : Nat := bits pa 0 46
/-- The memory key of a local physical address. -/
def paKey (pa : Nat) : Nat := bits pa 0 48
/-- A physical address of this chip. -/
def mkPa (b : Blk) (space off : Nat) : Nat := b.chip * 2 ^ 48 + space * 2 ^ 46 + off

/-- The implemented bytes of a space (R29). -/
def spaceSize : Nat → Nat
  | 0 => 256 * 2 ^ 30
  | 1 => 768 * 2 ^ 20
  | 2 => 2 ^ 46
  | _ => 32 * 2 ^ 20

/-- The access lies inside the implemented size of its space. -/
def paInside (pa len : Nat) : Bool := decide (pa < 2 ^ 58) && decide (paOff pa + len ≤ spaceSize (paSpace pa))

/-- The address stays on this die (R30). -/
def isLocal (b : Blk) (pa : Nat) : Bool := paChip pa == b.chip

/-- The 64-byte lines that the bytes at a key touch. -/
def linesOf (k n : Nat) : List Nat := if n = 0 then [] else rangeFrom (k / 64) ((k + n - 1) / 64 - k / 64 + 1)

/-- The 64 KiB granules that the bytes at a key touch; the granule number of a key is the key / 65,536. -/
def granulesOf (k n : Nat) : List Nat :=
  if n = 0 then [] else rangeFrom (k / 65536) ((k + n - 1) / 65536 - k / 65536 + 1)

/-- A read of these bytes meets uncorrectable data (R500). -/
def uncorrectable (b : Blk) (k n : Nat) : Bool := (linesOf k n).any fun l => b.uncorr.contains l

/-- The lines still uncorrectable after a write: a whole aligned line that was written is good again (R500). -/
def healed (u : List Nat) (k n : Nat) : List Nat := u.filter fun l => !(decide (k ≤ l * 64) && decide (l * 64 + 64 ≤ k + n))

/-- Granules of slices under dirty logging that a performed write touches and whose bit is still to be set (R234). -/
def noteDirty (b : Blk) (k n : Nat) : Blk :=
  (granulesOf k n).foldl (fun b g =>
    match b.own.owner.get? g with
    | some s => b.xltU fun x =>
        { x with dirty := x.dirty.upd s fun d =>
            (if d.pendingBits.contains g then d else { d with pendingBits := d.pendingBits ++ [g] }) }
    | none => b) b

/-- A write performed at its home on this chip (R175): bytes, healed lines, the notifications of R202 and R43, and the
granules to log. -/
def storeLocal (k : Nat) (bs : Bytes) (b : Blk) : Blk :=
  if bs.isEmpty then b
  else
    let b1 : Blk := { b with mem := memWrite b.mem k bs, uncorr := healed b.uncorr k bs.length }
    noteDirty (b1.emit (.reservationClear (k / 64) (linesOf k bs.length).length)) k bs.length

/-- The spill record of the carve-out that a key lies in, where one has been written: its draw and the offset within it (Table
03.1). -/
def spillAt (b : Blk) (k : Nat) : Option (Nat × Nat) :=
  let o := k - (b.ctx.base + 0x800000)
  if b.ctx.tablesEn ∧ b.ctx.base + 0x800000 ≤ k ∧ o < 0x8000000 then
    (b.ctx.spilled.get? (o / 2048)).map fun d => (d, o % 2048)
  else none

/-- The byte that a key reads as: a byte of a spill record is a free value (R125), every other byte is memory's. -/
def byteAt (b : Blk) (k : Nat) : Byte :=
  match spillAt b k with
  | some (d, o) => Config.spillByte d o
  | none => memGet b.mem k

/-- Read bytes at a key. -/
def loadLocal (b : Blk) (k n : Nat) : Bytes := (List.range n).map fun i => byteAt b (k + i)

/-- The spill record of a context is written: its bytes are a new draw (R125). -/
def putSpill (c : Nat) (b : Blk) : Blk :=
  let k := b.ctx.base + 0x800000 + c * 2048
  let b1 : Blk := { b with free := b.free + 1, uncorr := healed b.uncorr k 2048
                           ctx := { b.ctx with spilled := b.ctx.spilled.set c b.free } }
  b1.emit (.reservationClear (k / 64) 32)

/-- Write many bytes at a key, most of them zero: what was listed there goes, and the bytes that are not zero are listed. -/
def storeSpan (k : Nat) (bs : Bytes) (b : Blk) : Blk :=
  if bs.isEmpty then b
  else
    let clear := b.mem.filter fun c => !(decide (k ≤ c.1) && decide (c.1 < k + bs.length))
    let put (m : List Host.Cell × Nat) (v : Byte) : List Host.Cell × Nat := (if v = 0 then m.1 else memSet m.1 m.2 v, m.2 + 1)
    let b1 : Blk := { b with mem := (bs.foldl put (clear, k)).1, uncorr := healed b.uncorr k bs.length }
    noteDirty (b1.emit (.reservationClear (k / 64) (linesOf k bs.length).length)) k bs.length

/-- Zeros over a span of local memory. -/
def zeroMem (k n : Nat) (b : Blk) : Blk :=
  let b1 : Blk := { b with mem := b.mem.filter fun c => !(decide (k ≤ c.1) && decide (c.1 < k + n))
                           uncorr := b.uncorr.filter fun l => !(decide (k ≤ l * 64) && decide (l * 64 + 64 ≤ k + n)) }
  b1.emit (.reservationClear (k / 64) ((n + 63) / 64))

/-! ## Ownership at the memory side (R108, R209, R218, R501) -/

/-- Where a request comes from, as a memory-side checker sees it. -/
inductive Origin where
  | swedikin
  | inbound
  | core
deriving DecidableEq, Repr

/-- The granule lies in the carve-out (R108) or in the XLT area (R209), once that is in service. -/
def protectedGranule (b : Blk) (g : Nat) : Bool :=
  (b.ctx.tablesEn && decide (b.ctx.base / 65536 ≤ g) && decide (g < b.ctx.base / 65536 + 2176)) ||
  (b.xlt.areaEn && decide (b.xlt.area / 65536 ≤ g) && decide (g < b.xlt.area / 65536 + 2176))

/-- A memory-side checker admits the request. -/
def admits (b : Blk) (frm : Origin) (slice : Nat) (write : Bool) (k n : Nat) : Bool :=
  (granulesOf k n).all fun g =>
    if protectedGranule b g then frm == .swedikin || (!write && slice == 0)
    else match b.own.owner.get? g with
      | some o => o == slice
      | none => frm == .swedikin && slice == 0 && write

/-- Push a new owner for granules to every checker; it takes effect when all acknowledge (R42). `why` names what waits. -/
def pushOwner (gs : List Nat) (owner : Option Nat) (why : Option Nat) (b : Blk) : Blk :=
  let b' := { b with own := { b.own with
    pushes := b.own.pushes ++ [{ id := b.own.pushNext, granules := gs, owner := owner, why := why }],
    pushNext := b.own.pushNext + 1 } }
  gs.foldl (fun b g => b.emit (.ownerPush g owner)) b'

/-! ## Events (R391, R392) -/

/-- One fire of a source (R391). `cq` is the CQ of a COMPLETION fire. -/
def Source'.fire (src : Source') (ctx : Nat) (data : BitVec 32) (ft : Nat) (cq : Option Nat) : Source' :=
  let c := if src.count < 255 then src.count + 1 else 255
  let sat := src.sat || decide (c = 255)
  if src.pending then
    let mixed := src.mixed || decide (ctx ≠ src.ctx)
    { src with
      count := c
      sat := sat
      mixed := mixed
      ctx := if ctx ≠ src.ctx then 0xFFFF else src.ctx
      data := match cq with
        | some q => if src.data.toNat % 512 ≠ q then src.data ||| 0x200 else src.data
        | none => src.data }
  else { src with count := c, sat := sat, pending := true, mixed := false, ctx := ctx, data := data, time := ft }

/-- The fixed priority of a source (Table 12.2). -/
def fixedPrio : Nat → Nat
  | 64 => 3 | 65 => 3 | 66 => 2 | 67 => 2 | 68 => 3 | 69 => 2 | 70 => 1 | 71 => 3 | 72 => 3 | 73 => 1 | 74 => 1
  | 75 => 3 | 76 => 3 | 77 => 2 | 78 => 2 | 79 => 2 | 80 => 1
  | 8176 => 1 | 8177 => 2 | 8178 => 3
  | _ => 0

/-- A global source at its reset values: wired and unit sources have an owner, slice 0 (Table 12.9). -/
def Source'.initial (n : Nat) : Source' :=
  { assigned := decide (n < 256), prio := if 64 ≤ n ∧ n < 256 then fixedPrio n else 0 }

/-- A global source. -/
def Blk.source (b : Blk) (n : Nat) : Source' := b.evc.sources.getD n (Source'.initial n)
/-- Change a global source. -/
def Blk.updSource (b : Blk) (n : Nat) (f : Source' → Source') : Blk :=
  { b with evc := { b.evc with sources := b.evc.sources.set n (f (b.source n)) } }
/-- A banked source: `i` is the number less 8,176. -/
def Blk.banked (b : Blk) (slice i : Nat) : Source' := b.evc.banked.getD (slice * 16 + i) { prio := fixedPrio (8176 + i) }
/-- Change a banked source. -/
def Blk.updBanked (b : Blk) (slice i : Nat) (f : Source' → Source') : Blk :=
  { b with evc := { b.evc with banked := b.evc.banked.set (slice * 16 + i) (f (b.banked slice i)) } }

/-- Leave B1 on an event fire (R451). -/
def leaveB1 (b : Blk) : Blk := if b.pwr.pstate = 1 then { b with pwr := { b.pwr with pstate := 0, idleFt := b.ft } } else b

/-- A fire of a global source. One that has no owner changes nothing and is counted (R392). Sources other than wired ones
do not fire in B2 (R396). -/
def fire (n ctx : Nat) (data : BitVec 32) (b : Blk) : Blk :=
  if b.pwr.pstate ≥ 2 ∧ 64 ≤ n then b
  else if (b.source n).assigned then leaveB1 (b.updSource n fun s => s.fire ctx data b.ft none)
  else pageErr pgEVC 0x07 b

/-- A fire of a slice's banked source. -/
def fireBanked (slice i ctx : Nat) (data : BitVec 32) (cq : Option Nat) (b : Blk) : Blk :=
  if b.pwr.pstate ≥ 2 then b else leaveB1 (b.updBanked slice i fun s => s.fire ctx data b.ft cq)

/-! ## The Burgee (R22) -/

/-- The DEADLINE field: time remaining in 16 ns units, or no deadline (R24). -/
def deadlineField (ft : Nat) : Option Nat → Nat
  | none => 0xFFFFFF
  | some t => if (t - ft) / 16 > 0xFFFFFE then 0xFFFFFF else (t - ft) / 16

/-- A Burgee (Table 01.3). -/
def burgee (slice ctx cls dl scope : Nat) : Nat :=
  slice % 4096 + ctx % 65536 * 2 ^ 12 + cls % 8 * 2 ^ 28 + dl % 2 ^ 24 * 2 ^ 32 + scope % 8 * 2 ^ 56

/-- Every reserved bit of a Burgee is zero and its scope is one that is issued (R22, R23). -/
def burgeeOk (g : Nat) : Bool := bits g 31 1 == 0 && bits g 59 5 == 0 && decide (bits g 56 3 < 6)

/-! ## Packets, routes and transactions (R345 to R358) -/

/-- The bytes a packet takes on the link: header, padded payload, trailer. -/
def pktBytes (p : Pkt) : Nat := 48 + roundUp p.payload.length 16

/-- The 32 header bytes of a packet (Table 10.4). -/
def pktHeader (p : Pkt) : Bytes :=
  leBytes 1 p.typ ++ leBytes 1 (p.vc + (if p.resent then 4 else 0) + (if p.classB then 8 else 0) + p.ttl * 16) ++
  leBytes 2 p.dest ++ leBytes 2 p.src ++ leBytes 2 p.payload.length ++ leBytes 8 p.txn ++ (p.spec ++ List.replicate 16 0).take 16

/-- The ports of a mask that are in service, ascending. -/
def activePorts (b : Blk) (mask : BitVec 32) : List Nat :=
  (List.range 32).filter fun p => mask.getLsbD p && decide ((b.port p).state = .active) && !(b.port p).draining

/-- The candidate ports toward a chip: PRIMARY while one is in service, else ALTERNATE (R357). -/
def routePorts (b : Blk) (dest : Nat) : List Nat :=
  let r := b.lmf.routes.getD dest {}
  if r.valid then (let ps := activePorts b r.primary; if ps.isEmpty then activePorts b r.alternate else ps) else []

/-- The next port in round robin after the last one used. -/
def pickPort (ps : List Nat) (last : Nat) : Option Nat :=
  match ps.find? (fun p => decide (last < p)) with
  | some p => some p
  | none => ps.head?

/-- The credits a packet takes: its 16-byte granules (R349). -/
def pktGranules (p : Pkt) : Nat := pktBytes p / 16

/-- Codewords in the replay buffer: from the oldest one kept to the next SEQ. -/
def Port.kept (q : Port) : Nat :=
  match q.replay with
  | [] => 0
  | k :: _ => (q.txSeq + 4096 - k.seq) % 4096

/-- Put packets into data codewords while the replay buffer has room and the credits suffice (R343, R349). Each packet
begins a codeword of its own here and PAD fills the rest. -/
def pumpPort : Nat → Nat → Blk → Blk
  | 0, _, b => b
  | fuel + 1, n, b =>
    let po := b.port n
    match po.queue with
    | [] => b
    | p :: rest =>
      let cr := (if p.classB then po.creditB else po.creditA).getD p.vc 0
      let need := if p.vc = 3 then 0 else pktGranules p
      let cws := (pktBytes p + 639) / 640
      if po.kept + cws ≤ 256 ∧ need ≤ cr ∧ po.state = .active then
        let b1 := b.updPort n fun q => { q with
          queue := rest
          replay := q.replay ++ [{ seq := q.txSeq, pkts := [p] }]
          txSeq := (q.txSeq + cws) % 4096
          txCtr := q.txCtr + 1
          creditA := if p.classB then q.creditA else q.creditA.set p.vc (cr - need)
          creditB := if p.classB then q.creditB.set p.vc (cr - need) else q.creditB }
        pumpPort fuel n (b1.emit (.packet n p))
      else b

/-- Queue a packet on a port. A packet that leaves through a dateline port moves to class B (R350). -/
def enqueuePort (n : Nat) (p : Pkt) (b : Blk) : Blk :=
  let p' := if (b.port n).dateline then { p with classB := true } else p
  pumpPort ((b.port n).queue.length + 1) n (b.updPort n fun q => { q with queue := q.queue ++ [p'] })

/-- Send a packet toward its destination, or keep it in the sending queue (R357); the time limits its wait there. -/
def sendPkt (p : Pkt) (b : Blk) : Blk :=
  match pickPort (routePorts b p.dest) b.lmf.rr with
  | some n => enqueuePort n p { b with lmf := { b.lmf with rr := n } }
  | none => { b with lmf := { b.lmf with sendq := b.lmf.sendq ++ [(b.ft + b.lmf.txnTimeoutUs * 1000, p)] } }

/-- Send a link-local control packet on a port (R346). -/
def sendCtl (n typ : Nat) (spec payload : Bytes) (b : Blk) : Blk :=
  (b.updPort n fun q => { q with txCtr := q.txCtr + 1 }).emit (.packet n
    { typ := typ, vc := 3, resent := false, classB := false, ttl := 0, dest := (b.port n).peerChip, src := b.chip, txn := 0,
      spec := spec, payload := payload, rsvd := true })

/-- The Lemdy transaction timeout in ns. -/
def txnNs (b : Blk) : Nat := b.lmf.txnTimeoutUs * 1000

/-- Open the sequence toward a destination with a SESSION of TXN 1, where none is open (R352). -/
def openSession (dest : Nat) (b : Blk) : Blk :=
  if b.lmf.txn.has dest then b
  else sendPkt { typ := 0x08, vc := 0, resent := false, classB := false, ttl := 15, dest := dest, src := b.chip, txn := 1,
                 spec := List.replicate 16 0, payload := leBytes 8 b.lmf.joinFt ++ List.replicate 8 0, rsvd := true }
    { b with lmf := { b.lmf with txn := b.lmf.txn.set dest 2 } }

/-- The TXN the next request toward a destination takes. -/
def nextTxn (b : Blk) (dest : Nat) : Nat := b.lmf.txn.getD dest 2

/-- Send a request-channel packet that accesses a DVA, numbered and tracked until its response or its limit; a request to a chip
whose routing entry is not valid is lost at once (R352, R354). -/
def sendReqAt (dva typ dest : Nat) (spec payload : Bytes) (why : ReqFor) (limit : Nat) (b : Blk) : Blk :=
  let b := openSession dest b
  let txn := nextTxn b dest
  let valid := (b.lmf.routes.getD dest {}).valid
  let q : Request' := { dest := dest, txn := txn, why := why, limitFt := if valid then b.ft + limit else b.ft, dva := dva }
  let b := b.lmfU fun l => { l with
    txn := l.txn.set dest (txn + 1)
    outstanding := if why = .own ∧ typ ≠ 0x01 then l.outstanding else l.outstanding ++ [q] }
  sendPkt { typ := typ, vc := 0, resent := false, classB := false, ttl := 15, dest := dest, src := b.chip, txn := txn,
            spec := spec, payload := payload, rsvd := true } b

/-- Send a request-channel packet of no DVA. -/
def sendReq (typ dest : Nat) (spec payload : Bytes) (why : ReqFor) (limit : Nat) (b : Blk) : Blk :=
  sendReqAt 0 typ dest spec payload why limit b

/-- Send a response (R347). -/
def sendResp (typ dest txn status : Nat) (payload : Bytes) (b : Blk) : Blk :=
  sendPkt { typ := typ, vc := 1, resent := false, classB := false, ttl := 15, dest := dest, src := b.chip, txn := txn,
            spec := leBytes 1 status ++ List.replicate 15 0, payload := payload, rsvd := true } b

/-! ## Translation (R207 to R216) -/

/-- The base of the model window and the DVA span of one model slice in it (R294). -/
def modelBase : Nat := 2 ^ 55
/-- The DVA span of one model table index. -/
def modelSpan : Nat := 2 ^ 30

/-- What a DVA translates to: a physical address with what holds it, a host page, or a fault cause (Table 06.6). -/
inductive Xl where
  | dev (pa : Nat) (tgt : Target)
  | host (hva : Nat)
  /-- A lost piece of a model slice: it waits for its reload, or is stuck (R298). -/
  | lost (stuck : Bool)
  | fault (cause : Nat)
deriving DecidableEq, Repr

/-- The ranges of a slice by index. -/
def rangesOf (b : Blk) (slice : Nat) : Tab Range := b.xlt.ranges.getD slice []

/-- The valid range that contains a device DVA. -/
def findRange (b : Blk) (slice dva : Nat) : Option (Nat × Range) :=
  if b.xlt.areaEn then
    (rangesOf b slice).find? fun e => e.2.valid && decide (e.2.start ≤ dva) && decide (dva < e.2.start + e.2.len)
  else none

/-- Translate a DVA of the model window through the piece map (R294). -/
def xlateModel (b : Blk) (slice dva : Nat) (write : Bool) : Xl :=
  let idx := (dva - modelBase) / modelSpan
  let off := (dva - modelBase) % modelSpan
  match b.mdl.models.get? idx with
  | some m =>
    if m.slice = slice ∧ (m.state = .resident ∨ m.state = .repairing) ∧ off < m.len ∧ m.invalidating = false then
      if write then .fault 0x04
      else if m.lost.contains (off / 65536) then .lost m.stuck
      else match m.pieces[off / 65536]? with
        | some (bank, row) => .dev (mkPa b 1 (bank * 4194304 + row * 65536 + off % 65536)) (.model idx)
        | none => .fault 0x03
    else .fault 0x03
  | none => .fault 0x03

/-- Translate a DVA for a slice (R207, R208, R211, R29). -/
def xlate (b : Blk) (slice dva : Nat) (write : Bool) : Xl :=
  if 2 ^ 57 ≤ dva then .fault 0x01
  else if 2 ^ 56 ≤ dva then .host (dva - 2 ^ 56)
  else if dva < 0x10000 then .fault 0x02
  else if modelBase ≤ dva ∧ dva < modelBase + 1024 * modelSpan then xlateModel b slice dva write
  else match findRange b slice dva with
    | none => .fault 0x03
    | some (i, r) =>
      if write && r.readOnly then .fault 0x04
      else let pa := r.pa + (dva - r.start)
        if paInside pa 1 then .dev pa (.range slice i) else .fault 0x05

/-- The host-translation cache entry of a slice's host page. -/
def hostEntry (b : Blk) (slice page : Nat) : Option HostEntry :=
  b.xlt.hostCache.find? fun e => e.slice == slice && e.hva == page * 4096

/-- A piece of an access: its DVA, length and where it goes. -/
inductive Dest where
  | here (key : Nat) (tgt : Target)
  | away (pa : Nat) (tgt : Target)
  | host (hpa page : Nat)
deriving DecidableEq, Repr

/-- One piece of a planned access. -/
structure Seg where
  dva : Nat
  len : Nat
  dest : Dest
deriving DecidableEq, Repr

/-- Why an access cannot go on yet or at all: a final cause at a DVA, a host page that is not translated, a dirty ring
without room, a lost piece of a model slice. -/
inductive Stop where
  | cause (dva code : Nat)
  | miss (dva page : Nat)
  | ring (page : Nat)
  | lost (dva : Nat) (stuck : Bool)
deriving DecidableEq, Repr

/-- Cut a span at 4 KiB boundaries. -/
def cuts : Nat → Nat → Nat → List (Nat × Nat)
  | 0, _, _ => []
  | _, _, 0 => []
  | fuel + 1, dva, len + 1 =>
    let n := min (len + 1) (4096 - dva % 4096)
    (dva, n) :: cuts fuel (dva + n) (len + 1 - n)

/-- The unread records of the host dirty ring leave room for one more (R236). -/
def ringRoom (d : Dirty) : Bool := decide ((d.tail + 2 ^ d.ringLog2 - d.head) % 2 ^ d.ringLog2 < 2 ^ d.ringLog2 - 1)

/-- Where one piece of an access goes. -/
def segOf (b : Blk) (slice : Nat) (write : Bool) (dva len : Nat) : Except Stop Seg :=
  match xlate b slice dva write with
  | .fault c => .error (.cause dva c)
  | .lost stuck => .error (.lost dva stuck)
  | .dev pa tgt =>
    if isLocal b pa then .ok ⟨dva, len, .here (paKey pa) tgt⟩ else .ok ⟨dva, len, .away pa tgt⟩
  | .host hva =>
    match hostEntry b slice (hva / 4096) with
    | none => .error (.miss dva (hva / 4096))
    | some e =>
      if (write && !e.write) || (!write && !e.read) then .error (.cause dva 0x07)
      else match b.xlt.dirty.get? slice with
        | some d => if write && !e.logged && !ringRoom d then .error (.ring (hva / 4096))
                    else .ok ⟨dva, len, .host (e.hpa + hva % 4096) (hva / 4096)⟩
        | none => .ok ⟨dva, len, .host (e.hpa + hva % 4096) (hva / 4096)⟩

/-- Plan a whole access: every piece translates, or the first stop in address order. -/
def planSpan (b : Blk) (slice dva len : Nat) (write : Bool) : Except Stop (List Seg) :=
  (cuts (len / 4096 + 2) dva len).mapM fun c => segOf b slice write c.1 c.2

/-- The requester identity a slice's host accesses carry: its function and PASID (R35). -/
def sliceFn (b : Blk) (slice : Nat) : Nat := ((b.slices.get? slice).map (·.fn)).getD 0
/-- The PASID of a slice. -/
def slicePasid (b : Blk) (slice : Nat) : Nat := ((b.slices.get? slice).map (·.pasid)).getD 0

/-- A host-translation cache entry is used: it becomes the most recently used (R214). -/
def touchHost (slice page : Nat) (b : Blk) : Blk :=
  let here (e : HostEntry) : Bool := e.slice == slice && e.hva == page * 4096
  { b with xlt := { b.xlt with hostCache := b.xlt.hostCache.filter here ++ b.xlt.hostCache.filter fun e => !here e } }

/-- Count one TLP against the access counter of its 64 KiB host granule, evicting the lowest (R238). -/
def countAccess (slice hva : Nat) (b0 : Blk) : Blk :=
  let b := touchHost slice (hva / 4096) b0
  let g := hva / 65536
  let x := b.xlt
  let clock := x.accClock + 1
  if x.acc.any fun a => a.slice == slice && a.granule == g then
    let bump (a : AccCtr) : AccCtr :=
      if a.slice = slice ∧ a.granule = g then
        { a with value := min 255 (a.value + 1), sat := a.sat || decide (a.value + 1 = 255), last := clock }
      else a
    { b with xlt := { x with accClock := clock, acc := x.acc.map bump } }
  else
    let full := decide (4096 ≤ x.acc.length)
    let low := x.acc.foldl (fun m a => match m with
      | none => some a
      | some c => if a.value < c.value ∨ (a.value = c.value ∧ a.last < c.last) then some a else some c) (none : Option AccCtr)
    let kept := if full then (match low with | some c => x.acc.filter (· ≠ c) | none => x.acc) else x.acc
    -- a granule that is tracked again starts at 0 and this request adds 1 (R238)
    let fresh : AccCtr := { slice := slice, granule := g, value := 1, sat := false, last := clock, noticed := false }
    { b with xlt := { x with accClock := clock, acc := kept ++ [fresh] } }

/-- Write one record of the host dirty ring and the ring's TAIL (Table 06.8), and set LOGGED (R234). -/
def logHostPage (slice page : Nat) (b : Blk) : Blk :=
  match b.xlt.dirty.get? slice with
  | none => b
  | some d =>
    let recd := page * 4096 + (if d.phase then 1 else 0)
    let t := (d.tail + 1) % 2 ^ d.ringLog2
    let b := storeLocal (paKey d.ring + 0x40 + 8 * d.tail) (leBytes 8 recd) b
    let b := storeLocal (paKey d.ring + 8) (leBytes 8 t) b
    b.xltU fun x => { x with
      dirty := x.dirty.set slice { d with
        tail := t
        phase := if t = 0 then !d.phase else d.phase }
      hostCache := x.hostCache.map fun e =>
        if e.slice = slice ∧ e.hva = page * 4096 then { e with logged := true } else e }

/-- Track a posted host-bus write until a flushing read confirms it (R193). -/
def noteHostStore (fn : Nat) (item : Option Nat) (b : Blk) : Blk :=
  b.hluU fun h => { h with stores := h.stores ++ [{ fn := fn, item := item, atFt := b.ft, flush := none }] }

/-- The TLPs of a write: it is cut at multiples of 512 bytes, the maximum payload, so that no 64-byte line is split (R35, R179). -/
def tlps (addr n : Nat) : Nat := (addr % 512 + n + 511) / 512

/-- A posted host-bus write under a translation (R35, R190, R193). -/
def hostWrite (slice hpa page : Nat) (bs : Bytes) (item : Option Nat) (b : Blk) : Blk :=
  let b := match hostEntry b slice page with
    | some e => if b.xlt.dirty.has slice && !e.logged then logHostPage slice page b else b
    | none => b
  let fn := sliceFn b slice
  let b := (List.range (tlps hpa bs.length)).foldl (fun b _ => countAccess slice (page * 4096) b) b
  let b := noteHostStore fn item { b with mem := memWrite b.mem (2 * 2 ^ 46 + hpa) bs }
  b.emit (.hostWrite fn (slicePasid b slice) hpa bs)

/-- What a write that Swedikin issues at a DVA came to. -/
inductive WRes where
  | done (b : Blk)
  | refused (dva : Nat)
  | stop (why : Stop)

/-- Issue the planned pieces of a write. A piece at a home on another chip is one WR, tracked as `why` (R191). -/
def putSegs (slice ctx cls scope : Nat) (deadline : Option Nat) (item : Option Nat) (why : ReqFor) (limit : Nat) :
    List Seg → Bytes → Blk → Option Blk
  | [], _, b => some b
  | s :: rest, bs, b =>
    let now := bs.take s.len
    let b' : Option Blk := match s.dest with
      | .here k _ => if admits b .swedikin slice true k s.len then some (storeLocal k now b) else none
      | .away pa _ => some (sendReqAt s.dva 0x01 (paChip pa)
          (leBytes 8 (burgee slice ctx cls (deadlineField b.ft deadline) scope) ++ leBytes 8 pa) now why limit b)
      | .host hpa page => some (hostWrite slice hpa page now item b)
    match b' with
    | some b' => putSegs slice ctx cls scope deadline item why limit rest (bs.drop s.len) b'
    | none => none

/-- A translation uses its range-cache entry; a miss is counted and fills it (R213). -/
def touchRange (slice idx : Nat) (b : Blk) : Blk :=
  let x := b.xlt
  let hit := x.rangeCache.any fun e => e.1 == slice && e.2.1 == idx
  let epoch := ((x.rangeCache.find? fun e => e.1 == slice && e.2.1 == idx).map (·.2.2)).getD x.epoch
  let rest := x.rangeCache.filter fun e => !(e.1 == slice && e.2.1 == idx)
  { b with xlt := { x with rangeCache := ((slice, idx, epoch) :: rest).take 4096,
                           rcMisses := if hit then x.rcMisses else x.rcMisses.bump } }

/-- Use the range-cache entries of the pieces of an access. -/
def touchSegs (slice : Nat) (segs : List Seg) (b : Blk) : Blk :=
  segs.foldl (fun b s => match s.dest with
    | .here _ (.range _ i) => touchRange slice i b
    | .away _ (.range _ i) => touchRange slice i b
    | _ => b) b

/-- A write that one of Swedikin's control units issues at a DVA of a slice. -/
def ctlWrite (slice ctx : Nat) (item : Option Nat) (dva : Nat) (bs : Bytes) (b : Blk) : WRes :=
  match planSpan b slice dva bs.length true with
  | .error e => .stop e
  | .ok segs =>
    match putSegs slice ctx 6 3 none item (match item with | some i => .itemWrite i | none => .own) (txnNs b) segs bs
        (touchSegs slice segs b) with
    | some b => .done b
    | none => .refused dva

/-- Ask the host for a page that is not translated, once per page (R215). -/
def requestAts (slice dva : Nat) (write : Bool) (stream : Stream) (b : Blk) : Blk :=
  let page := dva % 2 ^ 56 / 4096
  let asked := b.xlt.atsWaits.any fun w => w.slice == slice && w.page == page
  let b := { b with xlt := { b.xlt with
    atsWaits := b.xlt.atsWaits ++ [{ slice := slice, page := page, dva := dva, write := write, stream := stream }],
    hcMisses := if asked then b.xlt.hcMisses else b.xlt.hcMisses.bump } }
  if asked then b else b.emit (.atsRequest slice page 1)

/-- A control write that cannot go on now is kept with its page. -/
def keepWrite (slice dva : Nat) (stream : Stream) (b : Blk) : Blk :=
  let w : AtsWait := { slice := slice, page := dva % 2 ^ 56 / 4096, dva := dva, write := true, stream := stream }
  { b with xlt := { b.xlt with atsWaits := b.xlt.atsWaits ++ [w] } }

/-- A control write that nobody waits on: performed, or kept as a stream of its own until its page translates. -/
def ctlWriteLater (slice ctx dva : Nat) (bs : Bytes) (b : Blk) : Blk :=
  match ctlWrite slice ctx none dva bs b with
  | .done b => b
  | .refused _ => b
  | .stop (.miss d _) => requestAts slice d true (.write slice dva bs) b
  | .stop (.cause d _) => keepWrite slice d (.write slice dva bs) b
  | .stop (.lost _ _) => b
  | .stop (.ring page) => keepWrite slice (page * 4096) (.write slice dva bs) b

/-- A write at a physical address on Swedikin's own account under slice 0: local memory, the host window through the
physical function, or another chip. -/
def paWrite (pa : Nat) (bs : Bytes) (b : Blk) : Blk :=
  if isLocal b pa then
    (if paSpace pa < 2 then storeLocal (paKey pa) bs b
     else (noteHostStore 0 none { b with mem := memWrite b.mem (paKey pa) bs }).emit
       (.hostWrite 0 (slicePasid b 0) (paOff pa) bs))
  else sendReq 0x01 (paChip pa) (leBytes 8 (burgee 0 0 6 0xFFFFFF 3) ++ leBytes 8 pa) bs .own (txnNs b) b

/-- The bytes of a structure read at a physical address: this chip's memory, or what the other home returned. -/
def paRead (b : Blk) (pa n : Nat) (ext : ExtRead) : ExtRead :=
  if isLocal b pa ∧ paSpace pa < 2 then
    (if uncorrectable b (paKey pa) n then .poisoned else .data (loadLocal b (paKey pa) n))
  else match ext with
    | .data bs => .data ((bs ++ List.replicate n 0).take n)
    | e => e

end Sys2Proof.Machine
end

