-- ==== Sys2Proof/Machine/LinkOps.lean ====
section
/-! DEFINITION. Credits that a receiving port returns, and what withholds them (R328, R349, R353). -/

namespace Sys2Proof.Machine

/-- Bytes of request-channel packets held out of order. -/
def reorderBytes (b : Blk) : Nat :=
  b.lmf.sources.foldl (fun n e => e.2.held.foldl (fun n h => n + pktBytes h.2.2) n) 0

/-- The 4 MiB reorder pool is full (R353). -/
def reorderFull (b : Blk) : Bool := decide (4 * 2 ^ 20 ≤ reorderBytes b)

/-- Return the credits a port owes in a CREDIT packet, but for a channel whose credit is withheld (R328, R349, R353). -/
def returnCredits (n : Nat) (b : Blk) : Blk :=
  let held (i : Nat) : Bool := (i / 2 == 0 && reorderFull b) || (i / 2 == 2 && !b.tre.heldChunks.isEmpty)
  let owed := (b.port n).owed
  let send := (List.range 8).map fun i => if held i then 0 else owed.getD i 0
  if send.all (· == 0) then b
  else sendCtl n 0x31 (List.replicate 16 0) ((send.map fun c => leBytes 2 c).flatten)
    (b.updPort n fun q => { q with owed := (List.range 8).map fun i => owed.getD i 0 - send.getD i 0 })

/-- A received packet has left its buffer: its granules are owed to the sender (R349). -/
def oweCredit (n : Nat) (p : Pkt) (b : Blk) : Blk :=
  if 3 ≤ p.vc then b
  else
    let i := p.vc * 2 + if p.classB then 1 else 0
    returnCredits n (b.updPort n fun q => { q with owed := q.owed.set i (q.owed.getD i 0 + pktGranules p) })

/-- Return what every port owes, after a pool has space again. -/
def returnAll (b : Blk) : Blk := b.lmf.ports.foldl (fun b e => returnCredits e.1 b) b

end Sys2Proof.Machine
end

