-- ==== Sys2Proof/Machine/Numerics.lean ====
section
/-! DEFINITION. The arithmetic of the transfer and reduce engines, exact and then rounded once (R310 to R317). A finite value
is a sign, a natural mantissa and a binary exponent. -/

namespace Sys2Proof.Machine

/-- An exact number, an infinity or NaN. -/
inductive Num where
  | nan
  | inf (neg : Bool)
  | fin (neg : Bool) (m : Nat) (e : Int)
deriving DecidableEq, Repr

/-- A binary format: exponent and mantissa bits, bias, the code of its largest magnitude, the code of infinity and of NaN where
it has them (Table 09.4). -/
structure Fmt where
  ebits : Nat
  mbits : Nat
  bias : Nat
  top : Nat
  inf : Option Nat
  nan : Option Nat
deriving DecidableEq, Repr

/-- FP32. -/
def fp32 : Fmt := ⟨8, 23, 127, 0x7F7FFFFF, some 0x7F800000, some 0x7FC00000⟩
/-- BF16. -/
def bf16 : Fmt := ⟨8, 7, 127, 0x7F7F, some 0x7F80, some 0x7FC0⟩
/-- FP8 E4M3: a NaN and no infinity. -/
def e4m3 : Fmt := ⟨4, 3, 7, 0x7E, none, some 0x7F⟩
/-- FP8 E5M2. -/
def e5m2 : Fmt := ⟨5, 2, 15, 0x7B, some 0x7C, some 0x7F⟩
/-- FP6 E3M2. -/
def e3m2 : Fmt := ⟨3, 2, 3, 0x1F, none, none⟩
/-- FP6 E2M3. -/
def e2m3 : Fmt := ⟨2, 3, 1, 0x1F, none, none⟩
/-- FP4 E2M1. -/
def e2m1 : Fmt := ⟨2, 1, 1, 0x7, none, none⟩

/-- Width of a format in bits. -/
def Fmt.width (f : Fmt) : Nat := 1 + f.ebits + f.mbits

/-- The value of a code. Codes above the format's largest magnitude are infinity or NaN, as the format has them. -/
def Fmt.decode (f : Fmt) (x : Nat) : Num :=
  let neg := bit x (f.width - 1)
  let mag := x % 2 ^ (f.width - 1)
  if f.top < mag then (if f.inf = some mag then .inf neg else .nan)
  else if mag / 2 ^ f.mbits = 0 then .fin neg mag (1 - (f.bias : Int) - f.mbits)
  else .fin neg (2 ^ f.mbits + mag % 2 ^ f.mbits) ((mag / 2 ^ f.mbits : Nat) - (f.bias : Int) - f.mbits)

/-- `m × 2^k` rounded to the nearest integer, ties to even. -/
def rne (m : Nat) (k : Int) : Nat :=
  match k with
  | .ofNat j => m * 2 ^ j
  | .negSucc j =>
    let d := 2 ^ (j + 1)
    let q := m / d
    let r := m % d
    if 2 * r > d ∨ (2 * r = d ∧ q % 2 = 1) then q + 1 else q

/-- The magnitude code of a finite value, rounded to nearest even with subnormals kept; it may lie beyond the largest. -/
def Fmt.round (f : Fmt) (m : Nat) (e : Int) : Nat :=
  if m = 0 then 0
  else
    let q : Int := max ((Nat.log2 m : Int) + e) (1 - (f.bias : Int)) - f.mbits
    (q + f.mbits + f.bias - 1).toNat * 2 ^ f.mbits + rne m (e - q)

/-- The code of a number; a finite value beyond the largest saturates, or becomes infinity (R310, R311, R314, R315). -/
def Fmt.encode (f : Fmt) (saturate : Bool) (n : Num) : Nat :=
  let s (neg : Bool) : Nat := if neg then 2 ^ (f.width - 1) else 0
  match n with
  | .nan => f.nan.getD 0
  | .inf neg => match f.inf with
    | some c => s neg + c
    | none => match f.nan with
      | some c => c
      | none => s neg + f.top
  | .fin neg m e =>
    let c := f.round m e
    if f.top < c then
      (if saturate then s neg + f.top else match f.inf with
        | some i => s neg + i
        | none => s neg + f.top)
    else s neg + c

/-- An FP32 word. -/
abbrev F32 := BitVec 32

/-- The value of an FP32 word. -/
def F32.num (x : F32) : Num := fp32.decode x.toNat
/-- The FP32 word of a number. -/
def F32.ofNum (n : Num) : F32 := BitVec.ofNat 32 (fp32.encode false n)

/-- The signed mantissa of a finite value at a common exponent. -/
def scaled (neg : Bool) (m : Nat) (k : Nat) : Int := if neg then -((m * 2 ^ k : Nat) : Int) else ((m * 2 ^ k : Nat) : Int)

/-- The exact sum (R310). -/
def Num.add : Num → Num → Num
  | .nan, _ => .nan
  | _, .nan => .nan
  | .inf a, .inf b => if a = b then .inf a else .nan
  | .inf a, .fin _ _ _ => .inf a
  | .fin _ _ _, .inf b => .inf b
  | .fin n1 m1 e1, .fin n2 m2 e2 =>
    let e := min e1 e2
    let s := scaled n1 m1 (e1 - e).toNat + scaled n2 m2 (e2 - e).toNat
    if s = 0 then .fin (n1 && n2) 0 e else .fin (decide (s < 0)) s.natAbs e

/-- `a` is below `b`; −0 is below +0, and NaN is not asked about. -/
def Num.below : Num → Num → Bool
  | .nan, _ => false
  | _, .nan => false
  | .inf a, .inf b => a && !b
  | .inf a, .fin _ _ _ => a
  | .fin _ _ _, .inf b => !b
  | .fin n1 m1 e1, .fin n2 m2 e2 =>
    let e := min e1 e2
    let x := scaled n1 m1 (e1 - e).toNat
    let y := scaled n2 m2 (e2 - e).toNat
    decide (x < y) || (decide (x = y) && n1 && !n2)

/-- OP of a reduction: 0 sum, 1 maximum, 2 minimum, in FP32 (R310). -/
def reduceOp (op : Nat) (a b : F32) : F32 :=
  match a.num, b.num with
  | .nan, _ => 0x7FC00000
  | _, .nan => 0x7FC00000
  | x, y =>
    if op = 0 then F32.ofNum (x.add y)
    else if op = 1 then (if x.below y then b else a)
    else (if x.below y then a else b)

/-- BF16 from FP32 (R311). -/
def toBf16 (x : F32) : Nat := bf16.encode false x.num
/-- FP32 from BF16, exact. -/
def ofBf16 (x : Nat) : F32 := BitVec.ofNat 32 (x % 65536 * 65536)

/-- Bytes per element of a memory format: FP32 or BF16. -/
def memSize (fmt : Nat) : Nat := if fmt = 0 then 4 else 2

/-- Elements of a memory format as FP32, reading a byte string. -/
def fromMem (fmt : Nat) : Nat → List Byte → List F32
  | 0, _ => []
  | n + 1, bs =>
    (if fmt = 0 then BitVec.ofNat 32 (leNat (bs.take 4)) else ofBf16 (leNat (bs.take 2))) :: fromMem fmt n (bs.drop (memSize fmt))

/-- W: FP32 elements as bytes of a memory format. -/
def toMem (fmt : Nat) (vs : List F32) : List Byte :=
  (vs.map fun v => if fmt = 0 then leBytes 4 v.toNat else leBytes 2 (toBf16 v)).flatten

/-- Operands A and B of a REDUCE, element by element (R311). -/
def reduceVals (op : Nat) (a b : List F32) : List F32 := List.zipWith (reduceOp op) a b

/-! ## Wire formats (R313 to R317) -/

/-- The element format of a wire format code, and whether it is microscaled. -/
def wireFmt : Nat → Fmt × Bool
  | 0 => (fp32, false)
  | 1 => (bf16, false)
  | 2 => (e4m3, false)
  | 3 => (e5m2, false)
  | 4 => (e4m3, true)
  | 5 => (e5m2, true)
  | 6 => (e3m2, true)
  | 7 => (e2m3, true)
  | _ => (e2m1, true)

/-- The exponent of an element's largest normal value (Table 09.4). -/
def emax : Nat → Int
  | 4 => 8
  | 5 => 15
  | 6 => 4
  | _ => 2

/-- Bytes of one block of 32 elements on the wire. -/
def blockBytes (fmt : Nat) : Nat := 4 * (wireFmt fmt).1.width + if (wireFmt fmt).2 then 1 else 0

/-- Multiply by a power of two, exactly. -/
def Num.scale (k : Int) : Num → Num
  | .fin n m e => .fin n m (e + k)
  | x => x

/-- Magnitude of a finite value at exponent −149 (FP32's least), to compare magnitudes. -/
def Num.mag : Num → Nat
  | .fin _ m e => m * 2 ^ (e + 149).toNat
  | _ => 0

/-- Pack elements of width `w`, element 0 lowest (R317). -/
def packElems (w : Nat) : List Nat → Nat
  | [] => 0
  | x :: xs => x % 2 ^ w + 2 ^ w * packElems w xs

/-- Quantize one microscaled block: the scale byte and the elements (R315). -/
def quantBlock (fmt : Nat) (vs : List F32) : List Byte :=
  let f := (wireFmt fmt).1
  let ns := vs.map F32.num
  let bad := ns.any fun n => match n with
    | .fin _ _ _ => false
    | _ => true
  let m := ns.foldl (fun a n => max a n.mag) 0
  let zeros := ns.map fun n => match n with
    | .fin true _ _ => 2 ^ (f.width - 1)
    | _ => 0
  let (x, elems) : Nat × List Nat :=
    if bad then (0xFF, ns.map fun _ => 0)
    else if m = 0 then (0, zeros)
    else
      let s : Int := max ((Nat.log2 m : Int) - 149 - emax fmt) (-127)
      ((s + 127).toNat, ns.map fun n => f.encode true (n.scale (-s)))
  BitVec.ofNat 8 x :: leBytes (4 * f.width) (packElems f.width elems)

/-- The elements of width `w` of a packed number. -/
def unpackElems (w : Nat) : Nat → Nat → List Nat
  | 0, _ => []
  | n + 1, x => x % 2 ^ w :: unpackElems w n (x / 2 ^ w)

/-- Decode one microscaled block (R316). -/
def decodeBlock (fmt : Nat) (bs : List Byte) : List F32 :=
  let f := (wireFmt fmt).1
  let x := leNat (bs.take 1)
  if x = 0xFF then List.replicate 32 0x7FC00000
  else (unpackElems f.width 32 (leNat ((bs.drop 1).take (4 * f.width)))).map fun c =>
    F32.ofNum ((f.decode c).scale ((x : Int) - 127))

/-- Split a list into pieces of `k`, `n` of them. -/
def chunksOf {α : Type} (k : Nat) : Nat → List α → List (List α)
  | 0, _ => []
  | n + 1, l => l.take k :: chunksOf k n (l.drop k)

/-- Q: FP32 values, in whole blocks, to wire bytes (R311, R314, R315). -/
def quantize (fmt : Nat) (vs : List F32) : List Byte :=
  if (wireFmt fmt).2 then ((chunksOf 32 (vs.length / 32) vs).map (quantBlock fmt)).flatten
  else if fmt = 0 then (vs.map fun v => leBytes 4 v.toNat).flatten
  else if fmt = 1 then (vs.map fun v => leBytes 2 (toBf16 v)).flatten
  else (vs.map fun v => leBytes 1 ((wireFmt fmt).1.encode true v.num)).flatten

/-- D: wire bytes of `n` elements, in whole blocks, to FP32 (R311, R314, R316). -/
def dequantize (fmt : Nat) (n : Nat) (bs : List Byte) : List F32 :=
  if (wireFmt fmt).2 then ((chunksOf (blockBytes fmt) (n / 32) bs).map (decodeBlock fmt)).flatten
  else if fmt = 0 then (chunksOf 4 n bs).map fun e => BitVec.ofNat 32 (leNat e)
  else if fmt = 1 then (chunksOf 2 n bs).map fun e => ofBf16 (leNat e)
  else (chunksOf 1 n bs).map fun e => F32.ofNum ((wireFmt fmt).1.decode (leNat e))

end Sys2Proof.Machine
end

