-- ==== Sys2Proof/Machine/CollMath.lean ====
section
/-! DEFINITION. Pieces, chunks and engines of a collective (R321, R322, R324, R326). -/

namespace Sys2Proof.Machine

/-- The elements of piece `p` of SRC: its first and how many (R321). For an all-gather piece `p` is rank `p`'s whole SRC
(Table 09.7). -/
def pieceElems (c : Coll) (p : Nat) : Nat × Nat :=
  if c.kind = 2 then (0, c.count)
  else
    let q := c.count / 32 / c.size
    let m := c.count / 32 % c.size
    (32 * (p * q + min p m), 32 * (q + if p < m then 1 else 0))

/-- The wire chunks of a piece (R322). -/
def pieceChunks (c : Coll) (p : Nat) : Nat := ((pieceElems c p).2 + 1023) / 1024

/-- The global number of chunk `k` of piece `p` (R322). -/
def globalChunk (c : Coll) (p k : Nat) : Nat := (List.range p).foldl (fun n q => n + pieceChunks c q) 0 + k

/-- Elements of a chunk. -/
def chunkElems (c : Coll) (p k : Nat) : Nat := min 1024 ((pieceElems c p).2 - k * 1024)

/-- Wire bytes of a chunk (Table 09.4). -/
def chunkBytes (c : Coll) (p k : Nat) : Nat := chunkElems c p k / 32 * blockBytes c.wireFmt

/-- The engine that handles a chunk (R322). -/
def chunkEngine (c : Coll) (p k : Nat) : Nat := c.engines.getD (globalChunk c p k % max 1 c.engines.length) 32

/-- The engine of a task. -/
def CollTask.engine (c : Coll) : CollTask → Nat
  | .send p k => chunkEngine c p k
  | .take id _ _ => chunkEngine c id.piece id.chunk
  | .put p k _ _ => chunkEngine c p k

/-- The chunks of a piece, as a list. -/
def chunkList (c : Coll) (p : Nat) : List Nat := List.range (pieceChunks c p)

/-- RING applies to kinds 0, 1 and 2 (R326). -/
def Coll.isRing (c : Coll) : Bool := c.ring && decide (c.kind < 3)
/-- The next rank of the ring. -/
def Coll.succ (c : Coll) : Nat := (c.rank + 1) % c.size
/-- The rank before. -/
def Coll.pred (c : Coll) : Nat := (c.rank + c.size - 1) % c.size
/-- Every other rank. -/
def Coll.peers (c : Coll) : List Nat := (List.range c.size).filter (· ≠ c.rank)

/-- The chunks that this member expects, with sender (Table 09.7, R326). -/
def expectIds (c : Coll) : List ChunkId :=
  let ids (from' : Nat) (ps : List Nat) (g : Bool) : List ChunkId :=
    (ps.map fun p => (chunkList c p).map fun k => ⟨from', p, k, g⟩).flatten
  let all := List.range c.size
  if c.isRing then
    if c.kind = 2 then ids c.pred (all.filter (· ≠ c.rank)) false
    else ids c.pred (all.filter (· ≠ c.pred)) false ++ (if c.kind = 0 then ids c.pred (all.filter (· ≠ c.rank)) true else [])
  else match c.kind with
    | 0 => (c.peers.map fun q => ids q [c.rank] false).flatten ++ (c.peers.map fun q => ids q [q] true).flatten
    | 1 => (c.peers.map fun q => ids q [c.rank] false).flatten
    | 2 => (c.peers.map fun q => ids q [q] false).flatten
    | 3 => if c.rank = c.root then [] else ids c.root all false
    | _ => (c.peers.map fun q => ids q [c.rank] false).flatten

/-- The pieces of SRC that an engine reads at the start, in sending order: those sent, and those this member keeps. -/
def firstPieces (c : Coll) : List Nat :=
  let others := (rangeFrom (c.rank + 1) (c.size - 1)).map (· % c.size)
  if c.isRing then (if c.kind = 2 then [c.rank] else [c.pred, c.rank])
  else match c.kind with
    | 2 => [c.rank]
    | 3 => if c.rank = c.root then List.range c.size else []
    | _ => others ++ [c.rank]

/-- Where a piece read at the start goes (Table 09.7, R326). -/
def firstDests (c : Coll) (p : Nat) : List Nat :=
  if c.isRing then (if c.kind = 2 then [c.succ] else if p = c.rank then [] else [c.succ])
  else match c.kind with
    | 2 => c.peers
    | 3 => c.peers
    | _ => if p = c.rank then [] else [p]

/-- The element of DST where a chunk received from `from'` goes (Table 09.7). -/
def dstElem (c : Coll) (from' p k : Nat) : Nat :=
  match c.kind with
  | 1 => k * 1024
  | 2 => p * c.count + k * 1024
  | 4 => from' * (pieceElems c c.rank).2 + k * 1024
  | _ => (pieceElems c p).1 + k * 1024

/-- Elements of DST (Table 09.7). -/
def dstElems (c : Coll) : Nat :=
  match c.kind with
  | 1 => c.count / c.size
  | 2 => c.size * c.count
  | 4 => c.size * (pieceElems c c.rank).2
  | _ => c.count

/-- Wire bytes of a piece. -/
def pieceBytes (c : Coll) (p : Nat) : Nat := (pieceElems c p).2 / 32 * blockBytes c.wireFmt

/-- The bytes to reserve: every distinct chunk sent, and Q(own piece) for kinds 0 and 1 (R332). -/
def reserveBytes (c : Coll) : Nat :=
  let sum (ps : List Nat) : Nat := ps.foldl (fun n p => n + pieceBytes c p) 0
  let all := List.range c.size
  let notOwn := all.filter (· ≠ c.rank)
  if c.isRing then
    match c.kind with
    | 0 => sum notOwn + sum (all.filter (· ≠ c.succ)) + pieceBytes c c.rank
    | 1 => sum notOwn + pieceBytes c c.rank
    | _ => sum (all.filter (· ≠ c.succ))
  else match c.kind with
    | 0 => sum notOwn + pieceBytes c c.rank + pieceBytes c c.rank
    | 1 => sum notOwn + pieceBytes c c.rank
    | 2 => pieceBytes c c.rank
    | 3 => if c.rank = c.root then sum all else 0
    | _ => sum notOwn

/-- Wire bytes of the chunks of a collective that an engine has not yet sent or accepted (R304). -/
def collQueued (c : Coll) (n : Nat) : Nat :=
  c.expect.foldl (fun s x =>
    if c.engines.getD (x.2.1 % max 1 c.engines.length) 32 = n ∧ c.accepted.contains x.1 = false then s + x.2.2 else s) 0 +
  c.todo.foldl (fun s t => match t with
    | .send p k => if chunkEngine c p k = n then s + chunkBytes c p k else s
    | _ => s) 0

end Sys2Proof.Machine
end

