-- ==== Sys2Proof/Machine/Trace.lean ====
section
/-! DEFINITION. The trace unit: records, the tail window, the device buffer and its modes, slice rings, triggers (R467 to
R475, R479). -/

namespace Sys2Proof.Machine

/-- FT_STATE as records and registers show it. -/
def ftCode : FtState → Nat
  | .free => 0
  | .locked => 1
  | .holdover => 2

/-- No slice or no context, as a record names it. -/
def noOne : Nat := 0xFFFF

/-- The 32 bytes of a record (Table 15.1). -/
def traceBytes (b : Blk) (kind slice ctx a c : Nat) (replay : Bool) : Bytes :=
  leBytes 8 b.ft ++ leBytes 1 kind ++ leBytes 1 (ftCode b.lmf.ftState + if replay then 4 else 0) ++ leBytes 2 b.chip ++
  leBytes 2 slice ++ leBytes 2 ctx ++ leBytes 8 a ++ leBytes 8 c

/-- Records of the device buffer. -/
def Trc.size (t : Trc) : Nat := 2 ^ t.log2

/-- The stream-mode buffer has a free record (R472). -/
def Trc.room (t : Trc) : Bool := decide ((t.tail + 1) % t.size ≠ t.head % t.size)

/-- Write a record at TB_TAIL of the device buffer. -/
def tracePut (rec' : Bytes) (b : Blk) : Blk :=
  (paWrite (b.trc.base + 32 * b.trc.tail) rec' b).trcU fun t => { t with
    tail := (t.tail + 1) % t.size
    written := t.written + 1
    wrapped := t.wrapped || (decide (t.size ≤ t.written) && (t.postPhase || decide (2 ≤ t.mode))) }

/-- One of the POST_COUNT records after a trigger; the last one freezes the buffer (R473). -/
def tracePost (rec' : Bytes) (b : Blk) : Blk :=
  if b.trc.frozen then b
  else (tracePut rec' b).trcU fun t => { t with
    postLeft := t.postLeft - 1
    frozen := decide (t.postLeft ≤ 1)
    postPhase := decide (1 < t.postLeft) }

/-- Place a record in the tail window (R471). -/
def traceWindow (rec' : Bytes) (b : Blk) : Blk :=
  b.trcU fun t => { t with window := t.window.set t.winNext rec', winNext := (t.winNext + 1) % 512 }

/-- The GAP record for the records dropped since the last one (R472). -/
def gapRec (b : Blk) : Bytes := traceBytes b 0x1E noOne noOne b.trc.gap b.trc.gapFt false

/-- The gap is reported: its record in the window, the count back to zero. -/
def gapDone (b : Blk) : Blk := (traceWindow (gapRec b) b).trcU fun t => { t with gap := 0 }

/-- A record for the device buffer under the mode in force (R472, R473). -/
def traceDevice (rec' : Bytes) (b : Blk) : Blk :=
  if b.trc.mode = 0 ∨ b.trc.frozen then b
  else if b.trc.postPhase then tracePost rec' (if b.trc.gap > 0 then gapDone (tracePost (gapRec b) b) else b)
  else if b.trc.mode = 1 then
    let b := if b.trc.gap > 0 ∧ b.trc.room then gapDone (tracePut (gapRec b) b) else b
    if b.trc.room then tracePut rec' b
    else b.trcU fun t => { t with
      dropped := t.dropped.bump
      gapFt := if t.gap = 0 then b.ft else t.gapFt
      gap := t.gap + 1 }
  else tracePut rec' b

/-- Records of a slice's trace ring. -/
def View.stSize (v : View) : Nat := 2 ^ (v.stLog2 + 6)

/-- Write a record at ST_TAIL of a slice's ring. -/
def stPut (slice : Nat) (rec' : Bytes) (b : Blk) : Blk :=
  let v := b.view slice
  (ctlWriteLater slice 0 (v.stBase + 32 * v.stTail) rec' b).updView slice fun v =>
    { v with stTail := (v.stTail + 1) % v.stSize }

/-- A record for the slice's own ring, in stream mode (R479). -/
def traceSlice (slice : Nat) (rec' : Bytes) (b : Blk) : Blk :=
  let room (v : View) : Bool := decide ((v.stTail + 1) % v.stSize ≠ v.stHead % v.stSize)
  let v := b.view slice
  if v.niSelf ∧ v.stEn then
    let b := if v.stGap > 0 ∧ room v then
        (stPut slice (traceBytes b 0x1E slice noOne v.stGap v.stGapFt false) b).updView slice fun v => { v with stGap := 0 }
      else b
    if room (b.view slice) then stPut slice rec' b
    else b.updView slice fun v => { v with
      stGapFt := if v.stGap = 0 then b.ft else v.stGapFt
      stGap := v.stGap + 1 }
  else b

/-- The record goes to the device buffer (R470). -/
def traceAdmitted (b : Blk) (kind slice : Nat) : Bool :=
  (decide (0x10 ≤ kind) && decide (kind ≤ 0x15)) || kind == 0x08 || kind == 0x1E ||
  (b.trc.kindMask.getLsbD kind && (slice == 0 || slice == noOne || (b.view slice).niMgr || decide (2 ≤ b.sec.dbgLevel)))

/-- Write one trace record (R470, R471). No record is written in B2 (R475). -/
def traceRec (kind slice ctx a c : Nat) (replay : Bool) (b : Blk) : Blk :=
  if 2 ≤ b.pwr.pstate then b
  else
    let rec' := traceBytes b kind slice ctx a c replay
    let b := traceWindow rec' b
    let b := if traceAdmitted b kind slice then traceDevice rec' b else b
    if slice < 4096 then traceSlice slice rec' b else b

/-- A trigger (R473, R474): the TRIGGER record, TRIG_FT, POST_PHASE, source 78. -/
def traceTrigger (origin : Nat) (b : Blk) : Blk :=
  if b.trc.mode = 0 then b
  else if b.trc.frozen ∨ b.trc.postPhase then
    traceRec 0x15 noOne noOne origin 0 false (b.trcU fun t => { t with trigMissed := t.trigMissed.bump })
  else
    let rec' := traceBytes b 0x15 noOne noOne origin 0 false
    let b := tracePut rec' (traceWindow rec' b)
    let b := b.trcU fun t => { t with
      triggers := t.triggers.bump
      trigFt := b.ft
      postPhase := decide (0 < t.postCount)
      postLeft := t.postCount
      frozen := t.postCount == 0 }
    fire 78 noOne 0 b

/-- A record that triggers (R468): HANG 1, RUNG 2, ALARM 3, PORT 4, STEP_ROLLBACK 5. -/
def traceEvent (origin kind slice ctx a c : Nat) (b : Blk) : Blk :=
  traceTrigger origin (traceRec kind slice ctx a c false b)

end Sys2Proof.Machine
end

