-- ==== Sys2Proof/Machine/Items.lean ====
section
/-! DEFINITION. Items: the header of their entries, how they end, their completion entries and teardown log records, and
the fault path that items and streams take. -/

namespace Sys2Proof.Machine

/-! ## The header of an entry (Table 02.6) -/

/-- OPCODE. -/
def Item.opcode (it : Item) : Nat := field it.entry 0 1
/-- FLAGS. -/
def Item.flags (it : Item) : Nat := field it.entry 1 1
/-- Traffic class. -/
def Item.cls (it : Item) : Nat := field it.entry 2 1 % 8
/-- Completion scope. -/
def Item.scope (it : Item) : Nat := field it.entry 3 1 % 8
/-- TAG; 0 when the entry could not be read. -/
def Item.tag (it : Item) : Nat := field it.entry 4 4
/-- The peer timeout in ns, with the command's default in µs (R74). -/
def Item.timeoutNs (it : Item) (dflt : Nat) : Nat :=
  (if field it.entry 12 2 = 0 then dflt else field it.entry 12 2) * 1000
/-- The deadline has passed (R24). -/
def pastDeadline (ft : Nat) : Option Nat → Bool
  | some d => decide (d ≤ ft)
  | none => false

/-- An item whose deadline has passed issues no further request (R24); work on Swedikin's own account and step operations go on
(R276, R502). -/
def overdue (ft : Nat) : WorkOwner → Option Nat → Bool
  | .item _, d => pastDeadline ft d
  | _, _ => false

/-- The status names a failure (R14). -/
def Result.fails (r : Result) : Bool := decide (0x10 ≤ r.status) && decide (r.status ≤ 0x1A)

/-- OK with DETAIL_KIND 0. -/
def okResult : Result := ⟨0x00, 0, 0⟩
/-- FAIL_ABORTED with DETAIL_KIND 0 (R135). -/
def abortResult : Result := ⟨0x12, 0, 0⟩
/-- FAIL_DEADLINE. -/
def deadlineResult : Result := ⟨0x1A, 0, 0⟩
/-- A failure at a field of the entry (DETAIL_KIND 2). -/
def fieldResult (status off : Nat) : Result := ⟨status, 2, off⟩
/-- A failure that names a fence (DETAIL_KIND 5). -/
def fenceDetail (chip fence : Nat) : Nat := fence + chip * 2 ^ 16

/-- The rank of a cause among those detected at one instant; the lowest wins (R100). -/
def causeRank (status : Nat) : Nat :=
  match status with
  | 0x17 => 0 | 0x11 => 1 | 0x19 => 2 | 0x18 => 3 | 0x12 => 4 | 0x16 => 5 | 0x10 => 6 | 0x13 => 7 | 0x14 => 8 | 0x15 => 9
  | 0x1A => 10 | _ => 11

/-! ## Completion (R65 to R70, R83, R136, R137) -/

/-- A completion entry (Table 02.4). -/
def completionEntry (it : Item) (r : Result) (sqHead : Nat) (phase : Bool) : Bytes :=
  leBytes 4 it.tag ++ leBytes 2 it.sq ++ leBytes 2 it.slot ++ leBytes 1 r.status ++
  leBytes 1 ((if phase then 1 else 0) + r.kind * 2) ++ leBytes 2 sqHead ++ leBytes 4 r.detail

/-- The teardown log has a free record (R137). -/
def tdRoom (b : Blk) : Bool :=
  decide ((b.ctx.tdTail + 1) % 2 ^ b.ctx.tdLog2 ≠ b.ctx.tdHead % 2 ^ b.ctx.tdLog2)

/-- The SQ head that a completion entry shows. -/
def sqHeadOf (b : Blk) (it : Item) : Nat := ((b.queues.get? (qkey it.slice it.sq)).map (·.head)).getD 0

/-- Write one teardown log record (Table 03.14). -/
def tdPut (it : Item) (r : Result) (b : Blk) : Blk :=
  let c := b.ctx
  let bytes := completionEntry it r (sqHeadOf b it) c.tdPhase ++ leBytes 2 it.slice ++ leBytes 2 it.ctx ++
    leBytes 2 it.cq ++ leBytes 2 0 ++ leBytes 8 b.ft
  (paWrite (c.td + 32 * c.tdTail) bytes b).ctxU fun c => { c with
    tdTail := (c.tdTail + 1) % 2 ^ c.tdLog2
    tdPhase := if (c.tdTail + 1) % 2 ^ c.tdLog2 = 0 then !c.tdPhase else c.tdPhase }

/-- The status an item's completion reports: OK becomes OK_REPLAYED after a replay (R13). -/
def Item.report (it : Item) (r : Result) : Result :=
  if r.status = 0 ∧ it.replayed then { r with status := 1 } else r

/-- Drop every stream of an item that waits for a translation or a page request (R231). -/
def dropStreams (i : Nat) (b : Blk) : Blk :=
  let mine (s : Stream) : Bool := s == .item i || s == .completion i
  b.xltU fun x => { x with
    atsWaits := x.atsWaits.filter fun w => !mine w.stream
    batches := x.batches.map fun t => { t with
      pages := t.pages.map fun p => { p with streams := p.streams.filter fun s => !mine s } } }

/-- The ledger entry is freed, with the reads that nobody waits for any more; the failure flag of the SQ, the reserved CQ slot and the slice's counters follow (R83, R67,
R477). -/
def itemFreed (i : Nat) (it : Item) (r : Result) (b : Blk) : Blk :=
  let b := dropStreams i { b with items := b.items.del i, pwr := { b.pwr with idleFt := b.ft } }
  let b := b.schU fun s => { s with flush := s.flush.filter fun f => f.item != i }
  let b := b.lmfU fun l => { l with outstanding := l.outstanding.filter fun q => match q.why with
    | .itemRead j _ _ => j != i
    | _ => true }
  let b := b.hluU fun h => { h with reads := h.reads.filter fun q => match q.why with
    | .item j _ _ => j != i
    | _ => true }
  let b := b.hluU fun h => { h with stores := h.stores.map fun s => if s.item = some i then { s with item := none } else s }
  let b := b.updQueue (qkey it.slice it.sq) fun q => { q with
    flag := if r.fails ∧ q.flag = none then some it.tag else q.flag }
  let b := b.updQueue (qkey it.slice it.cq) fun q => { q with reserved := q.reserved - 1 }
  b.updView it.slice fun v => { v with
    itemsOk := if r.fails then v.itemsOk else v.itemsOk.bump
    itemsFailed := if r.fails then v.itemsFailed.bump else v.itemsFailed }

/-- The completion entry is in the CQ: the CQ's next slot, the ledger, and the COMPLETION fire (R66, Table 12.2). -/
def itemDelivered (i : Nat) (it : Item) (r : Result) (b : Blk) : Blk :=
  let cq := qkey it.slice it.cq
  let all := ((b.queues.get? cq).map (·.pennantAll)).getD false
  let b := b.updQueue cq fun q => { q with
    tail := (q.tail + 1) % 2 ^ q.log2
    phase := if (q.tail + 1) % 2 ^ q.log2 = 0 then !q.phase else q.phase }
  let b := itemFreed i it r b
  if bit it.flags 0 ∨ all then fireBanked it.slice 0 it.ctx (BitVec.ofNat 32 it.cq) (some it.cq) b else b

/-! ## Fault records (R226 to R233) -/

/-- What a fault record tells (Table 06.7). -/
structure FaultInfo where
  dva : Nat
  ctx : Nat
  sq : Nat
  tag : Nat
  cause : Nat
  write : Bool
  source : Nat
  outcome : Nat
  prg : Nat := 0
  count : Nat := 1
deriving DecidableEq, Repr

/-- The 32 bytes of a fault record at time `time`, with PHASE clear. -/
def faultBytes (time : Nat) (f : FaultInfo) : Bytes :=
  leBytes 8 f.dva ++ leBytes 8 time ++ leBytes 2 f.ctx ++ leBytes 2 f.sq ++ leBytes 4 f.tag ++ leBytes 1 f.cause ++
  leBytes 1 ((if f.write then 2 else 0) + (if 2 ^ 56 ≤ f.dva then 4 else 0)) ++ leBytes 1 f.source ++ leBytes 1 f.outcome ++
  leBytes 2 f.prg ++ leBytes 2 (min f.count 0xFFFF)

/-- The fault queue has room for one more record (R228). -/
def View.fqRoom (v : View) : Bool := decide ((v.fqTail + 1) % 4096 ≠ v.fqHead)

/-- Write a record at FQ_TAIL; the FAULT source fires when the queue was empty (R233). -/
def putFault (slice : Nat) (bytes : Bytes) (ctx : Nat) (b : Blk) : Blk :=
  let v := b.view slice
  let bytes' := if v.fqPhase then overlay bytes 0x19 [bytes.getD 0x19 0 ||| 1] else bytes
  let b := ctlWriteLater slice ctx (v.fqBase + 32 * v.fqTail) bytes' b
  let b := b.updView slice fun v => { v with
    fqTail := (v.fqTail + 1) % 4096
    fqPhase := if v.fqTail = 4095 then !v.fqPhase else v.fqPhase }
  let b := b.xltU fun x => { x with faults := x.faults.bump }
  if v.fqTail = v.fqHead then fireBanked slice 1 ctx (BitVec.ofNat 32 v.fqTail) none b else b

/-- A record is to be written. With FQ_EN 0 it is counted instead; with no room the stream stalls (R232, R233). Answers
whether the stream goes on. -/
def recordFault (slice : Nat) (f : FaultInfo) (item : Option Nat) (res : Option Result) (b : Blk) : Blk × Bool :=
  let v := b.view slice
  if v.fqEn = false then (pageErr pgXLT 0x06 b, true)
  else if v.fqRoom then (putFault slice (faultBytes b.ft f) f.ctx b, true)
  else
    let b := b.updView slice fun v => { v with fqOverflow := true }
    let b := fireBanked slice 2 noOne 0 none b
    (b.xltU fun x => { x with
      recordWaits := x.recordWaits ++ [{ slice := slice, bytes := faultBytes b.ft f, item := item, result := res }] }, false)

/-- The status of an item that a fault cause ends (Table 06.6). -/
def causeStatus (cause : Nat) : Nat := if cause = 0x06 then 0x11 else if cause = 0x0B then 0x12 else 0x10

/-! ## Waiting for host pages -/

/-- Page requests are possible for a function (R230). -/
def priOn (b : Blk) (fn : Nat) : Bool := !b.xlt.priOff.contains fn && !b.xlt.priStopped.contains fn

/-- Join a fault to the open batch of its slice, or to the group that already asks for its page (R229). -/
def joinBatch (slice dva : Nat) (write : Bool) (ctx sq tag source outcome : Nat) (s : Stream) (b : Blk) : Blk :=
  let page := dva % 2 ^ 56 / 4096
  let has (t : Batch) : Bool := t.slice == slice && t.pages.any fun p => p.page == page
  let join (t : Batch) : Batch := { t with pages := t.pages.map fun p =>
    if p.page = page then { p with count := if t.prg = none then p.count + 1 else p.count, streams := p.streams ++ [s] } else p }
  let new : FaultPage := { page := page, dva := dva, write := write, ctx := ctx, sq := sq, tag := tag, source := source,
                           outcome := outcome, count := 1, time := b.ft, streams := [s] }
  let isOpen (t : Batch) : Bool := t.slice == slice && t.prg == none && decide (t.pages.length < 64)
  let opened : Batch := { slice := slice, fn := sliceFn b slice, pasid := slicePasid b slice, openFt := b.ft, prg := none,
                          pages := [new] }
  let bs := b.xlt.batches
  let bs' :=
    if bs.any has then bs.map fun t => if has t then join t else t
    else if bs.any isOpen then bs.map fun t => if isOpen t then { t with pages := t.pages ++ [new] } else t
    else bs ++ [opened]
  b.xltU fun x => { x with batches := bs' }

/-- An item stalls (LSTATE 3). -/
def stallItem (i : Nat) (on : StallOn) (b : Blk) : Blk :=
  b.updItem i fun it => { it with st := .stalled, stall := some on, stallFt := b.ft }

/-! ## How an item ends -/

/-- A read of engine work has not returned. -/
def workPending (b : Blk) (id : Nat) : Bool :=
  (b.lmf.outstanding.any fun r => match r.why with | .workRead j _ _ => j == id | _ => false) ||
  (b.hlu.reads.any fun r => match r.why with | .work j _ _ => j == id | _ => false)

/-- The reads of an item's engine work and its cache-maintenance words have run to their end (R24). -/
def itemQuiet (b : Blk) (i : Nat) : Bool :=
  (b.tre.works.all fun e => e.2.owner != .item i || !workPending b e.1) &&
  b.sch.flush.all fun f => f.item != i || f.cores.isEmpty

/-- An item's requests have ended, and its writes are visible at its SCOPE (R24, R70, R191, R184): every remote write acknowledged,
and for SYSTEM every host-bus write confirmed. -/
def itemVisible (b : Blk) (i : Nat) (it : Item) : Bool :=
  itemQuiet b i && (b.lmf.outstanding.all fun r => r.why != .itemWrite i) &&
  (it.scope != 5 || b.hlu.stores.all fun s => s.item != some i)

/-- Note a fault of a completion write once; it waits and is retried (R69, R227). -/
def completionFault (i : Nat) (it : Item) (dva cause : Nat) (b : Blk) : Blk :=
  if it.complWait then b
  else
    let f : FaultInfo := { dva := dva, ctx := it.ctx, sq := it.sq, tag := it.tag, cause := cause, write := true,
                           source := 0x11, outcome := 2 }
    let b := (recordFault it.slice f none none b).1
    b.updItem i fun it => { it with complWait := true, stallFt := b.ft }

/-- A context's items end in the teardown log (R11, R134 step 2). -/
def ctxDestroying (b : Blk) (c : Nat) : Bool := (b.contexts.get? c).any fun x => x.state == .destroying

/-- Write the completion entry of an item that has ended, to its CQ or to the teardown log. -/
def completeItem (i : Nat) (b : Blk) : Blk :=
  match b.items.get? i with
  | none => b
  | some it =>
    match it.result with
    | none => b
    | some r0 =>
      let r := it.report r0
      if ctxDestroying b it.ctx then
        if tdRoom b then itemFreed i it r (tdPut it r b)
        else if it.complWait && it.stall == none then b
        else (fire 64 noOne 0 b).updItem i fun it => { it with complWait := true, stall := none }
      else match b.queues.get? (qkey it.slice it.cq) with
        | none => itemFreed i it r b
        | some cq =>
          let dva := cq.ring + 16 * cq.tail
          match ctlWrite it.slice it.ctx none dva (completionEntry it r (sqHeadOf b it) cq.phase) b with
          | .done b => itemDelivered i it r b
          | .refused d => completionFault i it d 0x06 b
          | .stop (.cause d c) =>
            if c = 0x07 ∧ priOn b (sliceFn b it.slice) then
              (joinBatch it.slice dva true it.ctx it.sq it.tag 0x11 (if it.complWait then 255 else 2) (.completion i) b).updItem i fun it =>
                { it with complWait := true, stall := some (.group (dva % 2 ^ 56 / 4096)) }
            else completionFault i it d c b
          | .stop (.miss d page) =>
            if it.stall = some (.ats page) then b
            else (requestAts it.slice d true (.completion i) b).updItem i fun it => { it with stall := some (.ats page) }
          | .stop (.lost d _) => completionFault i it d 0x04 b
          | .stop (.ring page) =>
            (fire 66 noOne (BitVec.ofNat 32 it.slice) b).updItem i fun it => { it with stall := some .dirtyRing, complWait := page ≠ 0 }

/-- Complete an item that has ended once its writes are visible. -/
def tryComplete (i : Nat) (b : Blk) : Blk :=
  match b.items.get? i with
  | some it => if it.st = .completing ∧ it.result.isSome ∧ itemVisible b i it then completeItem i b else b
  | none => b

/-- An item ends with a result; the first cause stands (R100). -/
def endItem (i : Nat) (r : Result) (b : Blk) : Blk :=
  let b := dropStreams i b
  tryComplete i (b.updItem i fun it =>
    if it.result.isSome then it else { it with result := some r, st := .completing, stall := none, wants := none })

/-- Complete every ended item that can complete now. -/
def settleItems (b : Blk) : Blk := b.items.foldl (fun b e => tryComplete e.1 b) b

/-- A final fault of an item: its record, then its end; with no room for the record it stalls first (R226, R232). -/
def faultItem (i dva cause source : Nat) (write : Bool) (r : Result) (b : Blk) : Blk :=
  match b.items.get? i with
  | none => b
  | some it =>
    let f : FaultInfo := { dva := dva, ctx := it.ctx, sq := it.sq, tag := it.tag, cause := cause, write := write,
                           source := source, outcome := 0 }
    match recordFault it.slice f (some i) (some r) b with
    | (b, true) => endItem i r b
    | (b, false) => stallItem i .record b

/-- An item's access could not be planned: it waits for the page or the ring, or it ends (R226 to R232, R236). `off` is the
offset of the entry's field, none for a LAUNCH. -/
def stopItem (i source : Nat) (off : Option Nat) (write : Bool) (why : Stop) (b : Blk) : Blk :=
  match b.items.get? i with
  | none => b
  | some it =>
    match why with
    | .miss dva page => stallItem i (.ats page) (requestAts it.slice dva write (.item i) b)
    | .ring _ => stallItem i .dirtyRing (fire 66 noOne (BitVec.ofNat 32 it.slice) b)
    | .lost _ stuck => if stuck then endItem i ⟨0x16, 0, 0⟩ b else stallItem i .miss b
    | .cause dva c =>
      if c = 0x07 ∧ priOn b (sliceFn b it.slice) then
        let page := dva % 2 ^ 56 / 4096
        stallItem i (.group page) (joinBatch it.slice dva write it.ctx it.sq it.tag source 1 (.item i) b)
      else
        let r : Result := match off with
          | some o => fieldResult (causeStatus c) o
          | none => ⟨causeStatus c, 0, 0⟩
        let b := if c = 0x05 then pageErr pgXLT 0x0B b else b
        faultItem i dva c source write r b

/-- A memory-side checker refused an item's access (R218). -/
def refuseItem (i dva source : Nat) (off : Option Nat) (write : Bool) (b : Blk) : Blk :=
  faultItem i dva 0x06 source write (match off with | some o => fieldResult 0x11 o | none => ⟨0x11, 0, 0⟩) b

/-! ## Reads that an item makes of its own operands -/

/-- What a read at a DVA came to. -/
inductive RRes where
  | data (bytes : Bytes) (b : Blk)
  /-- The read of another home was issued; its data is awaited. -/
  | wait (b : Blk)
  | refused (dva : Nat)
  | poisoned (dva : Nat)
  | stop (why : Stop)

/-- A new host read (R35, R36). -/
def issueHostRead (slice : Nat) (hpa page len : Nat) (why : ReadFor) (b : Blk) : Blk :=
  let tag := b.hlu.tagNext
  let fn := sliceFn b slice
  let b := countAccess slice (page * 4096) b
  let b := b.hluU fun h => { h with
    tagNext := (tag + 1) % 4096
    reads := h.reads ++ [{ tag := tag, why := why, fn := fn, limitFt := b.ft + h.cplToMs * 1000000 }] }
  b.emit (.hostRead fn (slicePasid b slice) hpa len tag)

/-- Read the planned pieces: bytes that other homes returned earlier are in `rbuf`, by DVA (no bytes: uncorrectable data); the
first piece that is missing there is asked for. -/
def getSegs (slice ctx cls scope : Nat) (deadline : Option Nat) (rbuf : List (Nat × Bytes)) (forHost : Nat → Nat → ReadFor)
    (forChip : Nat → Nat → ReqFor) (limit : Nat) : List Seg → Bytes → Blk → RRes
  | [], acc, b => .data acc b
  | s :: rest, acc, b =>
    let next := getSegs slice ctx cls scope deadline rbuf forHost forChip limit rest
    match s.dest with
    | .here k _ =>
      if admits b .swedikin slice false k s.len then
        (if uncorrectable b k s.len then .poisoned s.dva else next (acc ++ loadLocal b k s.len) b)
      else .refused s.dva
    | .away pa _ =>
      match rbuf.find? fun e => e.1 == s.dva && (e.2.length == s.len || e.2.isEmpty) with
      | some e => if e.2.isEmpty then .poisoned s.dva else next (acc ++ e.2) b
      | none => .wait (sendReqAt s.dva 0x02 (paChip pa)
          (leBytes 8 (burgee slice ctx cls (deadlineField b.ft deadline) scope) ++ leBytes 8 pa)
          (leBytes 4 s.len ++ List.replicate 12 0) (forChip s.dva s.len) limit b)
    | .host hpa page =>
      match rbuf.find? fun e => e.1 == s.dva && (e.2.length == s.len || e.2.isEmpty) with
      | some e => if e.2.isEmpty then .poisoned s.dva else next (acc ++ e.2) b
      | none => .wait (issueHostRead slice hpa page s.len (forHost s.dva s.len) b)

/-- Read bytes at a DVA for an item. -/
def itemRead (i : Nat) (it : Item) (dva len : Nat) (b : Blk) : RRes :=
  match planSpan b it.slice dva len false with
  | .error e => .stop e
  | .ok segs => getSegs it.slice it.ctx it.cls it.scope it.deadline it.rbuf (.item i) (.itemRead i)
      (it.timeoutNs b.lmf.txnTimeoutUs) segs [] (touchSegs it.slice segs b)

/-- Write bytes at a DVA for an item. -/
def itemWrite (i : Nat) (it : Item) (dva : Nat) (bs : Bytes) (b : Blk) : WRes :=
  match planSpan b it.slice dva bs.length true with
  | .error e => .stop e
  | .ok segs =>
    match putSegs it.slice it.ctx it.cls it.scope it.deadline (some i) (.itemWrite i) (it.timeoutNs b.lmf.txnTimeoutUs) segs bs
        (touchSegs it.slice segs b) with
    | some b => .done b
    | none => .refused dva

/-- A read that an item issued has not returned. -/
def readPending (b : Blk) (i : Nat) : Bool :=
  (b.lmf.outstanding.any fun r => match r.why with | .itemRead j _ _ => j == i | _ => false) ||
  (b.hlu.reads.any fun r => match r.why with | .item j _ _ => j == i | _ => false)

/-- Uncorrectable data at an operand: its field of the entry, where there is one. -/
def badRead : Option Nat → Result
  | some off => fieldResult 0x16 off
  | none => ⟨0x16, 0, 0⟩

/-- Go on with a read of an item, or stall or end it. -/
def withRead (i source : Nat) (off : Option Nat) (r : RRes) (b : Blk) (k : Bytes → Blk → Blk) : Blk :=
  match r with
  | .data bs b => k bs b
  | .wait b => b
  | .refused d => refuseItem i d source off false b
  | .poisoned _ => endItem i (badRead off) b
  | .stop w => stopItem i source off false w b

/-- Go on with a write of an item, or stall or end it. -/
def withWrite (i source : Nat) (off : Option Nat) (r : WRes) (b : Blk) (k : Blk → Blk) : Blk :=
  match r with
  | .done b => k b
  | .refused d => refuseItem i d source off true b
  | .stop w => stopItem i source off true w b

end Sys2Proof.Machine
end

