-- ==== Sys2Proof/Machine/Pages.lean ====
section
/-! DEFINITION. Who may write which register page (R17, R53, R54, R437, R447, R459, R480, R486, R487, R496). -/

namespace Sys2Proof.Machine

/-- The access belongs to the secure world (R437). -/
def secureWorld (b : Blk) : Who → Bool
  | .mp secure => secure
  | .pf (some p) priv => priv && b.sec.identOk && p == b.sec.securePasid
  | _ => false

/-- The access counts as slice 0 on the physical function (R486, R487); before slice 0 exists any does. -/
def asSlice0 (b : Blk) : Who → Bool
  | .pf none _ => true
  | .pf (some p) _ => match b.slices.get? 0 with
    | some s => s.pasid == p
    | none => true
  | .remote s => s == 0
  | _ => false

/-- The access comes from the management processor's port. -/
def isMp : Who → Bool
  | .mp _ => true
  | _ => false

/-- The access comes from the debug port. -/
def isDebug : Who → Bool
  | .debug => true
  | _ => false

/-- The access is a host request to a BAR. -/
def isHost : Who → Bool
  | .pf _ _ => true
  | .vf _ _ => true
  | _ => false

/-- The debug port may write the page at the present level (Table 14.5). -/
def debugWrites (b : Blk) (pg : Nat) : Bool :=
  decide (3 ≤ b.sec.dbgLevel) || (decide (2 ≤ b.sec.dbgLevel) && pg != pgSEC && pg != pgMBX + 2)

/-- The pages whose state lies in part in the always-on domain. -/
def alwaysOn (pg : Nat) : Bool :=
  pg == pgPWR || pg == pgSEC || pg == pgEVC || (decide (pgMBX ≤ pg) && decide (pg < pgMBX + 4))

/-- The pages that only the secure world writes (Table 16.3). -/
def securePage (pg : Nat) : Bool := pg == pgSEC || pg == pgMBX + 2 || pg == pgMBX + 3

/-- A host access in the grace of ENTER_B2 aborts the entry (R452). -/
def abortGrace (b : Blk) : Blk :=
  if b.pwr.graceFt.isSome then b.pwrU fun p => { p with graceFt := none, presult := 0x12 } else b

/-- A host access in B2 requests a wake (R453). -/
def requestWake (b : Blk) : Blk :=
  if b.pwr.pstate = 2 ∧ b.pwr.wakePending.isNone then b.pwrU fun p => { p with wakePending := some (1, 0) } else b

/-- Power and readiness decide first (R447, R451, R453, R459): whether the access reaches the page. A host access in B2, in B3, or at a
wake before ready is held by the PCIe controller. A block with no valid supplies answers nothing. -/
def gatePower (who : Who) (pg : Nat) (write : Bool) (b : Blk) : Blk × Bool :=
  if b.pwr.supplies = false ∧ b.pwr.pstate < 3 then (b, false)
  else match who with
  | .pf _ _ | .vf _ _ =>
    if 2 ≤ b.pwr.pstate then (requestWake b, false)
    else if b.pwr.ready = false then (if write ∧ b.pwr.startKind ≠ 2 then pageErr pgHLU 0x0C b else b, false)
    else (leaveB1 (if write || pg != pgPWR then abortGrace b else b), true)
  | .debug =>
    if b.pwr.pstate = 3 then (b, false)
    else if b.pwr.pstate = 2 then
      (if pg == pgPWR || pg == pgSEC || pg == pgEVC then (b, true) else (if write then pageErr pgPWR 0x06 b else b, false))
    else (if alwaysOn pg then b else leaveB1 b, true)
  | .mp _ => if 2 ≤ b.pwr.pstate then (b, decide (b.pwr.pstate = 2) && alwaysOn pg) else (leaveB1 b, true)
  | .core _ _ | .remote _ => (b, decide (b.pwr.pstate < 2))

/-- PG_OWNER of a unit page admits the writer (R486, R487, Table 16.3). -/
def ownsUnit (b : Blk) (who : Who) (pg : Nat) : Bool :=
  if securePage pg then secureWorld b who || (isDebug who && debugWrites b pg)
  else asSlice0 b who || isMp who || (isDebug who && debugWrites b pg)

/-- A write of a unit page: go on where the page admits it, else count it with code 0x02 (R486). -/
def onUnit (who : Who) (pg : Nat) (b : Blk) (k : Blk → Blk) : Blk :=
  match gatePower who pg true b with
  | (b, false) => b
  | (b, true) => if ownsUnit b who pg then k b else pageErr pg 0x02 b

/-- The slice whose page an access addresses: by slice number in the physical function's window, by local index in a virtual
function's (R52, R53). -/
def pageSlice (b : Blk) (who : Who) (page : Nat) : Option Nat :=
  match who with
  | .vf fn _ => (b.slices.find? fun e => e.2.fn == fn && e.2.localIdx == page).map (·.1)
  | _ => if b.slices.has page then some page else none

/-- The access is made by the slice's own function with its PASID; a missing prefix takes the page's PASID (R17, R54). -/
def ownAccess (b : Blk) (who : Who) (slice : Nat) : Bool :=
  match b.slices.get? slice with
  | none => false
  | some s => match who with
    | .pf pasid _ => s.fn == 0 && (pasid.all fun p => p == s.pasid)
    | .vf fn pasid => s.fn == fn && (pasid.all fun p => p == s.pasid)
    | _ => false

/-- The view page admits the writer: the slice itself, slice 0 through the physical function, or the debug port at its level
(R487, R496). -/
def ownsView (b : Blk) (who : Who) (slice : Nat) : Bool :=
  ownAccess b who slice || (match who with
    | .pf _ _ => true
    | .remote s => s == 0
    | .debug => decide (2 ≤ b.sec.dbgLevel)
    | _ => false)

/-- A write of a view page: go on where it is admitted; a page with no slice counts at QFE with code 0x07 (R53, R497), a
writer it does not allow, with code 0x02 at the page of the owning unit. -/
def onView (who : Who) (page pg : Nat) (b : Blk) (k : Nat → Blk → Blk) : Blk :=
  match gatePower who (pgView page) true b with
  | (b, false) => b
  | (b, true) => match pageSlice b who page with
    | none => pageErr pgQFE 0x07 b
    | some s => if ownsView b who s then k s b else pageErr pg 0x02 b

/-- Count an error on the unit page, and on the view page when the slice's own access causes it (R484). -/
def errFrom (who : Who) (slice pg code : Nat) (b : Blk) : Blk :=
  if ownAccess b who slice then viewErr slice pg code b else pageErr pg code b

/-- Debug freeze holds the unit of a page (R489). -/
def frozenUnit (b : Blk) (pg : Nat) : Bool := (b.hdr pg).freeze

/-- The units run: the supplies are valid, no block reset holds the block frozen, and its clocks are not stopped (R48, R424, R452). -/
def unitsRun (b : Blk) : Bool := b.pwr.supplies && b.rcv.blockPhase == 0 && decide (b.pwr.pstate < 2)

/-- An event of a unit's own: nothing happens while the unit is frozen (R489) or does not run (R424, R452). -/
def actUnit (pg : Nat) (f : Blk → Blk) (s : State) : Host.Outcome State Fault Refusal :=
  act (fun b => if unitsRun b && !frozenUnit b pg then f b else b) s

/-- An event of Lemdy, which a block reset leaves in service (R360): nothing happens while LMF is frozen by debug or its clocks are
stopped. -/
def actLink (f : Blk → Blk) (s : State) : Host.Outcome State Fault Refusal :=
  act (fun b => if b.pwr.supplies ∧ b.pwr.pstate < 2 ∧ frozenUnit b pgLMF = false then f b else b) s

/-- A register word is written whole: an access of four bytes, or of eight where the pair is meant (R490). -/
def sizeIs (n : Nat) : Bool := n == 4 || n == 8

end Sys2Proof.Machine
end

