-- ==== Sys2Proof/Machine/Residency.lean ====
section
/-! DEFINITION. Context residency: readiness of SQs, runnable contexts, spill and restore, the admission queue (R102, R125 to
R131), and the table entries that CTX writes. -/

namespace Sys2Proof.Machine

/-! ## Table entries in the carve-out (Tables 03.5 to 03.7) -/

/-- The physical key of the carve-out's first byte. -/
def carveKey (b : Blk) : Nat := b.ctx.base

/-- The 64 bytes of a partition entry. -/
def partitionBytes (b : Blk) (p : Nat) : Bytes :=
  match b.partitions.get? p with
  | none => List.replicate 64 0
  | some e => leBytes 8 e.mask.toNat ++ leBytes 4 e.hbmShare ++ leBytes 2 e.spShare ++ leBytes 2 e.storeBlocks ++
      leBytes 1 1 ++ leBytes 1 0 ++ leBytes 2 (b.slices.count fun _ s => s.part == p) ++ leBytes 4 e.hbmGranted ++
      leBytes 2 e.spGranted ++ List.replicate 38 0

/-- The 32 bytes of a slice entry. -/
def sliceBytes (b : Blk) (s : Nat) : Bytes :=
  match b.slices.get? s with
  | none => List.replicate 32 0
  | some e => leBytes 4 e.pasid ++ leBytes 2 e.fn ++ leBytes 1 e.localIdx ++ leBytes 1 e.part ++
      leBytes 1 (if e.draining then 2 else 1) ++ leBytes 1 e.weight ++ leBytes 1 e.clsMax ++ leBytes 1 0 ++
      leBytes 2 e.maxQueues ++ leBytes 2 e.inflight ++ leBytes 2 e.maxContexts ++ leBytes 2 e.maxFences ++
      leBytes 2 e.storeBlocks ++ leBytes 2 e.spGranted ++ leBytes 4 e.hbmGranted ++ leBytes 4 0

/-- The state code of a context (Table 03.8). -/
def ctxCode : CtxState → Nat
  | .defined => 1
  | .restoring => 2
  | .resident => 3
  | .spilling => 4
  | .destroying => 5

/-- Items of a context fetched and not yet completed. -/
def ctxInflight (b : Blk) (c : Nat) : Nat := b.items.count fun _ it => it.ctx == c
/-- SQs that run under a context. -/
def ctxSqs (b : Blk) (c : Nat) : Nat := b.queues.count fun _ q => q.isSq && q.ctx == c
/-- Fences that a context created and that still exist. -/
def ctxFences (b : Blk) (c : Nat) : Nat := b.fen.fences.count fun _ f => f.creator == c

/-- The 64 bytes of a context entry. -/
def contextBytes (b : Blk) (c : Nat) : Bytes :=
  match b.contexts.get? c with
  | none => List.replicate 64 0
  | some e => leBytes 2 e.slice ++ leBytes 1 (ctxCode e.state) ++
      leBytes 1 ((if e.pinned then 1 else 0) + if e.admitting then 2 else 0) ++ leBytes 2 (e.slot.getD 0xFFFF) ++
      leBytes 2 (ctxSqs b c) ++ leBytes 8 e.saveArea ++ leBytes 8 e.lastSched ++ leBytes 4 (ctxInflight b c) ++
      leBytes 4 (ctxFences b c) ++ leBytes 8 e.created ++ List.replicate 24 0

/-- Write a partition's table entry and its retained copy (R109). -/
def syncPartition (p : Nat) (b : Blk) : Blk :=
  let b := storeLocal (carveKey b + 0x20000 + p * 64) (partitionBytes b p) b
  b.pwrU fun w => { w with retained := { w.retained with partitions := match b.partitions.get? p with
    | some e => w.retained.partitions.set p e
    | none => w.retained.partitions.del p } }

/-- Write a slice's table entry and its retained copy (R109). -/
def syncSlice (s : Nat) (b : Blk) : Blk :=
  let b := storeLocal (carveKey b + s * 32) (sliceBytes b s) b
  b.pwrU fun w => { w with retained := { w.retained with slices := match b.slices.get? s with
    | some e => w.retained.slices.set s e
    | none => w.retained.slices.del s } }

/-- Write a context's table entry. -/
def syncContext (c : Nat) (b : Blk) : Blk := storeLocal (carveKey b + 0x100000 + c * 64) (contextBytes b c) b

/-! ## Readiness (R102, R128) -/

/-- Entries between head and tail. -/
def Queue.unfetched (q : Queue) : Nat := (q.tail + 2 ^ q.log2 - q.head) % 2 ^ q.log2
/-- Slots of a CQ that hold no unread and no reserved entry, less the one that is never used (R67). A CQ's head is as the
guest wrote it, its tail the next slot Swedikin writes. -/
def Queue.cqFree (q : Queue) : Nat := 2 ^ q.log2 - 1 - ((q.tail + 2 ^ q.log2 - q.head) % 2 ^ q.log2 + q.reserved)

/-- The items of one SQ, oldest first. -/
def sqItems (b : Blk) (slice sq : Nat) : List (Nat × Item) :=
  sortOn (fun e => e.2.order) (b.items.filter fun e => e.2.slice == slice && e.2.sq == sq)

/-- ORDERED: the flag, FENCE_SIGNAL, or DEPEND (R80, R81, R83). -/
def Item.ordered (it : Item) : Bool := bit it.flags 1 || bit it.flags 2 || it.opcode == 0x06

/-- The item may start: no earlier item of its SQ still has to start, an earlier FENCE_WAIT has ended, and an ordered item has
no earlier item at all (R79 to R83). -/
def mayStart (b : Blk) (it : Item) : Bool :=
  let earlier := (sqItems b it.slice it.sq).filter fun e => decide (e.2.order < it.order)
  (earlier.all fun e => (e.2.started || e.2.result.isSome) && (e.2.opcode != 0x07 || e.2.result.isSome)) &&
  (!it.ordered || earlier.isEmpty)

/-- The SQ is held back at its head: its oldest item not yet started is held, or a FENCE_WAIT of it still waits (R102). -/
def sqHeld (b : Blk) (slice sq : Nat) : Bool :=
  let its := sqItems b slice sq
  (its.any fun e => e.2.opcode == 0x07 && e.2.started && e.2.result.isNone) ||
  (match its.find? (fun e => !e.2.started && e.2.result.isNone) with
   | some e => !mayStart b e.2
   | none => false)

/-- Items of a slice in flight (R104). -/
def sliceInflight (b : Blk) (s : Nat) : Nat := b.items.count fun _ it => it.slice == s
/-- CQ slots that fetches in progress have reserved for entries not yet items count in `reserved`; the in-flight quota counts
them as well. -/
def fetching (b : Blk) (s : Nat) : Nat :=
  b.queues.foldl (fun n e => if e.1 / 512 = s then n + ((e.2.fetch.map (·.count)).getD 0) else n) 0

/-- How many entries one turn of the SQ would fetch (R103); 0 when it is not ready but for residency. -/
def turnSize (b : Blk) (key : Nat) (q : Queue) : Nat :=
  if q.isSq ∧ q.draining = false ∧ q.fetch = none ∧ q.paused = false ∧ sqHeld b (key / 512) (key % 512) = false then
    match b.queues.get? (key / 512 * 512 + q.cq), b.slices.get? (key / 512) with
    | some cq, some s =>
      let quota := s.inflight - (sliceInflight b (key / 512) + fetching b (key / 512))
      let table := 32768 - (b.items.length + b.queues.foldl (fun n e => n + ((e.2.fetch.map (·.count)).getD 0)) 0)
      min (min (min 8 q.unfetched) (min (2 ^ q.log2 - q.head) cq.cqFree)) (min quota table)
    | _, _ => 0
  else 0

/-- The context is runnable: one of its SQs would be ready but for residency (R128). -/
def runnable (b : Blk) (c : Nat) : Bool :=
  b.queues.any fun e => e.2.isSq && e.2.ctx == c && decide (0 < turnSize b e.1 e.2)

/-- The context has work in flight (R128). -/
def workInFlight (b : Blk) (c : Nat) (e : Context) : Bool :=
  decide (0 < ctxInflight b c) || !e.records.isEmpty ||
  (b.sch.cores.any fun k => k.2.ctx == some c && !k.2.groups.isEmpty) ||
  (b.queues.any fun q => q.2.isSq && q.2.ctx == c && q.2.fetch.isSome)

/-- Resident slots that no context holds. -/
def freeSlot (b : Blk) : Option Nat :=
  (List.range 4096).find? fun s => b.contexts.all fun e => e.2.slot != some s

/-- The victim of R129: unpinned, no work in flight, least LAST_SCHED, then the lower number. -/
def victim (b : Blk) : Option Nat :=
  (b.contexts.foldl (fun (best : Option (Nat × Nat)) e =>
    if e.2.state = .resident ∧ e.2.pinned = false ∧ workInFlight b e.1 e.2 = false then
      match best with
      | none => some (e.1, e.2.lastSched)
      | some (c, t) => if e.2.lastSched < t then some (e.1, e.2.lastSched) else some (c, t)
    else best) none).map (·.1)

/-- Begin a restore into a slot. -/
def startRestore (c slot : Nat) (b : Blk) : Blk :=
  syncContext c ((b.updContext c fun e => { e with state := .restoring, slot := some slot, admitting := false }).ctxU fun x =>
    { x with admitQ := x.admitQ.filter (· ≠ c), restoreQueue := x.restoreQueue.filter (· ≠ c) })

/-- Begin the spill of a victim. -/
def startSpill (v : Nat) (b : Blk) : Blk :=
  syncContext v ((b.updContext v fun e => { e with state := .spilling }).ctxU fun x => { x with spills := x.spills.bump })

/-- Is the context waiting already: in a pair, the restore queue or the admission queue. -/
def waitsResidency (b : Blk) (c : Nat) : Bool :=
  b.ctx.admitQ.contains c || b.ctx.restoreQueue.contains c || b.ctx.pairs.any fun p => p.1 == c

/-- A DEFINED context wants a slot (R129 to R132): it takes a free slot or a victim's, waits for one of the four pairs, or
joins the admission queue with ADMITTING set. -/
def seekSlot (c : Nat) (b : Blk) : Blk :=
  match b.contexts.get? c with
  | none => b
  | some e =>
    if e.state ≠ .defined ∨ waitsResidency b c then b
    else match freeSlot b, victim b with
      | none, none =>
        syncContext c ((b.updContext c fun e => { e with admitting := true }).ctxU fun x => { x with admitQ := x.admitQ ++ [c] })
      | some s, _ =>
        if 4 ≤ b.ctx.pairs.length then b.ctxU fun x => { x with restoreQueue := x.restoreQueue ++ [c] }
        else startRestore c s (b.ctxU fun x => { x with pairs := x.pairs ++ [(c, 0)] })
      | none, some v =>
        if 4 ≤ b.ctx.pairs.length then b.ctxU fun x => { x with restoreQueue := x.restoreQueue ++ [c] }
        else startSpill v (b.ctxU fun x => { x with pairs := x.pairs ++ [(c, v + 1)] })

/-- A context with runnable queues that is only DEFINED seeks a slot (R129). -/
def wakeContext (c : Nat) (b : Blk) : Blk :=
  match b.contexts.get? c with
  | some e => if e.state = .defined ∧ runnable b c then seekSlot c b else b
  | none => b

end Sys2Proof.Machine
end

