-- ==== Sys2Proof/Machine/FenceOps.lean ====
section
/-! DEFINITION. Operations of FEN: signals, resets, releases, abandonment, arming (R141 to R169). -/

namespace Sys2Proof.Machine

/-- The poison value of an abandoned fence (R169). -/
def poison : BitVec 64 := BitVec.allOnes 64

/-- A fence has an armed waiter: in the wait table, on the poll list or in a Marionette wait slot (R149). -/
def hasWaiter (b : Blk) (f : Nat) : Bool :=
  (b.fen.table.any fun w => w.fence == f) || (b.fen.poll.any fun w => w.fence == f) ||
  (b.fen.marWaits.any fun w => w.fence == f && w.outcome.isNone)

/-- The fence is LIVE or ABANDONING and the slice owns it (R78, R144). -/
def ownsFence (b : Blk) (slice f : Nat) : Bool := (b.fen.fences.get? f).any fun e => e.owner == slice

/-- The microseconds that a wait was armed (Table 15.4 WAIT_US). -/
def waitCounted (w : Wait) (slice : Nat) (b : Blk) : Blk :=
  b.updView slice fun v => { v with waitUs := v.waitUs.add ((b.ft - w.armedFt) / 1000) }

/-- End the FENCE_WAIT of a wait that has left the table or the list (R89, R157). -/
def endWait (w : Wait) (r : Result) (b : Blk) : Blk :=
  match b.items.get? w.item with
  | none => b
  | some it =>
    let value := ((b.fen.fences.get? w.fence).map (·.value.toNat)).getD 0
    let b := traceRec 0x02 it.slice it.ctx value
      (w.fence + it.sq * 2 ^ 16 + r.status * 2 ^ 25 + it.tag * 2 ^ 32) false b
    endItem w.item r (waitCounted w it.slice b)

/-- The wait is satisfied by its fence, which is not poisoned (R146, R169). -/
def satisfied (b : Blk) (f : Nat) (w : BitVec 64) : Bool :=
  (b.fen.fences.get? f).any fun e => !e.abandoning && decide (w ≤ e.value)

/-- The WAIT_END record of a Marionette wait slot. -/
def traceMarWait (w : MarWait) (status : Nat) (b : Blk) : Blk :=
  match b.mar.runs.get? w.run with
  | none => b
  | some r =>
    let value := ((b.fen.fences.get? w.fence).map (·.value.toNat)).getD 0
    let it := b.items.get? r.item
    traceRec 0x02 r.slice r.ctx value
      (w.fence + ((it.map (·.sq)).getD 0) * 2 ^ 16 + status * 2 ^ 25 + ((it.map Item.tag).getD 0) * 2 ^ 32) false b

/-- Release the satisfied table entries and Marionette slots of a fence, in arming order (R150, R157, R161). -/
def releaseWaiters (f : Nat) (b : Blk) : Blk :=
  let go (w : Wait) : Bool := w.fence == f && satisfied b f w.value
  let free := b.fen.table.filter go
  let slots := b.fen.marWaits.filter fun w => w.fence == f && w.outcome.isNone && satisfied b f w.value
  let b := slots.foldl (fun b w => traceMarWait w 0 b) b
  let b := b.fenU fun x => { x with
    table := x.table.filter fun w => !go w
    marWaits := x.marWaits.map fun w =>
      if w.fence = f ∧ w.outcome = none ∧ satisfied b f w.value then { w with outcome := some 0 } else w }
  free.foldl (fun b w => endWait w okResult b) b

/-- STALE rises by one and holds at 255 with STALE_SAT (R145). -/
def Fence.stalePlus (e : Fence) : Fence :=
  { e with stale := min 255 (e.stale + 1), staleSat := e.staleSat || decide (254 ≤ e.stale) }

/-- One operation in the fence order: a signal, or a RESET (R145, R149). Answers 0 applied, 1 stale, 2 not the slice's fence,
3 RESET refused. Waiters are released after it. -/
def applySignal (slice f : Nat) (v : BitVec 64) (reset : Bool) (b : Blk) : Blk × Nat :=
  match b.fen.fences.get? f with
  | none => (b, 2)
  | some e =>
    if e.owner ≠ slice then (b, 2)
    else if reset then
      if e.abandoning ∨ hasWaiter b f then (b, 3)
      else (b.fenU fun x => { x with fences := x.fences.set f { e with value := v } }, 0)
    else if v ≤ e.value then
      (b.fenU fun x => { x with fences := x.fences.set f e.stalePlus, staleTotal := x.staleTotal.bump }, 1)
    else (b.fenU fun x => { x with fences := x.fences.set f { e with value := v } }, 0)

/-- The SIGNAL record of an operation that took its place in the fence order (Table 15.2). -/
def traceSignal (slice ctx f : Nat) (v : BitVec 64) (src : Nat) (stale reset remote : Bool) (id : Nat) (b : Blk) : Blk :=
  traceRec 0x03 slice ctx v.toNat
    (f + src * 2 ^ 16 + (if stale then 2 ^ 26 else 0) + (if reset then 2 ^ 27 else 0) + (if remote then 2 ^ 28 else 0) +
     id % 2 ^ 32 * 2 ^ 32) false b

/-- Signal a fence and release whoever it satisfies. -/
def signalFence (slice ctx f : Nat) (v : BitVec 64) (reset : Bool) (src : Nat) (remote : Bool) (id : Nat) (b : Blk) :
    Blk × Nat :=
  match applySignal slice f v reset b with
  | (b, r) =>
    if r = 2 ∨ r = 3 then (b, r)
    else (releaseWaiters f (traceSignal slice ctx f v src (r == 1) reset remote id b), r)

/-- A fence with no waiter left that is being abandoned becomes FREE: its number joins the tail of the free list and every FREE
of it completes (R168 step 5, R143). -/
def finishAbandon (f : Nat) (b : Blk) : Blk :=
  match b.fen.fences.get? f with
  | none => b
  | some e =>
    if e.abandoning ∧ hasWaiter b f = false then
      let by' := (b.fen.freeing.filter fun e => e.2 == f).map (·.1)
      let b := b.fenU fun x => { x with
        fences := x.fences.del f
        freeTail := x.freeTail ++ [f]
        freeing := x.freeing.keep fun _ g => g != f }
      by'.foldl (fun b i => endItem i okResult b) b
    else b

/-- Abandon a fence (R168): poison, release the table's waiters and the Marionette slots, and free it when none remains. -/
def abandonFence (f : Nat) (b : Blk) : Blk :=
  match b.fen.fences.get? f with
  | none => b
  | some e =>
    if e.abandoning then b
    else
      let free := b.fen.table.filter fun w => w.fence == f
      let b := b.fenU fun x => { x with
        fences := x.fences.set f { e with abandoning := true, abandoned := true, value := poison }
        abandons := x.abandons.bump
        table := x.table.filter fun w => w.fence != f
        marWaits := x.marWaits.map fun w =>
          if w.fence = f ∧ w.outcome = none then { w with outcome := some 0x15 } else w }
      let slots := b.fen.marWaits.filter fun w => w.fence == f && w.outcome == some 0x15
      let b := traceRec 0x05 e.owner e.creator 0 f false b
      let b := slots.foldl (fun b w => traceMarWait w 0x15 b) b
      finishAbandon f (free.foldl (fun b w => endWait w ⟨0x15, 5, fenceDetail b.chip f⟩ b) b)

/-- Take the number at the head of the free list (R143). -/
def takeFenceNumber (b : Blk) : Option (Nat × Blk) :=
  match b.fen.freeHead with
  | f :: rest => some (f, b.fenU fun x => { x with freeHead := rest })
  | [] =>
    if b.fen.freeNext < 65536 then some (b.fen.freeNext, b.fenU fun x => { x with freeNext := x.freeNext + 1 })
    else match b.fen.freeTail with
      | f :: rest => some (f, b.fenU fun x => { x with freeTail := rest })
      | [] => none

/-- A wait leaves the table or the poll list without a change of its fence (R162). -/
def dropWait (i : Nat) (b : Blk) : Blk :=
  let fences := (b.fen.table ++ b.fen.poll).filterMap fun w => if w.item = i then some w.fence else none
  let b := match (b.fen.table ++ b.fen.poll).find? (fun w => w.item == i), b.items.get? i with
    | some w, some it => waitCounted w it.slice b
    | _, _ => b
  let b := b.fenU fun x => { x with
    table := x.table.filter fun w => w.item != i
    poll := x.poll.filter fun w => w.item != i }
  fences.foldl (fun b f => finishAbandon f b) b

/-- Arm a FENCE_WAIT (R155): satisfied, poisoned, a table entry, or the tail of the poll list. -/
def armWait (i : Nat) (it : Item) (f : Nat) (w : BitVec 64) (b : Blk) : Blk :=
  match b.fen.fences.get? f with
  | none => endItem i (fieldResult 0x11 0x10) b
  | some e =>
    if e.owner ≠ it.slice then endItem i (fieldResult 0x11 0x10) b
    else if e.abandoning then endItem i ⟨0x15, 5, fenceDetail b.chip f⟩ b
    else if w ≤ e.value then endItem i okResult b
    else
      let entry : Wait := { item := i, value := w, deadline := it.deadline, fence := f, armedFt := b.ft }
      let full := decide (16384 ≤ b.fen.table.length)
      let b := traceRec 0x01 it.slice it.ctx w.toNat
        (f + it.sq * 2 ^ 16 + (if full then 2 ^ 25 else 0) + it.tag * 2 ^ 32) false b
      let b := b.fenU fun x =>
        if full then { x with poll := x.poll ++ [entry], pollEntries := x.pollEntries.bump }
        else { x with table := x.table ++ [entry] }
      b.updItem i fun it => { it with st := .waiting, issued := true }

/-- The FSIGs toward a chip that await their FACK (R166). -/
def fsigOut (b : Blk) (dest : Nat) : Nat :=
  (b.lmf.outstanding.filter fun r => r.dest == dest && (match r.why with
    | .fsig _ => true
    | .commitSig _ _ => true
    | _ => false)).length

/-- The FSIG payload after its BURGEE (Table 04.5). -/
def fsigPayload (burg txn value applyBy fence src : Nat) (reset : Bool) : Bytes :=
  leBytes 8 burg ++ leBytes 8 txn ++ leBytes 8 value ++ leBytes 8 applyBy ++ leBytes 2 fence ++ leBytes 2 src ++
  leBytes 1 (if reset then 1 else 0) ++ List.replicate 11 0

/-- Send the FSIG of a remote FENCE_SIGNAL, while fewer than 64 toward its chip await their FACK (R163, R166). -/
def fsigSend (i : Nat) (b : Blk) : Blk :=
  match b.items.get? i with
  | none => b
  | some it =>
    match it.sig with
    | none => b
    | some sg =>
      let dest := field it.entry 0x12 2 % 1024
      let f := field it.entry 0x10 2
      let v := field it.entry 0x18 8
      if sg.txn.isSome ∨ it.result.isSome then b
      else if pastDeadline b.ft it.deadline then endItem i deadlineResult b
      else if 64 ≤ fsigOut b dest then b
      else
        let b0 := openSession dest b
        let txn := nextTxn b0 dest
        let burg := burgee it.slice it.ctx it.cls (deadlineField b.ft it.deadline) it.scope
        let b := traceRec 0x04 it.slice it.ctx v (f + dest * 2 ^ 16 + txn % 2 ^ 32 * 2 ^ 32) false b0
        let b := sendReq 0x04 dest (List.replicate 16 0)
          (fsigPayload burg txn v sg.applyBy f b.chip (bit (field it.entry 0x14 1) 0)) (.fsig i)
          (it.startFt + it.timeoutNs b.lmf.txnTimeoutUs - b.ft) b
        b.updItem i fun it => { it with sig := some { sg with txn := some txn } }

end Sys2Proof.Machine
end

