-- ==== Sys2Proof/Machine/XltOps.lean ====
section
/-! DEFINITION. Operations of XLT: range tables and pools, holds, invalidations (R120 to R123, R209 to R212, R220 to R224). -/

namespace Sys2Proof.Machine

/-! ## Range tables (Tables 06.1, 06.2) -/

/-- A range entry's 32 bytes. -/
def rangeBytes : Option Range → Bytes
  | none => List.replicate 32 0
  | some r => leBytes 8 r.start ++ leBytes 8 r.len ++ leBytes 8 r.pa ++ leBytes 2 r.creator ++
      leBytes 1 ((if r.valid then 1 else 0) + (if r.readOnly then 2 else 0) + (if r.peer then 4 else 0)) ++ List.replicate 5 0

/-- The indices of a slice's valid ranges in ascending order of their start (R210). -/
def sortList (b : Blk) (slice : Nat) : List Nat :=
  (sortOn (fun e => e.2.start) ((rangesOf b slice).filter fun e => e.2.valid)).map (·.1)

/-- Write a range entry and the slice's sort list: the valid indices, then 0xFFFF. -/
def syncRange (slice idx : Nat) (b : Blk) : Blk :=
  let base := b.xlt.area
  let b := storeLocal (base + slice * 32768 + idx * 32) (rangeBytes ((rangesOf b slice).get? idx)) b
  let l := sortList b slice
  let used := (l.map fun i => leBytes 2 i).flatten
  storeLocal (base + 0x8000000 + slice * 2048) (used ++ List.replicate (2048 - used.length) 0xFF) b

/-- Set one range of a slice. -/
def setRange (slice idx : Nat) (r : Option Range) (b : Blk) : Blk :=
  let t := rangesOf b slice
  let t' := match r with
    | some r => t.set idx r
    | none => t.del idx
  syncRange slice idx (b.xltU fun x => { x with ranges := x.ranges.set slice t' })

/-- The span overlaps a range of the slice, valid or not, or the model window (R294). -/
def overlapsRange (b : Blk) (slice start len : Nat) : Bool :=
  (decide (start < modelBase + 1024 * modelSpan) && decide (modelBase < start + len)) ||
  (rangesOf b slice).any fun e => decide (start < e.2.start + e.2.len) && decide (e.2.start < start + len)

/-- The lowest 64 KiB-aligned DVA at or above 0x1_0000 where `len` bytes overlap no range (R122), trying each range's end. -/
def placeRange (b : Blk) (slice len : Nat) : Option Nat :=
  let ends := (rangesOf b slice).map fun e => e.2.start + e.2.len
  (sortOn id (0x10000 :: (modelBase + 1024 * modelSpan) :: ends)).find? fun d =>
    decide (0x10000 ≤ d) && decide (d + len ≤ 2 ^ 56) && !overlapsRange b slice d len

/-! ## Pools (R120 to R123) -/

/-- The granule belongs to the model store or to the LWA: rows 0 up to STORE_ROWS of each bank, and the LWA rows (R244,
R292). -/
def storeOrLwa (b : Blk) (g : Nat) : Bool :=
  let off := (g - 2 ^ 30) * 65536
  decide (2 ^ 30 ≤ g) && decide (g < 2 ^ 31) &&
  ((b.mdl.storeEn && decide (off % 4194304 / 65536 < b.mdl.rows)) || decide (64 - 4 * b.sch.lwa ≤ off % 4194304 / 65536))

/-- A granule is covered by a range of the slice. -/
def coveredBy (b : Blk) (slice g : Nat) : Bool :=
  (rangesOf b slice).any fun e => decide (paKey e.2.pa / 65536 ≤ g) && decide (g < paKey e.2.pa / 65536 + e.2.len / 65536) &&
    isLocal b e.2.pa

/-- The free pages of a slice's pool in a space, ascending. -/
def freePages (b : Blk) (slice space : Nat) : List Nat :=
  (b.own.owner.filter fun e => e.2 == slice && e.1 / 2 ^ 30 == space && !storeOrLwa b e.1 && !coveredBy b slice e.1).map (·.1)

/-- The runs of consecutive numbers of an ascending list: start and length. -/
def runsOf : List Nat → List (Nat × Nat)
  | [] => []
  | g :: gs => match runsOf gs with
    | (s, n) :: rest => if s = g + 1 then (g, n + 1) :: rest else (g, 1) :: (s, n) :: rest
    | [] => [(g, 1)]

/-- The longest run. -/
def longestRun (gs : List Nat) : Nat := (runsOf gs).foldl (fun m r => max m r.2) 0

/-- The lowest-addressed run of at least `n` pages (R122). -/
def firstFit (gs : List Nat) (n : Nat) : Option Nat := ((runsOf gs).find? fun r => decide (n ≤ r.2)).map (·.1)

/-! ## Holds and invalidations (R220 to R224) -/

/-- Record that an agent uses a translation; it holds it once, at the epoch of its first use. -/
def addHold (h : Holder) (t : Target) (b : Blk) : Blk :=
  if b.xlt.holds.any fun x => x.holder == h && x.target == t then b
  else b.xltU fun x => { x with holds := x.holds ++ [{ holder := h, target := t, epoch := x.epoch }] }

/-- The targets that the pieces of an access use. -/
def segTargets (slice : Nat) (segs : List Seg) : List Target :=
  segs.map fun s => match s.dest with
    | .here _ t => t
    | .away _ t => t
    | .host _ page => .page slice (page * 4096)

/-- Hold the translations of a planned access. -/
def holdSegs (h : Holder) (slice : Nat) (segs : List Seg) (b : Blk) : Blk :=
  (segTargets slice segs).foldl (fun b t => addHold h t b) b

/-- The cores of a partition: cores 3k to 3k+2 of each cluster k (Table 03.5). -/
def partCores (b : Blk) (p : Nat) : List Nat :=
  match b.partitions.get? p with
  | none => []
  | some e => (List.range 192).filter fun c => e.mask.getLsbD (c / 3)

/-- The partition of a slice. -/
def slicePart (b : Blk) (s : Nat) : Nat := ((b.slices.get? s).map (·.part)).getD 64

/-- A hold is affected by an invalidation: its target at an epoch at or below the one the invalidation rose from (R222). -/
def affected (v : Inval) (h : Hold) : Bool := v.targets.contains h.target && decide (h.epoch ≤ v.epoch)

/-- Nothing holds an invalidation up. -/
def invalClear (b : Blk) (v : Inval) : Bool := v.cores.isEmpty && b.xlt.holds.all fun h => !affected v h

/-- Remove the ranges that an invalidation cleared; their pages return to the pool (R123, R222 step 4). -/
def dropRanges (v : Inval) (b : Blk) : Blk :=
  v.targets.foldl (fun b t => match t with
    | .range s i => match (rangesOf b s).get? i with
      | some r => if r.valid then b else setRange s i none b
      | none => b
    | _ => b) b

/-- What the completion of an invalidation does (R222 step 4). -/
def invalDone (v : Inval) (b : Blk) : Blk :=
  let b := b.xltU fun x => { x with invals := x.invals.filter (· ≠ v) }
  match v.why with
  | .free i => endItem i okResult (dropRanges v b)
  | .freeGone => dropRanges v b
  | .unmapPeer _ _ => (dropRanges v b).xltU fun x => { x with xbusy := false, xresult := 0, xresultId := 0 }
  | .invalSlice => b.xltU fun x => { x with xbusy := false, xresult := 0, xresultId := 0 }
  | .hostRequest fn itag =>
    (b.hluU fun h => { h with invalRequests := h.invalRequests - 1 }).emit (.invalComplete fn itag)
  | .teardown _ => dropRanges v b
  | .model _ => b
  | .drain _ => dropRanges v b

/-- Complete every invalidation that nothing holds up. -/
def settleInvals (b : Blk) : Blk := b.xlt.invals.foldl (fun b v => if invalClear b v then invalDone v b else b) b

/-- Start an invalidation (R222 steps 1 and 2): the epoch rises; ranges lose VALID unless only cached copies go; range-cache
entries, host entries and core window entries of the targets are invalid; shootdowns go to the partition's cores. -/
def startInval (slice : Nat) (targets : List Target) (keepRanges : Bool) (why : InvalFor) (b : Blk) : Blk :=
  let e := b.xlt.epoch
  let idx := targets.filterMap fun t => match t with
    | .range _ i => some i
    | _ => none
  let models := targets.any fun t => match t with
    | .model _ => true
    | _ => false
  let cores := if idx.isEmpty ∧ models = false then [] else partCores b (slicePart b slice)
  let b := if keepRanges then b else idx.foldl (fun b i => match (rangesOf b slice).get? i with
    | some r => setRange slice i (some { r with valid := false }) b
    | none => b) b
  let pages := targets.filterMap fun t => match t with
    | .page s h => some (s, h)
    | _ => none
  let b := b.xltU fun x => { x with
    epoch := e + 1
    rangeCache := x.rangeCache.filter fun c => !(c.1 == slice && idx.contains c.2.1)
    hostCache := x.hostCache.filter fun c => !pages.contains (c.slice, c.hva)
    invals := x.invals ++ [{ epoch := e, startFt := b.ft, slice := slice, targets := targets, cores := cores, why := why }] }
  let one : Option Nat := match idx with
    | [i] => if models then none else some i
    | _ => none
  let b := cores.foldl (fun b c => b.emit (.shootdown c slice one)) b
  settleInvals b

/-- A holder lets go of every hold of its own; invalidations that waited for it go on. -/
def dropHolds (h : Holder) (b : Blk) : Blk :=
  if b.xlt.holds.any fun x => x.holder == h then
    settleInvals (b.xltU fun x => { x with holds := x.holds.filter fun y => y.holder != h })
  else b

end Sys2Proof.Machine
end

