-- ==== Sys2Proof/Machine/SchOps.lean ====
section
/-! DEFINITION. Operations of SCH: which cores are free, placement order, stops, save areas, how launches end (R245 to R269,
R504). -/

namespace Sys2Proof.Machine

/-! ## Save areas (R261, R262) -/

/-- LWA_KIB in bytes (Table 07.8). -/
def lwaBytes (b : Blk) : Nat := b.sch.lwa * 262144
/-- Where the LWA of a core lies: the top of its bank of local scratchpad (R244). -/
def lwaBase (b : Blk) (c : Nat) : Nat := mkPa b 1 (c * 4194304 + (64 - 4 * b.sch.lwa) * 65536)
/-- The bytes of one record. -/
def recordBytes (b : Blk) : Nat := 266240 + lwaBytes b
/-- The least size of a save area for a partition (R261). -/
def saveAreaBytes (b : Blk) (p : Nat) : Nat := 4096 + (partCores b p).length * recordBytes b
/-- The DVA of record `p` of a context's save area. -/
def recordDva (b : Blk) (e : Context) (p : Nat) : Nat := e.saveArea + 4096 + p * recordBytes b

/-- Write the header of a context's save area (Table 07.6). -/
def syncSaveArea (c : Nat) (b : Blk) : Blk :=
  match b.contexts.get? c with
  | none => b
  | some e =>
    let groups := e.records.foldl (fun n r => n + r.2.groups.length) 0
    let at' := e.records.foldl (fun n r => max n r.2.savedAt) 0
    let states := (List.range 192).map fun p => match e.records.get? p with
      | some r => BitVec.ofNat 8 r.recState
      | none => 0
    let b := ctlWriteLater e.slice c e.saveArea
      (leBytes 2 c ++ leBytes 2 e.records.length ++ leBytes 4 groups ++ leBytes 8 at' ++ leBytes 1 (if e.held then 1 else 0)) b
    ctlWriteLater e.slice c (e.saveArea + 0x100) states b

/-! ## Cores (R245, R247) -/

/-- What the work groups of a core use of it. -/
def usedBy (f : WorkGroup → Nat) (k : Core) : Nat := k.groups.foldl (fun n g => n + f g) 0

/-- The launches with a work group on a core. -/
def launchesOn (k : Core) : List Nat := (k.groups.map (·.launch)).dedup

/-- A core is free for work groups of a launch of a context that need this much (R245). -/
def coreFreeFor (b : Blk) (c ctx launch lgs regs lwa : Nat) : Bool :=
  let k := b.core c
  !k.out && !k.faultLine && k.stop.isNone && k.restoring.isNone &&
  (k.groups.isEmpty || k.ctx == some ctx) &&
  ((launchesOn k).contains launch || decide ((launchesOn k).length < 8)) &&
  decide (usedBy (·.lgs) k + lgs ≤ 64) && decide (usedBy (·.regs) k + regs ≤ 262144) && decide (usedBy (·.lwa) k + lwa ≤ lwaBytes b)

/-- The lowest-numbered free core for the next work group of a launch, within MAX_CORES (R249). -/
def coreFor (b : Blk) (id : Nat) (l : Launch) : Option Nat :=
  (partCores b l.part).find? fun c =>
    coreFreeFor b c l.ctx id l.lgs l.regs l.lwa && (l.used.contains c || decide (l.used.length < l.maxCores))

/-- Work groups of a launch. -/
def Launch.total (l : Launch) : Nat := l.gx * l.gy * l.gz
/-- The launch still has work groups to place. -/
def Launch.unplaced (l : Launch) : Bool := decide (l.next < l.total) && l.stop.isNone
/-- HOLD keeps the LAUNCH items of a context from placing (R267). -/
def ctxHeld (b : Blk) (c : Nat) : Bool := (b.contexts.get? c).any (·.held)

/-- A launch waits for cores in the partition. -/
def launchWaits (b : Blk) (p : Nat) (l : Launch) : Bool :=
  l.part == p && l.unplaced && (match l.owner with
    | .item _ => !ctxHeld b l.ctx && !pastDeadline b.ft l.deadline
    | .op _ _ => true)

/-- A thing to place: a launch, or a record of a context. -/
inductive Placing where
  | launch (id : Nat)
  | record (ctx pos : Nat)
deriving DecidableEq, Repr

/-- The launches of a partition that satisfy a test, by a measure. -/
def launchesBy (b : Blk) (p : Nat) (test : Launch → Bool) (f : Launch → Nat) : List Placing :=
  (sortOn (fun e => f e.2) (b.sch.launches.filter fun e => launchWaits b p e.2 && test e.2)).map fun e => .launch e.1

/-- Whether a launch comes from a step program. -/
def Launch.isOp (l : Launch) : Bool := match l.owner with
  | .op _ _ => true
  | .item _ => false

/-- A deadline as a measure: none is last. -/
def deadlineKey : Option Nat → Nat
  | some d => d
  | none => 2 ^ 64

/-- The saved records of a partition, oldest save first; held contexts restore nothing (R250, R267). -/
def recordsBy (b : Blk) (p : Nat) : List Placing :=
  let all := (b.contexts.map fun e =>
    if slicePart b e.2.slice = p ∧ e.2.held = false ∧ e.2.state ≠ .destroying then
      (e.2.records.filter fun r => r.2.recState == 1 || r.2.recState == 2).map fun r => (r.2.order, Placing.record e.1 r.1)
    else []).flatten
  (sortOn (·.1) all).map (·.2)

/-- What waits for cores in a partition, in the service order of R250. -/
def placeOrder (b : Blk) (p : Nat) : List Placing :=
  launchesBy b p (·.isOp) (·.order) ++
  launchesBy b p (fun l => !l.isOp && l.cls == 7) (fun l => deadlineKey l.deadline) ++
  recordsBy b p ++
  launchesBy b p (fun l => !l.isOp && l.cls != 7) (·.order)

/-- The core a waiting thing can take now. -/
def coreForPlacing (b : Blk) (p : Nat) : Placing → Option Nat
  | .launch id => (b.sch.launches.get? id).bind fun l => coreFor b id l
  | .record c pos => match b.contexts.get? c with
    | none => none
    | some e => (e.records.get? pos).bind fun r =>
      let sum (f : WorkGroup → Nat) : Nat := r.groups.foldl (fun n g => n + f g) 0
      (partCores b p).find? fun k => (b.core k).groups.isEmpty && coreFreeFor b k c 0 (sum (·.lgs)) (sum (·.regs)) (sum (·.lwa))

/-- The first thing in service order that can be placed, with its core. -/
def nextPlacing (b : Blk) (p : Nat) : Option (Placing × Nat) :=
  (placeOrder b p).findSome? fun x => (coreForPlacing b p x).map fun c => (x, c)

/-! ## Dispatch words (Table 07.2, R251) -/

/-- The lowest-numbered dispatch port in service. -/
def upPort (b : Blk) : Option Nat := (List.range 4).find? fun p => b.sch.portsUp.getLsbD p

/-- Send a word on a port: cache maintenance goes to every core of its mask. -/
def emitWord (p core : Nat) (w : BitVec 256) (b : Blk) : Blk :=
  b.emit (if w.toNat / 2 ^ 252 = 0 then .dispatch p core w else .maintenance p w)

/-- Issue a dispatch word to a core. -/
def issueWord (core : Nat) (word : Nat) (b : Blk) : Blk :=
  match upPort b with
  | none => b
  | some p =>
    let w : BitVec 256 := BitVec.ofNat 256 word
    emitWord p core w (b.schU fun s => { s with
      issued := s.issued.bump
      words := (s.words.filter fun x => decide (b.ft ≤ x.atFt + 80)) ++ [{ port := p, core := core, atFt := b.ft, word := w }] })

/-- The dispatch word of work group `n` of a launch. -/
def launchWord (b : Blk) (l : Launch) (n : Nat) : Nat :=
  burgee l.slice l.ctx l.cls (deadlineField b.ft l.deadline) l.scope + l.descPa % 2 ^ 58 * 2 ^ 64 + l.args % 2 ^ 57 * 2 ^ 122 +
  n % l.gx * 2 ^ 179 + n / l.gx % l.gy * 2 ^ 211 + n / (l.gx * l.gy) * 2 ^ 227

/-! ## Stops (R254 to R258) -/

/-- The grace of a core: the largest among the launches it hosts (R256). -/
def coreGrace (b : Blk) (k : Core) : Nat :=
  (launchesOn k).foldl (fun g l => max g (((b.sch.launches.get? l).map (·.graceNs)).getD 10000)) 0

/-- A further stop of a core that is already stopping. A discard of all overrides a save in progress; a save stop that meets the
discard of one launch saves the others; the discard of one launch changes nothing, since a stopped launch is never kept. -/
def joinStop (save : Bool) (only : Option Nat) (st : CoreStop) : CoreStop :=
  if save then (if st.only.isSome then { st with save := true, only := none } else st)
  else match only with
    | none => { st with save := false, only := none }
    | some _ => st

/-- Raise the pre-empt request of a core for a save stop or a discard stop. -/
def stopCore (c : Nat) (save : Bool) (only : Option Nat) (b : Blk) : Blk :=
  let k := b.core c
  if k.groups.isEmpty then b
  else match k.stop with
    | some st => b.updCore c fun k => { k with stop := some (joinStop save only st) }
    | none =>
      (b.updCore c fun k => { k with
        stop := some { save := save, only := only, raisedFt := b.ft, graceFt := b.ft + coreGrace b k } }).emit (.preemptLine c true)

/-- The work groups whose launches go on. -/
def liveGroups (b : Blk) (gs : List WorkGroup) : List WorkGroup :=
  gs.filter fun g => (b.sch.launches.get? g.launch).any fun l => l.stop.isNone

/-- The cores that host a work group of a launch. -/
def coresOf (b : Blk) (id : Nat) : List Nat :=
  (b.sch.cores.filter fun e => e.2.groups.any fun g => g.launch == id).map (·.1)

/-- A launch has saved work groups. -/
def launchSaved (b : Blk) (id : Nat) : Bool :=
  b.contexts.any fun e => e.2.records.any fun r => r.2.groups.any fun g => g.launch == id

/-- A launch is over: its item ends, or its operation is known to have failed (R85, R274). -/
def finishLaunch (id : Nat) (l : Launch) (r : Result) (b : Blk) : Blk :=
  let b := b.schU fun s => { s with launches := s.launches.del id }
  match l.owner with
  | .item i => endItem i r b
  | .op run op => if r.status = 0 then b else
      b.marU fun m => { m with runs := m.runs.upd run fun x => { x with opFail := x.opFail.set op r } }

/-- End a launch whose work groups have all ended, or that is stopped and has none running (R85, R268). -/
def checkLaunch (id : Nat) (b : Blk) : Blk :=
  match b.sch.launches.get? id with
  | none => b
  | some l =>
    let writesOut := b.lmf.outstanding.any fun r => match r.why with
      | .coreWrite _ x => x == id
      | _ => false
    if (coresOf b id).isEmpty ∧ writesOut = false then
      match l.stop with
      | some r => finishLaunch id l r b
      | none => if l.total ≤ l.ended ∧ launchSaved b id = false then finishLaunch id l okResult b else b
    else b

/-- Check every launch. -/
def settleLaunches (b : Blk) : Blk := b.sch.launches.foldl (fun b e => checkLaunch e.1 b) b

/-- The bytes of a record at a DVA, where the record is in this chip's memory or its host window. -/
def recordField (b : Blk) (slice dva n : Nat) : Option Bytes :=
  match planSpan b slice dva n false with
  | .ok [s] => match s.dest with
    | .here k _ => some (loadLocal b k n)
    | .host hpa _ => some (memRead b.mem (2 * 2 ^ 46 + hpa) n)
    | .away _ _ => none
  | _ => none

/-- The LAUNCH entry names this launch: a LAUNCH item by its TAG and SQ, a step-program launch by its run slot and operation
(Table 07.7). -/
def isLaunchEntry (b : Blk) (o : LaunchOwner) (bs : Bytes) : Bool :=
  match o with
  | .item i => (b.items.get? i).any fun it =>
      field bs 7 1 == 0 && field bs 0 4 == it.tag && field bs 4 2 % 512 == it.sq && field bs 8 8 != 0
  | .op run op => field bs 7 1 == 1 && field bs 0x18 4 == run + op * 65536

/-- Zero the LAUNCH entry of a launch in a record that keeps other launches (R268). -/
def clearLaunchEntry (c pos : Nat) (o : LaunchOwner) (b : Blk) : Blk :=
  match b.contexts.get? c with
  | none => b
  | some e =>
    (List.range 8).foldl (fun b j =>
      let dva := recordDva b e pos + 0xD00 + 32 * j
      match recordField b e.slice dva 32 with
      | some bs => if isLaunchEntry b o bs then ctlWriteLater e.slice c dva (List.replicate 32 0) b else b
      | none => b) b

/-- Discard the saved work groups of a launch: a record left empty is freed (R268). -/
def dropSaved (id : Nat) (b : Blk) : Blk :=
  b.contexts.foldl (fun b e =>
    if e.2.records.any fun r => r.2.groups.any fun g => g.launch == id then
      let shared := e.2.records.filter fun r => (r.2.groups.any fun g => g.launch == id) && r.2.groups.any fun g => g.launch != id
      let b := match b.sch.launches.get? id with
        | some l => shared.foldl (fun b (r : Nat × SaveRec) => clearLaunchEntry e.1 r.1 l.owner b) b
        | none => b
      let recs := (e.2.records.mapVals fun _ r => { r with groups := r.groups.filter fun g => g.launch != id }).keep
        fun _ r => !r.groups.isEmpty
      syncSaveArea e.1 (b.updContext e.1 fun x => { x with records := recs })
    else b) b

/-- A launch ends early with a result: saved work groups are discarded, running ones stopped by discard stops, and it ends
once the last has stopped (R268, R254). -/
def stopLaunch (id : Nat) (r : Result) (b : Blk) : Blk :=
  let b := dropSaved id b
  let b := b.schU fun s => { s with launches := s.launches.upd id fun l => { l with stop := some (l.stop.getD r) } }
  let b := (coresOf b id).foldl (fun b c => stopCore c false (some id) b) b
  checkLaunch id b

/-- The launches of an owner. -/
def launchesOf (b : Blk) (o : LaunchOwner) : List Nat := (b.sch.launches.filter fun e => e.2.owner == o).map (·.1)

/-- Every save record of a context is discarded unread (R268). -/
def dropRecords (c : Nat) (b : Blk) : Blk :=
  match b.contexts.get? c with
  | some e => if e.records.isEmpty then b else syncSaveArea c (b.updContext c fun x => { x with records := [] })
  | none => b

/-- Drop the descriptors of the cache that an invalidation concerns: all of them lose their epoch (R248). -/
def dropDescs (b : Blk) : Blk := b.schU fun s => { s with descCache := [] }

end Sys2Proof.Machine
end

