-- ==== Sys2Proof/Machine/TreOps.lean ====
section
/-! DEFINITION. Operations of the transfer and reduce engines on single-engine work: home engines, the intake, memory chunks,
and how work ends (R304 to R312, R502). -/

namespace Sys2Proof.Machine

/-! ## Engines and work -/

/-- Change one piece of work. -/
def Blk.updWork (b : Blk) (w : Nat) (f : Work → Work) : Blk := b.treU fun t => { t with works := t.works.upd w f }

/-- Single-engine items that an engine runs. -/
def engItems (b : Blk) (n : Nat) : Nat := b.tre.works.count fun _ w => w.engine == some n

/-- Bytes queued on an engine: destination bytes not yet written of its single-engine work, and wire bytes not yet accepted of
the collective chunks it handles (R304). -/
def bytesQueued (b : Blk) (n : Nat) : Nat :=
  b.tre.works.foldl (fun s e => if e.2.engine = some n then s + (e.2.total - e.2.next) else s) 0 +
  b.tre.colls.foldl (fun s e => s + collQueued e.2 n) 0

/-- The engine that takes work next: in service, below 16 items, fewest bytes queued, then lowest number (R304). -/
def pickEngine (b : Blk) : Option Nat :=
  ((List.range 32).foldl (fun (best : Option (Nat × Nat)) n =>
    if b.tre.up.getLsbD n ∧ engItems b n < 16 then
      match best with
      | none => some (n, bytesQueued b n)
      | some (m, q) => if bytesQueued b n < q then some (n, bytesQueued b n) else some (m, q)
    else best) none).map (·.1)

/-- A new piece of work joins the TRE intake queue (R304). -/
def addWork (owner : WorkOwner) (kind : WorkKind) (slice ctx cls : Nat) (deadline : Option Nat) (total : Nat) (b : Blk) : Blk :=
  let w : Work := { owner := owner, kind := kind, slice := slice, ctx := ctx, cls := cls, deadline := deadline,
                    order := b.tre.order, total := total }
  b.treU fun t => { t with
    works := t.works.set t.workNext w
    intake := t.intake ++ [t.workNext]
    workNext := t.workNext + 1
    order := t.order + 1 }

/-- The intake's service order: work moved from a failed engine first within its class, then class 7 earliest deadline first,
then the order of starts (R304, R306). -/
def intakeNext (b : Blk) : Option Nat :=
  let key (e : Nat × Work) : Nat :=
    (if e.2.cls = 7 then deadlineKey e.2.deadline else 2 ^ 66) * 2 ^ 65 + (if e.2.replay then 0 else 2 ^ 64) + e.2.order
  (sortOn key (b.tre.works.filter fun e => b.tre.intake.contains e.1)).head?.map (·.1)

/-- The DVA or physical address of the destination at position `n` of the work, and how many bytes follow there without a
break. -/
def destAt (b : Blk) (w : Work) (n : Nat) : Nat × Nat :=
  match w.kind with
  | .copy _ dst rowBytes _ _ dstPitch => (dst + n / rowBytes * dstPitch + n % rowBytes, rowBytes - n % rowBytes)
  | .fill pa len => (match w.owner with
    | .lwaFill p =>
      -- the LWA of each core of the mask in turn (R423); the first core's where the partition is gone
      let size := lwaBytes b
      (((partCores b p)[n / size]?.map fun c => lwaBase b c).getD pa + n % size, size - n % size)
    | _ => (pa + n, len - n))
  | .reduce _ _ dst count _ _ dstFmt _ => (dst + n, count * memSize dstFmt - n)
  | .kvmove _ dst blockBytes _ _ _ _ => (dst, blockBytes - n % blockBytes)
  | .load _ _ len => (match w.owner with
    | .load m => match (b.mdl.models.get? m).bind fun x => x.pieces[n / 65536]? with
      | some (bank, row) => (mkPa b 1 (bank * 4194304 + row * 65536 + n % 65536), min (len - n) (65536 - n % 65536))
      | none => (0, 0)
    | .repair m piece => match (b.mdl.models.get? m).bind fun x => x.pieces[piece]? with
      | some (bank, row) => (mkPa b 1 (bank * 4194304 + row * 65536 + n), 65536 - n)
      | none => (0, 0)
    | _ => (0, 0))
  | .flush addr len _ => (addr + n, len - n)

/-- The scope of the requests of a piece of work. -/
def workScope (b : Blk) (w : Work) : Nat :=
  match w.owner with
  | .item i => ((b.items.get? i).map Item.scope).getD 3
  | .op run _ => ((b.mar.runs.get? run).map (·.scope)).getD 3
  | _ => 3

/-- The remote timeout of a piece of work (R74). -/
def workLimit (b : Blk) (w : Work) : Nat :=
  match w.owner with
  | .item i => ((b.items.get? i).map fun it => it.timeoutNs b.lmf.txnTimeoutUs).getD (txnNs b)
  | _ => txnNs b

/-- What the writes of a piece of work are tracked as: the item's, or the work's own. -/
def workReq (id : Nat) (w : Work) : ReqFor :=
  match w.owner with
  | .item i => .itemWrite i
  | _ => .workWrite id

/-- The item whose host stores these are. -/
def workItem (w : Work) : Option Nat :=
  match w.owner with
  | .item i => some i
  | _ => none

/-- Who holds the translations of a piece of work (Table 06.4): MDL for loads and repairs, the engine's item else. -/
def workHolder (id : Nat) (w : Work) : Holder :=
  match w.owner with
  | .load _ => .mdl id
  | .repair _ _ => .mdl id
  | _ => .tre id

/-- Read bytes at a DVA for a piece of work, holding the translations (Table 06.4). -/
def workRead (id : Nat) (w : Work) (dva len : Nat) (b : Blk) : RRes :=
  match planSpan b w.slice dva len false with
  | .error e => .stop e
  | .ok segs => getSegs w.slice w.ctx w.cls (workScope b w) w.deadline w.rbuf (.work id) (.workRead id) (workLimit b w) segs []
      (holdSegs (workHolder id w) w.slice segs (touchSegs w.slice segs b))

/-- Write bytes at a DVA for a piece of work. -/
def workWrite (id : Nat) (w : Work) (dva : Nat) (bs : Bytes) (b : Blk) : WRes :=
  match planSpan b w.slice dva bs.length true with
  | .error e => .stop e
  | .ok segs =>
    match putSegs w.slice w.ctx w.cls (workScope b w) w.deadline (workItem w) (workReq id w) (workLimit b w) segs bs
        (holdSegs (workHolder id w) w.slice segs (touchSegs w.slice segs b)) with
    | some b => .done b
    | none => .refused dva

/-! ## How work ends -/

/-- Work leaves its engine and the tables; what it held is let go. -/
def dropWork (id : Nat) (b : Blk) : Blk :=
  let b := b.treU fun t => { t with works := t.works.del id, intake := t.intake.filter (· ≠ id) }
  let b := b.xltU fun x => { x with atsWaits := x.atsWaits.filter fun w => w.stream != .work id }
  dropHolds (.mdl id) (dropHolds (.tre id) b)

/-- Work that may issue nothing more: it leaves its engine, and stays only while a read of it is outstanding (R24). -/
def closeWork (id : Nat) (b : Blk) : Blk :=
  if workPending b id then
    (b.treU fun t => { t with intake := t.intake.filter (· ≠ id) }).updWork id fun w =>
      { w with engine := none, total := w.next, issuedAll := true }
  else dropWork id b

/-- Work fails with a result: its item ends, its operation fails, its load fails or its repair is stuck (R334, R290, R298). -/
def failWork (id : Nat) (r : Result) (b : Blk) : Blk :=
  match b.tre.works.get? id with
  | none => b
  | some w =>
    let b := dropWork id b
    match w.owner with
    | .item i => endItem i r b
    | .op run op => b.marU fun m => { m with runs := m.runs.upd run fun x => { x with opFail := x.opFail.set op r } }
    | .load m => b.mdlU fun d => { d with models := d.models.upd m fun x => { x with failed := some r } }
    | .repair m _ => b.mdlU fun d => { d with models := d.models.upd m fun x => { x with stuck := true } }
    | _ => b

/-- A record for a fault of work, and its end (R226). The fields of the record are those of the item the work serves. -/
def faultWork (id dva cause : Nat) (write : Bool) (r : Result) (b : Blk) : Blk :=
  match b.tre.works.get? id with
  | none => b
  | some w =>
    let it := (workItem w).bind fun i => b.items.get? i
    let f : FaultInfo := { dva := dva, ctx := w.ctx, sq := (it.map (·.sq)).getD 0, tag := (it.map Item.tag).getD 0,
                           cause := cause, write := write, source := 0x24, outcome := 0 }
    match recordFault w.slice f (workItem w) (some r) b with
    | (b, true) => failWork id r b
    | (b, false) => match workItem w with
      | some i => stallItem i .record (dropWork id b)
      | none => failWork id r b

/-- Work meets a stop: it waits for a page, a ring slot or a repair, or fails; `off` is the field of the entry (R226 to R232,
R298, Table 09.9). -/
def stopWork (id off : Nat) (write : Bool) (why : Stop) (b : Blk) : Blk :=
  match b.tre.works.get? id with
  | none => b
  | some w =>
    let stall (on : StallOn) (b : Blk) : Blk :=
      let b := b.updWork id fun w => { w with stall := some on }
      match workItem w with
      | some i => stallItem i on b
      | none => b
    match why with
    | .miss dva page => stall (.ats page) (requestAts w.slice dva write (.work id) b)
    | .ring _ => stall .dirtyRing (fire 66 noOne (BitVec.ofNat 32 w.slice) b)
    | .lost _ stuck => if stuck then failWork id ⟨0x16, 0, 0⟩ b else stall .miss b
    | .cause dva c =>
      if c = 0x07 ∧ priOn b (sliceFn b w.slice) then
        let page := dva % 2 ^ 56 / 4096
        let it := (workItem w).bind fun i => b.items.get? i
        stall (.group page) (joinBatch w.slice dva write w.ctx ((it.map (·.sq)).getD 0) ((it.map Item.tag).getD 0) 0x24 1
          (.work id) b)
      else
        let b := if c = 0x05 then pageErr pgXLT 0x0B b else b
        faultWork id dva c write (fieldResult (causeStatus c) off) b

/-- Go on with a read of a piece of work, or wait, or end it. -/
def withWorkRead (id off : Nat) (r : RRes) (b : Blk) (k : Bytes → Blk → Blk) : Blk :=
  match r with
  | .data bs b => k bs b
  | .wait b => b
  | .refused d => faultWork id d 0x06 false (fieldResult 0x11 off) b
  | .poisoned d =>
    -- a step operation that meets an error of the model store waits for its replay (R298)
    if modelBase ≤ d ∧ d < modelBase + 1024 * modelSpan ∧ ((b.tre.works.get? id).any fun w => match w.owner with
        | .op _ _ => true
        | _ => false) then b.updWork id fun w => { w with stall := some .replay }
    else failWork id (fieldResult 0x16 off) b
  | .stop w => stopWork id off false w b

/-- Go on with a write of a piece of work, or wait, or end it. -/
def withWorkWrite (id off : Nat) (r : WRes) (b : Blk) (k : Blk → Blk) : Blk :=
  match r with
  | .done b => k b
  | .refused d => faultWork id d 0x06 true (fieldResult 0x11 off) b
  | .stop w => stopWork id off true w b

/-- The work has written `n` more bytes; returned data that it used is dropped. -/
def advance (id n : Nat) (b : Blk) : Blk :=
  b.updWork id fun w => { w with next := w.next + n, rbuf := [], issuedAll := decide (w.total ≤ w.next + n) }

/-- One memory chunk of a piece of work: up to 4 KiB of destination, aligned to 4 KiB (R305). -/
def workChunk (id : Nat) (w : Work) (b : Blk) : Blk :=
  let (dva, run) := destAt b w w.next
  let n := min (min run (4096 - dva % 4096)) (w.total - w.next)
  match w.kind with
  | .copy src _ rowBytes _ srcPitch _ =>
    let s := src + w.next / rowBytes * srcPitch + w.next % rowBytes
    withWorkRead id 0x10 (workRead id w s n b) b fun bs b =>
      withWorkWrite id 0x18 (workWrite id w dva bs b) b fun b => advance id n b
  | .fill _ _ => advance id n (paWrite dva (List.replicate n 0) b)
  | .reduce srcA srcB dst _ op srcFmt dstFmt bFmt =>
    let first := w.next / memSize dstFmt
    let k := n / memSize dstFmt
    withWorkRead id 0x10 (workRead id w (srcA + first * memSize srcFmt) (k * memSize srcFmt) b) b fun as b =>
      withWorkRead id (if srcB = 0 then 0x18 else 0x28) (workRead id w ((if srcB = 0 then dst else srcB) + first * memSize bFmt) (k * memSize bFmt) b) b
        fun bs b =>
          let out := toMem dstFmt (reduceVals op (fromMem srcFmt k as) (fromMem bFmt k bs))
          withWorkWrite id 0x18 (workWrite id w dva out b) b fun b => advance id n b
  | .kvmove src dst blockBytes blocks srcIndex dstIndex listed =>
    let i := w.next / blockBytes
    let off := w.next % blockBytes
    let sAt := if listed then srcIndex + 8 + 8 * i else srcIndex + 4 * i
    let dAt := if listed then srcIndex + 12 + 8 * i else dstIndex + 4 * i
    if blocks = 0 then advance id w.total b
    else
      withWorkRead id 0x28 (workRead id w sAt 4 b) b fun si b =>
        withWorkRead id 0x30 (workRead id w dAt 4 b) b fun di b =>
          let s := (src + leNat si * blockBytes) % 2 ^ 64 + off
          let d := (dst + leNat di * blockBytes) % 2 ^ 64 + off
          let n := min (blockBytes - off) (4096 - d % 4096)
          withWorkRead id 0x10 (workRead id w s n b) b fun bs b =>
            withWorkWrite id 0x18 (workWrite id w d bs b) b fun b => advance id n b
  | .load src _ _ =>
    let at' := match w.owner with
      | .repair _ piece => src + piece * 65536 + w.next
      | _ => src + w.next
    withWorkRead id 0x18 (workRead id w at' n b) b fun bs b => advance id n (paWrite dva bs b)
  | .flush _ _ _ => advance id w.total b

/-- Some write of a piece of work is not acknowledged. -/
def workWrites (b : Blk) (id : Nat) : Bool := b.lmf.outstanding.any fun r => r.why == .workWrite id

/-- The span of `rows` rows from `base`: first byte to last (R307). -/
def rowSpan (base rowBytes rows pitch : Nat) : Nat × Nat := (base, (rows - 1) * pitch + rowBytes)

/-- Two spans of DVAs overlap. -/
def spansMeet (a b : Nat × Nat) : Bool := decide (a.1 < b.1 + b.2) && decide (b.1 < a.1 + a.2)

end Sys2Proof.Machine
end

