-- ==== Sys2Proof/Machine/CollOps.lean ====
section
/-! DEFINITION. Operations of a collective: its tasks on the engines, chunks in and out, the resend area, the staging pool,
re-runs and how it ends (R318 to R334). -/

namespace Sys2Proof.Machine

/-- Change one live collective. -/
def Blk.updColl (b : Blk) (i : Nat) (f : Coll → Coll) : Blk := b.treU fun t => { t with colls := t.colls.upd i f }

/-! ## The resend area (R332) -/

/-- Bytes that the reservations of a group hold. -/
def resvBytes (g : Group) : Nat := g.resv.foldl (fun n r => n + r.2.1) 0

/-- Reserve space for a collective; answers whether it fits. -/
def reserve (grp id n : Nat) (b : Blk) : Blk × Bool :=
  match b.tre.groups.get? grp with
  | none => (b, false)
  | some g =>
    if g.resendBytes = 0 ∨ g.resendBytes < resvBytes g + n then (b, false)
    else (b.treU fun t => { t with groups := t.groups.set grp { g with resv := g.resv ++ [(id, n, false)] } }, true)

/-- Drop the released reservations at the head of the ring. -/
def popReleased : Nat → List (Nat × Nat × Bool) → Nat × List (Nat × Nat × Bool)
  | at', [] => (at', [])
  | at', r :: rest => if r.2.2 then popReleased (at' + r.2.1) rest else (at', r :: rest)

/-- Release a reservation. -/
def release (grp id : Nat) (b : Blk) : Blk :=
  b.treU fun t => { t with groups := t.groups.upd grp fun g =>
    let marked := g.resv.map fun r => if r.1 = id then (r.1, r.2.1, true) else r
    let p := popReleased g.start marked
    { g with start := if g.resendBytes = 0 then 0 else p.1 % g.resendBytes, resv := p.2 } }

/-- Where the reservation of a collective begins in the area. -/
def resvStart (g : Group) (id : Nat) : Nat := g.start + (g.resv.takeWhile fun r => r.1 != id).foldl (fun n r => n + r.2.1) 0

/-- Write bytes into the area at a ring position, under slice 0. -/
def areaWrite (g : Group) (pos : Nat) (bs : Bytes) (b : Blk) : Blk :=
  let at' := pos % max 1 g.resendBytes
  let room := g.resendBytes - at'
  let put (off : Nat) (bs : Bytes) (b : Blk) : Blk :=
    let k := paKey (g.resendBase + off)
    if admits b .swedikin 0 true k bs.length then storeLocal k bs b else b
  put 0 (bs.drop room) (put at' (bs.take room) b)

/-- Keep a sent chunk: its record, and its bytes in the area unless the collective runs with NOKEEP. -/
def keepSent (id : Nat) (x : SentChunk) (b : Blk) : Blk :=
  match b.tre.colls.get? id with
  | none => b
  | some c =>
    if c.nokeep then b
    else
      let before := c.sent.foldl (fun n s => n + s.bytes.length) 0
      let b := match b.tre.groups.get? c.group with
        | some g => areaWrite g (resvStart g id + before) x.bytes b
        | none => b
      b.updColl id fun c => { c with sent := c.sent ++ [x] }

/-! ## Chunks on the fabric (R327, R329) -/

/-- The 16 header bytes of a chunk of this member (Table 09.8). -/
def chunkHeader (c : Coll) (piece chunk : Nat) (gather poison resent rreq : Bool) : Bytes :=
  leBytes 2 c.group ++ leBytes 2 c.rank ++ leBytes 4 c.key ++ leBytes 4 chunk ++ leBytes 2 piece ++
  leBytes 1 (c.wireFmt + c.kind * 16) ++
  leBytes 1 ((if c.kcoll then 1 else 0) + (if poison then 2 else 0) + (if resent then 4 else 0) + (if gather then 8 else 0) +
    c.op * 16 + if rreq then 64 else 0)

/-- Hand one chunk to Lemdy for a rank. -/
def sendChunk (c : Coll) (x : SentChunk) (resent : Bool) (rank : Nat) (b : Blk) : Blk :=
  sendPkt { typ := 0x20, vc := 2, resent := false, classB := false, ttl := 15, dest := c.members.getD rank 0, src := b.chip,
            txn := 0, spec := chunkHeader c x.id.piece x.id.chunk x.id.gather x.poison resent false, payload := x.bytes,
            rsvd := true }
    (if resent then b.treU fun t => { t with resends := t.resends.bump } else b)

/-- Keep a chunk and send it to its ranks. -/
def outChunk (id : Nat) (c : Coll) (x : SentChunk) (b : Blk) : Blk :=
  x.dests.foldl (fun b r => sendChunk c x false r b) (keepSent id x b)

/-! ## How a collective ends (R334) -/

/-- The collective leaves the engines; late chunks of it are known (R328). A KCOLL is kept for resends. -/
def closeColl (id : Nat) (c : Coll) (b : Blk) : Blk :=
  let b := b.treU fun t => { t with ended := t.ended ++ [(c.group, c.key, c.kcoll)] }
  let b := b.xltU fun x => { x with atsWaits := x.atsWaits.filter fun w => w.stream != .coll id }
  let b := dropHolds (.coll id) b
  if c.kcoll then b.updColl id fun c => { c with ended := true, todo := [], timers := [] }
  else release c.group id (b.treU fun t => { t with colls := t.colls.del id })

/-- A collective ends at once with a failure. -/
def failColl (id : Nat) (r : Result) (b : Blk) : Blk :=
  match b.tre.colls.get? id with
  | none => b
  | some c =>
    if c.ended then b
    else
      let b := closeColl id c b
      match c.owner with
      | .item i => endItem i r b
      | .op run op => b.marU fun m => { m with runs := m.runs.upd run fun x => { x with opFail := x.opFail.set op r } }
      | _ => b

/-- A collective that has done every task and accepted every chunk ends; a poisoned one fails only now (R331). -/
def checkColl (id : Nat) (b : Blk) : Blk :=
  match b.tre.colls.get? id with
  | none => b
  | some c =>
    if c.ended = false ∧ c.todo.isEmpty ∧ c.expect.all fun e => c.accepted.contains e.1 then
      match c.owner, c.fail with
      | .item i, r => endItem i (r.getD okResult) (closeColl id c b)
      | _, some r => failColl id r b
      | _, none => closeColl id c b
    else b

/-- A record for a fault of a collective, and its end (R226). -/
def faultColl (id dva cause : Nat) (write : Bool) (r : Result) (b : Blk) : Blk :=
  match b.tre.colls.get? id with
  | none => b
  | some c =>
    let item := match c.owner with
      | .item i => some i
      | _ => none
    let it := item.bind fun i => b.items.get? i
    let f : FaultInfo := { dva := dva, ctx := c.ctx, sq := (it.map (·.sq)).getD 0, tag := (it.map Item.tag).getD 0,
                           cause := cause, write := write, source := 0x24, outcome := 0 }
    match recordFault c.slice f item (some r) b with
    | (b, true) => failColl id r b
    | (b, false) => match item with
      | some i => stallItem i .record (closeColl id c b)
      | none => failColl id r b

/-- A collective meets a stop (R226 to R232, R298). -/
def stopColl (id off : Nat) (write : Bool) (why : Stop) (b : Blk) : Blk :=
  match b.tre.colls.get? id with
  | none => b
  | some c =>
    let item := match c.owner with
      | .item i => some i
      | _ => none
    let stall (on : StallOn) (b : Blk) : Blk :=
      let b := b.updColl id fun c => { c with stall := some on }
      match item with
      | some i => stallItem i on b
      | none => b
    match why with
    | .miss dva page => stall (.ats page) (requestAts c.slice dva write (.coll id) b)
    | .ring _ => stall .dirtyRing (fire 66 noOne (BitVec.ofNat 32 c.slice) b)
    | .lost _ stuck => if stuck then failColl id (fieldResult 0x16 off) b else stall .miss b
    | .cause dva k =>
      if k = 0x07 ∧ priOn b (sliceFn b c.slice) then
        let page := dva % 2 ^ 56 / 4096
        let it := item.bind fun i => b.items.get? i
        stall (.group page) (joinBatch c.slice dva write c.ctx ((it.map (·.sq)).getD 0) ((it.map Item.tag).getD 0) 0x24 1
          (.coll id) b)
      else
        let b := if k = 0x05 then pageErr pgXLT 0x0B b else b
        faultColl id dva k write (fieldResult (causeStatus k) off) b

/-! ## Memory accesses of a collective -/

/-- The remote timeout of a collective's memory accesses. -/
def collLimit (b : Blk) (_c : Coll) : Nat := txnNs b

/-- Read a chunk of SRC. -/
def collRead (id : Nat) (c : Coll) (p k : Nat) (b : Blk) : RRes :=
  let dva := c.src + ((pieceElems c p).1 + k * 1024) * memSize c.memFmt
  match planSpan b c.slice dva (chunkElems c p k * memSize c.memFmt) false with
  | .error e => .stop e
  | .ok segs => getSegs c.slice c.ctx c.cls c.scope c.deadline c.rbuf (.coll id) (.collRead id) (collLimit b c) segs []
      (holdSegs (.coll id) c.slice segs (touchSegs c.slice segs b))

/-- Write bytes at an element of DST. -/
def collWrite (id : Nat) (c : Coll) (elem : Nat) (bs : Bytes) (b : Blk) : WRes :=
  match planSpan b c.slice (c.dst + elem * memSize c.memFmt) bs.length true with
  | .error e => .stop e
  | .ok segs =>
    let item := match c.owner with
      | .item i => some i
      | _ => none
    let why : ReqFor := match c.owner with
      | .item i => .itemWrite i
      | _ => .collWrite id
    match putSegs c.slice c.ctx c.cls c.scope c.deadline item why (collLimit b c) segs bs
        (holdSegs (.coll id) c.slice segs (touchSegs c.slice segs b)) with
    | some b => .done b
    | none => .refused (c.dst + elem * memSize c.memFmt)

/-- A read of the collective has not returned. -/
def collPending (b : Blk) (id : Nat) : Bool :=
  (b.lmf.outstanding.any fun r => match r.why with | .collRead j _ _ => j == id | _ => false) ||
  (b.hlu.reads.any fun r => match r.why with | .coll j _ _ => j == id | _ => false)

/-! ## Tasks (R323, R324, R326, R331) -/

/-- Chip of a rank. -/
def Coll.chipOf (c : Coll) (rank : Nat) : Nat := c.members.getD rank 0

/-- Note the first failure of a collective that still has chunks to send (R331). -/
def noteFail (id : Nat) (r : Result) (b : Blk) : Blk := b.updColl id fun c => { c with fail := some (c.fail.getD r) }

/-- The first task of an engine is done; what follows it comes next. -/
def doneTask (id : Nat) (t : CollTask) (next : List CollTask) (b : Blk) : Blk :=
  b.updColl id fun c => { c with todo := next ++ c.todo.erase t, rbuf := [] }

/-- Write a reduced or received chunk to DST in MEM_FMT. -/
def putTask (c : Coll) (p k elem : Nat) (vals : List F32) : CollTask := .put p k elem (toMem c.memFmt vals)

/-- The result of a reduction of chunk `k` of this member's piece: DST for a reduce-scatter, G for an all-reduce (R324). -/
def finalChunk (id : Nat) (c : Coll) (k : Nat) (vals : List F32) (poison : Bool) (b : Blk) : Blk × List CollTask :=
  if c.kind = 1 then (b, if poison then [] else [putTask c c.rank k (k * 1024) vals])
  else
    let wire := if poison then List.replicate (chunkBytes c c.rank k) 0 else quantize c.wireFmt vals
    let b := outChunk id c { id := ⟨c.rank, c.rank, k, true⟩, dests := if c.isRing then [c.succ] else c.peers, bytes := wire,
                             poison := poison } b
    (b, if poison then [] else
      [putTask c c.rank k ((pieceElems c c.rank).1 + k * 1024) (dequantize c.wireFmt vals.length wire)])

/-- A read of SRC for a task: go on with its values, none when they are uncorrectable; or wait or end (R331). -/
def withSrc (id : Nat) (c : Coll) (p k : Nat) (b : Blk) (go : Option (List F32) → Blk → Blk) : Blk :=
  if chunkElems c p k = 0 then go (some []) b
  else match collRead id c p k b with
    | .data bs b => go (some (fromMem c.memFmt (chunkElems c p k) bs)) b
    | .wait b => b
    | .poisoned _ => go none (noteFail id (fieldResult 0x16 0x10) b)
    | .refused d => faultColl id d 0x06 false (fieldResult 0x11 0x10) b
    | .stop w => stopColl id 0x10 false w b

/-- A chunk of SRC read at the start: kept or accumulated, sent, and written where this member's own DST takes it. -/
def runSend (id : Nat) (c : Coll) (t : CollTask) (p k : Nat) (b : Blk) : Blk :=
  withSrc id c p k b fun vals b =>
    let poison := vals.isNone
    let wire := match vals with
      | some vs => quantize c.wireFmt vs
      | none => List.replicate (chunkBytes c p k) 0
    let back := dequantize c.wireFmt (chunkElems c p k) wire
    let x : SentChunk := { id := ⟨c.rank, p, k, false⟩, dests := firstDests c p, bytes := wire, poison := poison }
    if c.kind < 2 ∧ p = c.rank then
      let b := keepSent id x b
      let b := if c.isRing then b else b.updColl id fun c => { c with
        accs := c.accs ++ [{ chunk := k, vals := back, from' := [], poison := poison }] }
      doneTask id t [] b
    else
      let b := if x.dests.isEmpty then b else outChunk id c x b
      let mine := (c.kind = 2 ∧ p = c.rank) ∨ (c.kind = 3) ∨ (c.kind = 4 ∧ p = c.rank)
      doneTask id t (if mine ∧ poison = false then [putTask c p k (dstElem c c.rank p k) back] else []) b

/-- Take in an accepted chunk. -/
def runTake (id : Nat) (c : Coll) (t : CollTask) (x : ChunkId) (wire : Bytes) (poison : Bool) (b : Blk) : Blk :=
  let b := if poison then noteFail id ⟨0x16, 6, c.chipOf x.rank⟩ b else b
  let n := chunkElems c x.piece x.chunk
  let vals := dequantize c.wireFmt n wire
  let forward (b : Blk) : Blk := outChunk id c { id := ⟨c.rank, x.piece, x.chunk, x.gather⟩, dests := [c.succ], bytes := wire,
                                                 poison := poison } b
  if x.gather ∨ 2 ≤ c.kind then
    let b := if c.isRing ∧ x.piece ≠ c.succ then forward b else b
    doneTask id t (if poison then [] else [putTask c x.piece x.chunk (dstElem c x.rank x.piece x.chunk) vals]) b
  else if c.isRing then
    withSrc id c x.piece x.chunk b fun own b =>
      let bad := poison || own.isNone
      let mine := dequantize c.wireFmt n (quantize c.wireFmt (own.getD (List.replicate n 0)))
      let sum := reduceVals c.op vals mine
      if x.piece = c.rank then
        let r := finalChunk id c x.chunk sum bad b
        doneTask id t r.2 r.1
      else
        let out := if bad then List.replicate wire.length 0 else quantize c.wireFmt sum
        doneTask id t [] (outChunk id c { id := ⟨c.rank, x.piece, x.chunk, false⟩, dests := [c.succ], bytes := out, poison := bad } b)
  else match c.accs.find? fun a => a.chunk == x.chunk with
    | none => doneTask id t [] b
    | some a =>
      let a' : Acc := { a with vals := reduceVals c.op a.vals vals, from' := a.from' ++ [x.rank], poison := a.poison || poison }
      let b := b.updColl id fun c => { c with accs := c.accs.map fun y => if y.chunk = x.chunk then a' else y }
      if a'.from'.length = c.size - 1 then
        let r := finalChunk id c x.chunk a'.vals a'.poison b
        doneTask id t r.2 r.1
      else doneTask id t [] b

/-- Run one task of a collective. -/
def runTask (id : Nat) (c : Coll) (t : CollTask) (b : Blk) : Blk :=
  match t with
  | .send p k => runSend id c t p k b
  | .take x bs poison => runTake id c t x bs poison b
  | .put _ _ elem bs =>
    if bs.isEmpty then doneTask id t [] b
    else match collWrite id c elem bs b with
      | .done b => doneTask id t [] b
      | .refused d => faultColl id d 0x06 true (fieldResult 0x11 0x18) b
      | .stop w => stopColl id 0x18 true w b

/-- The first task of a collective on an engine, where the collective can go on. -/
def headTask (b : Blk) (id n : Nat) : Option (Coll × CollTask) :=
  match b.tre.colls.get? id with
  | none => none
  | some c =>
    if c.ended ∨ c.stall.isSome ∨ collPending b id ∨ overdue b.ft c.owner c.deadline then none
    else (c.todo.find? fun t => t.engine c == n).map fun t => (c, t)

/-- Tasks that need no read of SRC follow at once: chunks accepted and writes to DST. -/
def pumpTasks : Nat → Nat → Nat → Blk → Blk
  | 0, _, _, b => b
  | fuel + 1, id, n, b =>
    match headTask b id n with
    | some (_, .send _ _) => b
    | some (c, t) => pumpTasks fuel id n (runTask id c t b)
    | none => b

/-- Tasks of a collective at most. -/
def taskFuel (b : Blk) (id : Nat) : Nat := ((b.tre.colls.get? id).map fun c => 2 * c.todo.length + 2).getD 0

/-- An engine goes on with a collective: one task, then those that follow. -/
def stepColl (id n : Nat) (b : Blk) : Blk :=
  match headTask b id n with
  | some (c, t) =>
    let b := runTask id c t b
    checkColl id (pumpTasks (taskFuel b id) id n b)
  | none => b

/-! ## What an engine serves (R305) -/

/-- Work of an engine that can go on: its place in the order of starts, its deadline where it is of class 7, whether it is a
collective, and its number. -/
structure Turn where
  order : Nat
  hot : Option Nat
  coll : Bool
  id : Nat
deriving DecidableEq, Repr

/-- The work of an engine that can go on. Stalled work, and work whose data has not come, is passed over. -/
def turnsOf (b : Blk) (n : Nat) : List Turn :=
  let hot (cls : Nat) (d : Option Nat) : Option Nat := if cls = 7 then some (deadlineKey d) else none
  (b.tre.works.filterMap fun e =>
    if e.2.engine = some n ∧ e.2.stall.isNone ∧ e.2.next < e.2.total ∧ workPending b e.1 = false ∧
        overdue b.ft e.2.owner e.2.deadline = false then
      some ⟨e.2.order, hot e.2.cls e.2.deadline, false, e.1⟩
    else none) ++
  b.tre.colls.filterMap fun e => (headTask b e.1 n).map fun t => ⟨t.1.order, hot t.1.cls t.1.deadline, true, e.1⟩

/-- What an engine serves next: class 7 earliest deadline first, then one chunk per item in turn, in the order the items
started. -/
def nextTurn (b : Blk) (n : Nat) : Option Turn :=
  let ts := sortOn (fun t => t.order) (turnsOf b n)
  match (sortOn (fun t => t.hot.getD 0) (ts.filter fun t => t.hot.isSome)).head? with
  | some t => some t
  | none =>
    let last := b.tre.turn.getD n 0
    match ts.find? fun t => decide (last ≤ t.order) with
    | some t => some t
    | none => ts.head?

/-- An engine finishes one chunk and goes on with the next. -/
def serveEngine (n : Nat) (b : Blk) : Blk :=
  match nextTurn b n with
  | none => b
  | some t =>
    let b := b.treU fun x => { x with turn := x.turn.set n (t.order + 1) }
    if t.coll then stepColl t.id n b
    else match b.tre.works.get? t.id with
      | some w => workChunk t.id w b
      | none => b

/-! ## Chunks received (R328, R330) -/

/-- A chunk as its header names it. -/
def pktChunk (p : Pkt) : ChunkId := ⟨field p.spec 2 2, field p.spec 0xC 2, field p.spec 8 4, bit (field p.spec 0xF 1) 3⟩

/-- The live collective that a chunk is for. -/
def collFor (b : Blk) (p : Pkt) : Option (Nat × Coll) :=
  b.tre.colls.find? fun e =>
    e.2.group == field p.spec 0 2 && e.2.key == field p.spec 4 4 && e.2.kcoll == bit (field p.spec 0xF 1) 0 && !e.2.ended

/-- Accept a chunk for a live collective: check it, trace it, restart its sender's timer and process it (R323, R328, R330). -/
def acceptChunk (id : Nat) (c : Coll) (p : Pkt) (b : Blk) : Blk :=
  let x := pktChunk p
  let cf := field p.spec 0xF 1
  let good := field p.spec 0xE 1 == c.wireFmt + c.kind * 16 && bits cf 4 2 == c.op &&
    decide (c.members[x.rank]? = some p.src) && c.expect.any fun e => e.1 == x && e.2.2 == p.payload.length
  if good = false then
    failColl id ⟨0x17, 6, p.src⟩ (b.treU fun t => { t with mismatches := t.mismatches.bump })
  else if c.accepted.contains x then b
  else
    let eng := chunkEngine c x.piece x.chunk
    let b := traceRec 0x06 c.slice c.ctx (c.key + c.group * 2 ^ 32 + x.rank * 2 ^ 48)
      (x.chunk + x.piece * 2 ^ 32 + eng * 2 ^ 42 + (if bit cf 2 then 2 ^ 47 else 0)) false b
    let accepted := c.accepted ++ [x]
    let more := c.expect.any fun e => e.1.rank == x.rank && !accepted.contains e.1
    let b := b.updColl id fun c => { c with
      accepted := accepted
      timers := (c.timers.filter fun t => t.1 != x.rank) ++ (if more then [(x.rank, b.ft + c.timeout)] else [])
      todo := c.todo ++ [.take x p.payload (bit cf 1)] }
    checkColl id (pumpTasks (taskFuel b id) id eng b)

/-- Bytes that the staging pool holds. -/
def stagedBytes (b : Blk) : Nat := b.tre.staging.foldl (fun n s => n + s.pkt.payload.length) 0

/-- A chunk leaves its receive buffer, or stays there while the pool is full (R328). Answers whether it left. -/
def placeChunk (p : Pkt) (b : Blk) : Blk × Bool :=
  match collFor b p with
  | some (id, c) => (acceptChunk id c p b, true)
  | none =>
    if b.tre.ended.contains (field p.spec 0 2, field p.spec 4 4, bit (field p.spec 0xF 1) 0) then
      (b.treU fun t => { t with lateChunks := t.lateChunks.bump }, true)
    else if stagedBytes b + p.payload.length ≤ 8 * 2 ^ 20 then
      (b.treU fun t => { t with staging := t.staging ++ [{ pkt := p, atFt := b.ft }] }, true)
    else (b, false)

/-- Place the chunks that wait in receive buffers, in order of arrival, until one must stay. -/
def drainChunks : List (Nat × Pkt) → Blk → Blk
  | [], b => b.treU fun t => { t with heldChunks := [] }
  | (n, p) :: rest, b =>
    match placeChunk p b with
    | (b, true) => drainChunks rest (oweCredit n p b)
    | (b, false) => b.treU fun t => { t with heldChunks := (n, p) :: rest }

/-- The pool may have room again. -/
def drainStaging (b : Blk) : Blk := if b.tre.heldChunks.isEmpty then b else returnAll (drainChunks b.tre.heldChunks b)

/-- A chunk arrives on a port (R328). -/
def recvChunk (n : Nat) (p : Pkt) (b : Blk) : Blk := drainChunks (b.tre.heldChunks ++ [(n, p)]) b

/-- The chunks that the staging pool holds for a collective that starts, in order of arrival. -/
def claimStaged (id : Nat) (b : Blk) : Blk :=
  let mine := b.tre.staging.filter fun s => ((collFor b s.pkt).map (·.1)) == some id
  let b := b.treU fun t => { t with staging := t.staging.filter fun s => !mine.contains s }
  drainStaging (mine.foldl (fun b s => (placeChunk s.pkt b).1) b)

/-! ## Start, requests and re-runs (R321, R332, R333) -/

/-- Start a collective: its engine list, its reservation, its timers, its first tasks, and the chunks staged for it. -/
def startColl (c : Coll) (b : Blk) : Blk :=
  let id := b.tre.collNext
  let c := { c with engines := (List.range 32).filter fun n => b.tre.up.getLsbD n, order := b.tre.order }
  let (b, fits) := reserve c.group id (reserveBytes c) b
  let expect := (expectIds c).map fun x => (x, globalChunk c x.piece x.chunk, chunkBytes c x.piece x.chunk)
  let senders := (expect.map fun e => e.1.rank).dedup
  let c := { c with
    nokeep := !fits
    expect := expect
    timers := senders.map fun r => (r, b.ft + c.timeout)
    todo := ((firstPieces c).map fun p => (chunkList c p).map fun k => CollTask.send p k).flatten }
  let b := b.treU fun t => { t with
    colls := t.colls.set id c
    collNext := id + 1
    order := t.order + 1
    ended := t.ended.filter fun e => e != (c.group, c.key, c.kcoll)
    nokeeps := if fits then t.nokeeps else t.nokeeps.bump }
  checkColl id (claimStaged id b)

/-- Answer a resend request from the area (R333). -/
def answerRreq (p : Pkt) (b : Blk) : Blk :=
  let cf := field p.spec 0xF 1
  let live := b.tre.colls.find? fun e =>
    e.2.group == field p.spec 0 2 && e.2.key == field p.spec 4 4 && e.2.kcoll == bit cf 0
  match live with
  | none => b
  | some (_, c) =>
    let r := field p.spec 2 2
    match c.sent.find? fun x => x.id.piece == field p.spec 0xC 2 && x.id.chunk == field p.spec 8 4 &&
        x.id.gather == bit cf 3 && x.dests.contains r with
    | some x => if c.members[r]? = some p.src then sendChunk c x true r b else b
    | none => b

/-- Ask a sender for a chunk again. -/
def sendRreq (c : Coll) (x : ChunkId) (b : Blk) : Blk :=
  sendPkt { typ := 0x20, vc := 2, resent := false, classB := false, ttl := 15, dest := c.chipOf x.rank, src := b.chip, txn := 0,
            spec := chunkHeader c x.piece x.chunk x.gather false false true, payload := [], rsvd := true } b

/-- Re-run the chunks of a collective that a test picks, by global number (R333): resend what was sent, ask again for what
was accepted, and reduce afresh only what has no G in the area. -/
def rerunColl (id : Nat) (pick : Nat → Bool) (b : Blk) : Blk :=
  match b.tre.colls.get? id with
  | none => b
  | some c =>
    let mine (x : ChunkId) : Bool := pick (globalChunk c x.piece x.chunk)
    let b := (c.sent.filter fun x => mine x.id).foldl (fun b x => x.dests.foldl (fun b r => sendChunk c x true r b) b) b
    let b := (c.accepted.filter mine).foldl (fun b x => sendRreq c x b) b
    let queued := c.todo.filterMap fun t => match t with
      | .take x _ _ => if mine x then some x else none
      | _ => none
    let hasG (k : Nat) : Bool := c.sent.any fun x => x.id.gather && x.id.piece == c.rank && x.id.chunk == k
    let written (a : Acc) : Bool := c.kind == 1 && a.from'.length == c.size - 1
    let again := c.accs.filter fun a => pick (globalChunk c c.rank a.chunk) && !hasG a.chunk && !written a
    let lost := queued ++ (c.accepted.filter fun x => !x.gather && c.kind < 2 && !c.isRing &&
      again.any fun a => a.chunk == x.chunk && a.from'.contains x.rank)
    let fresh (a : Acc) : Acc :=
      if again.contains a then
        match c.sent.find? fun x => x.id.piece == c.rank && x.id.chunk == a.chunk && !x.id.gather with
        | some x => { a with vals := dequantize c.wireFmt (chunkElems c c.rank a.chunk) x.bytes, from' := [], poison := x.poison }
        | none => { a with from' := [] }
      else a
    let senders := (lost.map fun x => x.rank).dedup
    b.updColl id fun c => { c with
      accs := c.accs.map fresh
      accepted := c.accepted.filter fun x => !lost.contains x
      todo := c.todo.filter fun t => (match t with
        | .take x _ _ => !mine x
        | _ => true)
      timers := c.timers ++ ((senders.filter fun r => c.timers.all fun t => t.1 != r).map fun r => (r, b.ft + c.timeout)) }

end Sys2Proof.Machine
end

