-- ==== Sys2Proof/Machine/LaunchOps.lean ====
section
/-! DEFINITION. Kernel descriptors and new launches (R246 to R248, R274). -/

namespace Sys2Proof.Machine

/-- Every field of Table 07.1 is in range. -/
def descOk (d : Bytes) : Bool :=
  let noMap := bit (field d 2 2) 0
  let lanes := field d 4 2
  let vregs := field d 6 1
  let lwa := field d 8 4
  let entry := field d 0x10 8
  let code := field d 0x18 8
  let map := field d 0x20 8
  let cnt := field d 0x28 4
  field d 0 2 == 1 && decide (field d 2 2 < 2) &&
  decide (32 ≤ lanes) && decide (lanes ≤ 2048) && lanes % 32 == 0 &&
  decide (8 ≤ vregs) && decide (vregs ≤ 248) && vregs % 8 == 0 && field d 7 1 == 0 &&
  lwa % 256 == 0 && decide (lwa ≤ 4194304) &&
  entry % 256 == 0 && decide (entry < 2 ^ 56) &&
  decide (256 ≤ code) && decide (code ≤ 67108864) &&
  (if noMap then map == 0 && cnt == 0 else map % 16 == 0 && decide (map < 2 ^ 57) && decide (1 ≤ cnt) && decide (cnt ≤ 65536)) &&
  decide (field d 0x2C 2 ≤ 16384) && decide (field d 0x2E 2 ≤ 512)

/-- Lane-group slots that a work group needs (R247). -/
def descLgs (d : Bytes) : Nat := field d 4 2 / 32
/-- Register bytes that a work group needs (R247). -/
def descRegs (d : Bytes) : Nat := field d 4 2 * field d 6 1 * 4
/-- LWA bytes that a work group needs (R247). -/
def descLwa (d : Bytes) (dyn : Nat) : Nat := field d 8 4 + dyn

/-- What a descriptor fails, as an offset in the entry: a field, the register need, the LWA need (R246, R247). -/
def descFault (b : Blk) (d : Bytes) (dyn : Nat) : Option Nat :=
  if !descOk d then some 0x10
  else if 262144 < descRegs d then some 0x10
  else if lwaBytes b < descLwa d dyn then some 0x2C
  else none

/-- The descriptor cache entry of a physical address at the present epoch (R248). -/
def cachedDesc (b : Blk) (pa : Nat) : Option Bytes :=
  (b.sch.descCache.find? fun e => e.1 == pa && e.2.1 == b.xlt.epoch).map fun e => e.2.2

/-- Put a descriptor first in the cache; the least recently used entry goes, and those of older epochs (R248). -/
def cacheDesc (pa : Nat) (d : Bytes) (b : Blk) : Blk :=
  b.schU fun s => { s with
    descCache := ((pa, b.xlt.epoch, d) :: (s.descCache.filter fun e => e.1 != pa && e.2.1 == b.xlt.epoch)).take 64 }

/-- The physical address of a descriptor, where it translates. -/
def descPa (b : Blk) (slice code : Nat) : Nat :=
  match xlate b slice code false with
  | .dev pa _ => pa
  | _ => 0

/-- The first 64 bytes of a kernel descriptor, from the cache or read for an item. -/
def readDesc (i : Nat) (it : Item) (code : Nat) (b : Blk) : RRes :=
  match cachedDesc b (descPa b it.slice code) with
  | some d => if descPa b it.slice code = 0 then itemRead i it code 64 b else .data d (cacheDesc (descPa b it.slice code) d b)
  | none => match itemRead i it code 64 b with
    | .data d b => .data d (cacheDesc (descPa b it.slice code) d b)
    | r => r

/-- A new launch joins those that wait for cores. A cap of 0 means every core. -/
def addLaunch (owner : LaunchOwner) (slice ctx cls scope : Nat) (deadline : Option Nat) (gx gy gz maxCores grace : Nat)
    (d : Bytes) (dyn pa args : Nat) (b : Blk) : Blk :=
  let l : Launch := {
    owner := owner, slice := slice, ctx := ctx, part := slicePart b slice, cls := cls, scope := scope, deadline := deadline
    gx := gx, gy := gy, gz := gz
    maxCores := if maxCores = 0 then 192 else maxCores
    lgs := descLgs d, regs := descRegs d, lwa := descLwa d dyn
    graceNs := (if grace = 0 then 10 else grace) * 1000
    descPa := pa, args := args, order := b.sch.order }
  b.schU fun s => { s with launches := s.launches.set s.order l, order := s.order + 1 }

end Sys2Proof.Machine
end

