-- ==== Sys2Proof/Machine/MdlOps.lean ====
section
/-! DEFINITION. Operations of the model store: blocks and pieces, loads, evictions, repairs (R292 to R300). -/

namespace Sys2Proof.Machine

/-- Change one model slice. -/
def Blk.updModel (b : Blk) (m : Nat) (f : Model → Model) : Blk := b.mdlU fun d => { d with models := d.models.upd m f }

/-- The pieces of block `k` as they lie at first (R293): bank and row. -/
def firstPiecesOf (k : Nat) : List (Nat × Nat) := (List.range 32).map fun i => (32 * k % 192 + i, 32 * k / 192)

/-- Put the store in service (R292): blocks 0 to STORE_BLOCKS - 1 serve model slices, the other pages are spares by row, then
bank. -/
def openStore (b : Blk) : Blk :=
  b.mdlU fun d => { d with
    storeEn := true
    freeBlocks := List.range d.storeBlocks
    blockPieces := (List.range d.storeBlocks).map fun k => (k, firstPiecesOf k)
    spares := (rangeFrom (32 * d.storeBlocks) (192 * d.rows - 32 * d.storeBlocks)).map fun n => (n % 192, n / 192) }

/-- The granule of a piece: the scratchpad page at bank and row. -/
def pieceGranule (p : Nat × Nat) : Nat := 2 ^ 30 + p.1 * 64 + p.2

/-- A registered model slice of a slice, by its MODEL_ID. -/
def modelOf (b : Blk) (slice modelId : Nat) : Option (Nat × Model) :=
  b.mdl.models.find? fun e => e.2.slice == slice && e.2.modelId == modelId

/-- Blocks that a model slice takes. -/
def Model.need (m : Model) : Nat := m.len / 2097152

/-- The model slice holds blocks. -/
def Model.holds (m : Model) : Bool := !m.blocks.isEmpty

/-- Blocks that a slice's model slices hold. -/
def sliceBlocks (b : Blk) (slice : Nat) : Nat :=
  b.mdl.models.foldl (fun n e => if e.2.slice = slice then n + e.2.blocks.length else n) 0
/-- Blocks of the pinned model slices of a slice. -/
def slicePinned (b : Blk) (slice : Nat) : Nat :=
  b.mdl.models.foldl (fun n e => if e.2.slice = slice ∧ e.2.pinned then n + e.2.need else n) 0
/-- A slice's model-store share. -/
def sliceShare (b : Blk) (slice : Nat) : Nat := ((b.slices.get? slice).map (·.storeBlocks)).getD 0

/-- Mark a model slice as used now. -/
def touchModel (m : Nat) (b : Blk) : Blk :=
  (b.updModel m fun x => { x with lastUse := b.mdl.useClock + 1 }).mdlU fun d => { d with useClock := d.useClock + 1 }

/-- The blocks of a model slice return to the free ones and it is only registered; its pieces lose their owner. -/
def freeModelBlocks (m : Nat) (b : Blk) : Blk :=
  match b.mdl.models.get? m with
  | none => b
  | some x =>
    let b := pushOwner (x.pieces.map pieceGranule) none none b
    b.mdlU fun d => { d with
      freeBlocks := sortOn id (d.freeBlocks ++ x.blocks)
      models := d.models.set m { x with
        state := .registered
        blocks := []
        pieces := []
        loaded := 0
        lost := []
        stuck := false
        invalidating := false } }

/-- The work that loads a model slice. -/
def loadWorks (b : Blk) (m : Nat) : List Nat :=
  (b.tre.works.filter fun e => e.2.owner == .load m || (match e.2.owner with
    | .repair k _ => k == m
    | _ => false)).map (·.1)

/-- Loads in progress. -/
def activeLoads (b : Blk) : Nat := b.mdl.models.count fun _ x => x.state == .loading
/-- Model slices that hold blocks. -/
def residentModels (b : Blk) : Nat := b.mdl.models.count fun _ x => x.holds

/-- The next model slice to evict: the requesting slice's own first, then others, least recently used first (R296). -/
def evictNext (b : Blk) (slice : Nat) : Option Nat :=
  let can := b.mdl.models.filter fun e =>
    e.2.state == .resident && !e.2.pinned && e.2.runs.isEmpty && !e.2.invalidating && e.2.pinNext.isEmpty
  ((sortOn (fun e => (if e.2.slice = slice then 0 else 2 ^ 70) + e.2.lastUse) can).head?).map (·.1)

/-- Start an eviction: the model slice's window translations are invalidated; its blocks are free once that is complete. -/
def startEvict (m : Nat) (b : Blk) : Blk :=
  match b.mdl.models.get? m with
  | none => b
  | some x =>
    let b := b.mdlU fun d => { d with evictions := d.evictions.bump, models := d.models.set m { x with invalidating := true } }
    startInval x.slice [.model m] true (.model m) b

/-- Blocks on their way to being free. -/
def evicting (b : Blk) : Nat := b.mdl.models.foldl (fun n e => if e.2.invalidating then n + e.2.blocks.length else n) 0

/-- Evict while the free blocks, with those being freed, fall short. -/
def makeRoom : Nat → Nat → Nat → Blk → Blk
  | 0, _, _, b => b
  | fuel + 1, slice, need, b =>
    if need ≤ b.mdl.freeBlocks.length + evicting b ∧ residentModels b < 256 then b
    else match evictNext b slice with
      | some m => makeRoom fuel slice need (startEvict m b)
      | none => b

/-- An eviction whose invalidation is complete frees its blocks. -/
def finishEvicts (b : Blk) : Blk :=
  b.mdl.models.foldl (fun b e =>
    if e.2.invalidating ∧ b.xlt.invals.all fun v => v.why != .model e.1 then freeModelBlocks e.1 b else b) b

/-- The context that a load's copies carry: that of the item or run it serves, else the one recorded at registration (R297). -/
def loadCtx (b : Blk) (x : Model) : Nat :=
  match x.waiters.head?, x.pinNext.head?, x.runs.head? with
  | some i, _, _ => ((b.items.get? i).map (·.ctx)).getD x.ctx
  | _, some i, _ => ((b.items.get? i).map (·.ctx)).getD x.ctx
  | _, _, some r => ((b.mar.runs.get? r).map (·.ctx)).getD x.ctx
  | _, _, _ => x.ctx

/-- Begin a load with the lowest free blocks (R296, R294). -/
def beginLoad (m : Nat) (x : Model) (b : Blk) : Blk :=
  let blocks := b.mdl.freeBlocks.take x.need
  let pieces := (blocks.map fun k => b.mdl.blockPieces.getD k []).flatten
  let ctx := loadCtx b x
  let b := b.mdlU fun d => { d with
    freeBlocks := d.freeBlocks.drop x.need
    waiting := d.waiting.filter (· ≠ m)
    models := d.models.set m { x with state := .loading, blocks := blocks, pieces := pieces, loaded := 0 } }
  let b := pushOwner (pieces.map pieceGranule) (some x.slice) none b
  addWork (.load m) (.load x.src 0 x.len) x.slice ctx x.cls x.deadline x.len b

/-- Serve the loads that wait, strictly in arrival order (R296). -/
def serveLoads : Nat → Blk → Blk
  | 0, b => b
  | fuel + 1, b =>
    match b.mdl.waiting with
    | [] => b
    | m :: _ =>
      match b.mdl.models.get? m with
      | none => serveLoads fuel (b.mdlU fun d => { d with waiting := d.waiting.drop 1 })
      | some x =>
        if 8 ≤ activeLoads b then b
        else
          let b := finishEvicts (makeRoom 1024 x.slice x.need b)
          if x.need ≤ b.mdl.freeBlocks.length ∧ residentModels b < 256 then
            match b.mdl.models.get? m with
            | some x => serveLoads fuel (beginLoad m x b)
            | none => b
          else b

/-- Serve the loads that wait, each at most once. -/
def serveAll (b : Blk) : Blk := serveLoads (b.mdl.waiting.length + 1) b

/-- Ask for a load of a registered model slice (R296). -/
def requestLoad (m cls : Nat) (deadline : Option Nat) (b : Blk) : Blk :=
  match b.mdl.models.get? m with
  | none => b
  | some x =>
    if x.state ≠ .registered ∨ b.mdl.waiting.contains m then b
    else serveAll (b.mdlU fun d => { d with
      waiting := d.waiting ++ [m]
      models := d.models.set m { x with cls := cls, deadline := deadline } })

/-- A load would take the slice's blocks beyond its share. -/
def overShare (b : Blk) (m : Nat) (x : Model) : Bool :=
  let waitingBlocks := b.mdl.waiting.foldl (fun n k => match b.mdl.models.get? k with
    | some y => if k ≠ m ∧ y.slice = x.slice then n + y.need else n
    | none => n) 0
  decide (sliceShare b x.slice < sliceBlocks b x.slice + waitingBlocks + x.need)

/-- The items that wait for a model slice end: the loads with its index, the pins once set (R90, R91). -/
def residentNow (m : Nat) (b : Blk) : Blk :=
  match b.mdl.models.get? m with
  | none => b
  | some x =>
    let b := (touchModel m b).updModel m fun x => { x with
      state := .resident, waiters := [], pinNext := [], pinned := x.pinned || !x.pinNext.isEmpty }
    let b := x.waiters.foldl (fun b i => endItem i ⟨0, 1, m⟩ b) b
    x.pinNext.foldl (fun b i => endItem i okResult b) b

/-- Nobody needs a load any more: it stops and its blocks are free (Table 02.24). -/
def dropLoad (m : Nat) (b : Blk) : Blk :=
  match b.mdl.models.get? m with
  | none => b
  | some x =>
    let b := b.mdlU fun d => { d with waiting := d.waiting.filter (· ≠ m) }
    if x.state = .loading then serveAll (freeModelBlocks m ((loadWorks b m).foldl (fun b w => dropWork w b) b)) else b

/-- An item no longer waits for a model slice; a load that serves nobody stops. -/
def leaveLoad (i : Nat) (b : Blk) : Blk :=
  b.mdl.models.foldl (fun b e =>
    if e.2.waiters.contains i ∨ e.2.pinNext.contains i then
      let x : Model := { e.2 with waiters := e.2.waiters.filter (· ≠ i), pinNext := e.2.pinNext.filter (· ≠ i) }
      let b := b.mdlU fun d => { d with models := d.models.set e.1 x }
      if x.waiters.isEmpty ∧ x.pinNext.isEmpty ∧ x.runs.isEmpty ∧ x.state ≠ .resident then dropLoad e.1 b else b
    else b) b

/-- Loads that failed: their waiters end with the failure, their blocks are free (R334). Runs see it as their own. -/
def settleLoads (b : Blk) : Blk :=
  b.mdl.models.foldl (fun b e =>
    match e.2.failed with
    | none => b
    | some r =>
      let b := freeModelBlocks e.1 (b.updModel e.1 fun x => { x with failed := none, waiters := [], pinNext := [] })
      let b := (e.2.waiters ++ e.2.pinNext).foldl (fun b i => endItem i r b) b
      let b := e.2.runs.foldl (fun b k => b.marU fun a => { a with
        runs := a.runs.upd k fun y => { y with opFail := y.opFail.set 0 r } }) b
      serveAll b) b

/-- A spare page for a piece of a block: in a bank that no other piece of the block uses, the lowest row, then the lowest bank
(R298). -/
def pickSpare (spares used : List (Nat × Nat)) : Option (Nat × Nat) :=
  let banks := used.map (·.1)
  (sortOn (fun p => p.2 * 192 + p.1) (spares.filter fun p => !banks.contains p.1)).head?

/-- Retire piece `i` of block `k` and map it to a spare; answers whether there was one. -/
def remapPiece (k i : Nat) (b : Blk) : Blk × Bool :=
  let ps := b.mdl.blockPieces.getD k []
  let old := ps.getD i (0, 0)
  let b := b.mdlU fun d => { d with badPieces := d.badPieces.bump }
  match pickSpare b.mdl.spares (ps.filter (· ≠ old)) with
  | none => (b, false)
  | some p => (b.mdlU fun d => { d with
      spares := d.spares.filter (· ≠ p)
      blockPieces := d.blockPieces.set k (ps.set i p) }, true)

/-- Retire piece `i` of block `k`, for the model slice that holds the block where there is one, and start its reload. -/
def retirePiece (k i : Nat) (b : Blk) : Blk :=
  let old := (b.mdl.blockPieces.getD k []).getD i (0, 0)
  match remapPiece k i b with
  | (b, ok) =>
    match b.mdl.models.find? fun e => e.2.blocks.contains k with
    | none => if ok then b else b.mdlU fun d => { d with freeBlocks := d.freeBlocks.filter (· ≠ k) }
    | some (m, x) =>
      let at' := x.blocks.idxOf k * 32 + i
      let pieces := (x.blocks.map fun k => b.mdl.blockPieces.getD k []).flatten
      let b := pushOwner [pieceGranule old] none none b
      let b := if ok then pushOwner [pieceGranule (pieces.getD at' (0, 0))] (some x.slice) none b else b
      if x.state = .loading then
        let b := b.updModel m fun x => { x with pieces := pieces, loaded := min x.loaded (at' / 32) }
        (loadWorks b m).foldl (fun b w => b.updWork w fun w => { w with next := min w.next (at' * 65536) }) b
      else
        let b := b.updModel m fun x => { x with
          pieces := pieces
          state := .repairing
          lost := if x.lost.contains at' then x.lost else x.lost ++ [at']
          stuck := x.stuck || !ok }
        let old := (b.tre.works.filter fun e => e.2.owner == .repair m at').map (·.1)
        let b := old.foldl (fun b w => dropWork w b) b
        if ok then addWork (.repair m at') (.load x.src 0 65536) x.slice x.ctx 7 none 65536 b else b

/-- The pieces of the store that satisfy a test: block and place. -/
def piecesWhere (b : Blk) (test : Nat × Nat → Bool) : List (Nat × Nat) :=
  (b.mdl.blockPieces.map fun e => ((List.range e.2.length).filter fun i => test (e.2.getD i (0, 0))).map fun i => (e.1, i)).flatten

/-- Accesses that waited for a lost piece go on: stalled items, work and collectives try again (R298). -/
def resumeLost (b : Blk) : Blk :=
  let go (it : Item) : Item := if it.stall = some .miss then { it with stall := none, st := .running } else it
  let b : Blk := { b with items := b.items.mapVals fun _ it => go it }
  b.treU fun t => { t with
    works := t.works.mapVals fun _ w => if w.stall = some .miss then { w with stall := none } else w
    colls := t.colls.mapVals fun _ c => if c.stall = some .miss then { c with stall := none } else c }

/-- Lost pieces that cannot be had again: accesses waiting for them complete as uncorrectable reads when they try again. -/
def settleStuck (b : Blk) : Blk := if b.mdl.models.any fun e => e.2.stuck then resumeLost b else b

/-- A slice leaves the model store (R300). -/
def dropModels (slice : Nat) (b : Blk) : Blk :=
  let mine := (b.mdl.models.filter fun e => e.2.slice == slice).map (·.1)
  let b := mine.foldl (fun b m => (loadWorks b m).foldl (fun b w => dropWork w b) b) b
  let b := mine.foldl (fun b m => freeModelBlocks m b) b
  serveAll (b.mdlU fun d => { d with
    models := d.models.keep fun k _ => !mine.contains k
    waiting := d.waiting.filter fun m => !mine.contains m })

end Sys2Proof.Machine
end

