-- ==== Sys2Proof/Machine/MarOps.lean ====
section
/-! DEFINITION. Operations of the Marionettes: programs, sequences and their output rings, boundaries, plans, commits,
rollbacks, and how runs end (R270 to R290). -/

namespace Sys2Proof.Machine

/-- Change one run. -/
def Blk.updRun (b : Blk) (r : Nat) (f : Run → Run) : Blk := b.marU fun m => { m with runs := m.runs.upd r f }
/-- Change one sequence-table entry. -/
def Blk.updSeq (b : Blk) (s : Nat) (f : Seq → Seq) : Blk := b.marU fun m => { m with seqs := m.seqs.upd s f }

/-- The live run of a slice with a RUN_ID. -/
def runOf (b : Blk) (slice runId : Nat) : Option (Nat × Run) :=
  b.mar.runs.find? fun e => e.2.slice == slice && e.2.runId == runId

/-- The group entry of a group run. -/
def runGroup (b : Blk) (r : Run) : Option Group := r.group.bind fun g => b.tre.groups.get? g
/-- The run's member is the lead; a single-chip run is its own lead (R271). -/
def isLead (b : Blk) (r : Run) : Bool := (runGroup b r).all fun g => g.rank == r.lead
/-- The lead's chip. -/
def leadChip (b : Blk) (r : Run) : Nat := ((runGroup b r).map fun g => g.members.getD r.lead 0).getD b.chip

/-- TAG of a run's STEP_RUN. -/
def runTag (b : Blk) (r : Run) : Nat := ((b.items.get? r.item).map Item.tag).getD 0

/-- A write that MAR makes for a run. -/
def runWrite (r : Run) (dva : Nat) (bs : Bytes) (b : Blk) : Blk := ctlWriteLater r.slice r.ctx dva bs b

/-- The bytes at a DVA of this chip's memory, where they can be read at once. -/
def peekDva (b : Blk) (slice dva len : Nat) : Option Bytes :=
  match planSpan b slice dva len false with
  | .ok segs => segs.foldl (fun (acc : Option Bytes) s => match acc, s.dest with
      | some bs, .here k _ => if uncorrectable b k s.len then none else some (bs ++ loadLocal b k s.len)
      | _, _ => none) (some [])
  | .error _ => none

/-! ## Programs (R273) -/

/-- OP. -/
def opCode (o : Bytes) : Nat := field o 0 1
/-- OFLAGS. -/
def opFlags (o : Bytes) : Nat := field o 1 1
/-- AFTER. -/
def opAfter (o : Bytes) : Nat := field o 2 2

/-- The body of an operation is in range (Tables 08.3 to 08.7). -/
def opBodyOk (o : Bytes) (headerGroup : Nat) : Bool :=
  match opCode o with
  | 0x00 => (field o 4 2 == 0xFFFF && field o 6 2 == 0 || decide (field o 4 2 < 4096) && decide (field o 6 2 < 1024)) &&
      field o 8 8 % 4096 == 0 && decide (field o 0x10 1 ≤ 7) && zeroSpan o 0x11 15
  | 0x01 => decide (1 ≤ field o 4 4) && field o 8 8 % 256 == 0 && field o 0x10 8 % 8 == 0 && decide (1 ≤ field o 0x18 2) &&
      decide (1 ≤ field o 0x1A 2)
  | 0x02 => decide (1 ≤ field o 4 4) && zeroSpan o 0x18 8
  | 0x03 => field o 4 4 % 32 == 0 && decide (field o 0x18 1 ≤ 4) && decide (field o 0x19 1 ≤ 2) &&
      (decide (field o 0x18 1 < 2) || field o 0x19 1 == 0) && decide (field o 0x1A 1 % 16 ≤ 1) &&
      decide (field o 0x1A 1 / 16 ≤ 8) && field o 0x1B 1 == 0 &&
      (decide (field o 0x1E 2 < 4096) || field o 0x1E 2 == 0xFFFF && headerGroup != 0xFFFF)
  | 0x04 => field o 4 4 % 64 == 0 && decide (64 ≤ field o 4 4) && decide (field o 4 4 ≤ 1048576)
  | 0x05 => field o 6 2 == 0 && zeroSpan o 0x18 8
  | 0x06 => decide (field o 6 2 < 1024) && zeroSpan o 0x18 8
  | 0x07 => zeroSpan o 8 24
  | _ => false

/-- Operation `i` of a program is valid (R273). -/
def opOk (i : Nat) (o : Bytes) (headerGroup : Nat) : Bool :=
  opBodyOk o headerGroup &&
  (if i = 0 then opCode o == 0 && opFlags o == 0 && opAfter o == 0
   else opCode o != 0 && decide (opFlags o < 8) && decide (opAfter o < i))

/-- The first invalid operation of a program; more than 256 FSIGNAL make the 257th invalid. -/
def firstInvalid (p : List Bytes) : Option Nat :=
  let hg := field (p.getD 0 []) 4 2
  (List.range p.length).find? fun i =>
    !opOk i (p.getD i []) hg || (opCode (p.getD i []) == 6 && decide (256 < ((p.take (i + 1)).filter fun o => opCode o == 6).length))

/-- Cut bytes into operations of 32 bytes. -/
def opsOf (n : Nat) (bs : Bytes) : List Bytes := (List.range n).map fun i => (bs.drop (32 * i)).take 32

/-- The collective groups that a program names (R320). -/
def programGroups (p : List Bytes) : List Nat :=
  let hg := field (p.getD 0 []) 4 2
  ((if hg = 0xFFFF then [] else [hg]) ++ p.filterMap fun o =>
    if opCode o = 3 then some (if field o 0x1E 2 = 0xFFFF then hg else field o 0x1E 2) else none).dedup

/-- The model slices that a program names, by MODEL_ID. -/
def programModels (p : List Bytes) : List Nat :=
  (p.filterMap fun o => if opCode o = 7 then some (field o 4 2 + field o 6 2 * 65536) else none).dedup

/-- The span lies wholly in one range of the slice in a space of this chip. -/
def inOneRange (b : Blk) (slice dva len space : Nat) : Bool :=
  match findRange b slice dva with
  | some (_, r) => decide (dva + len ≤ r.start + r.len) && paSpace r.pa == space
  | none => false

/-! ## Output rings (R280) -/

/-- Records that a sequence's ring can still take. -/
def seqRoom (s : Seq) : Nat := 2 ^ s.outLog2 - 1 - (s.tail + 2 ^ s.outLog2 - s.head) % 2 ^ s.outLog2

/-- Write one output record (Table 08.11). -/
def putRecord (idx data index kind : Nat) (b : Blk) : Blk :=
  match b.mar.seqs.get? idx with
  | none => b
  | some s =>
    match b.mar.runs.get? s.run with
    | none => b
    | some r =>
      let v := data % 2 ^ 32 + index % 2 ^ 29 * 2 ^ 32 + kind * 2 ^ 61 + if s.phase then 2 ^ 63 else 0
      let t := (s.tail + 1) % 2 ^ s.outLog2
      (runWrite r (s.outRing + 64 + 8 * s.tail) (leBytes 8 v) b).updSeq idx fun s => { s with
        tail := t
        phase := if t = 0 then !s.phase else s.phase }

/-- Take a HEAD that was read from a ring (R280). -/
def takeHead (idx h : Nat) (b : Blk) : Blk :=
  match b.mar.seqs.get? idx with
  | none => b
  | some s =>
    let n := 2 ^ s.outLog2
    if n ≤ h ∨ (s.tail + n - s.head) % n < (h + n - s.head) % n then pageErr pgMAR 0x05 b
    else b.updSeq idx fun s => { s with head := h }

/-- What reading the HEADs of some sequences came to: done, or some are awaited. -/
def readHeads : List Nat → Blk → Blk × Bool
  | [], b => (b, true)
  | idx :: rest, b =>
    match b.mar.seqs.get? idx with
    | none => readHeads rest b
    | some s =>
      match b.items.get? s.item with
      | none => readHeads rest b
      | some it =>
        match itemRead s.item it s.outRing 8 b with
        | .data bs b => readHeads rest (takeHead idx (leNat bs) (b.updItem s.item fun it => { it with rbuf := [] }))
        | .wait b => ((readHeads rest b).1, false)
        | _ => readHeads rest b

/-! ## Sequences leave (R94, R279, R280) -/

/-- The entry is freed and the SEQ_JOIN completes (R94). -/
def seqGone (idx : Nat) (s : Seq) (b : Blk) : Blk :=
  let b := b.marU fun m => { m with
    seqs := m.seqs.del idx
    leftWaits := m.leftWaits.filter (· ≠ idx) }
  let b := b.updItem s.item fun it => { it with replayed := it.replayed || s.replayed, rbuf := [] }
  endItem s.item ⟨if s.reason = 5 then 0x12 else 0x00, 1, s.tokens⟩ b

/-- A sequence departs: its LEFT record, which waits for room; a follower publishes none (R271). -/
def departSeq (lead : Bool) (idx : Nat) (b : Blk) : Blk :=
  match b.mar.seqs.get? idx with
  | none => b
  | some s =>
    if lead = false then seqGone idx s b
    else if 1 ≤ seqRoom s then seqGone idx s (putRecord idx s.reason s.tokens 2 b)
    else b.marU fun m => { m with leftWaits := if m.leftWaits.contains idx then m.leftWaits else m.leftWaits ++ [idx] }

/-- LEFT records that wait for room: read each ring's HEAD again and write what fits. A ring whose run has ended keeps its
entry until then. -/
def settleLeft (b : Blk) : Blk :=
  b.mar.leftWaits.foldl (fun b idx =>
    match b.mar.seqs.get? idx with
    | none => b
    | some s =>
      if readPending b s.item then b
      else
        let b := (readHeads [idx] b).1
        match b.mar.seqs.get? idx with
        | some s => if 1 ≤ seqRoom s then seqGone idx s
            (let v := s.reason + s.tokens % 2 ^ 29 * 2 ^ 32 + 2 * 2 ^ 61 + (if s.phase then 2 ^ 63 else 0)
             match b.items.get? s.item with
             | some it => ctlWriteLater it.slice it.ctx (s.outRing + 64 + 8 * s.tail) (leBytes 8 v) b
             | none => b) else b
        | none => b) b

/-- Entries of a run. -/
def runSeqs (b : Blk) (r : Nat) : List (Nat × Seq) := b.mar.seqs.filter fun e => e.2.run == r && !b.mar.leftWaits.contains e.1

/-! ## Journal and batch descriptor (R282, R285) -/

/-- Where the journal record of the run's present step begins. -/
def journalAt (r : Run) : Nat := r.journal + r.step % 2 * 32768

/-- The 40 bytes that head the journal record, and DONE. -/
def journalHead (r : Run) (phase : Nat) : Bytes :=
  let applied := (r.staged.takeWhile fun s => s.outcome.isSome).length
  leBytes 8 r.step ++ leBytes 8 r.startFt ++ leBytes 4 r.rows.length ++ leBytes 1 phase ++ leBytes 1 r.attempt ++
  leBytes 2 r.staged.length ++ leBytes 2 applied

/-- DONE of Table 08.14. -/
def journalDone (r : Run) : Bytes := leBytes 128 (r.doneOps.foldl (fun n i => n ||| 2 ^ i) 0)

/-- Write the journal record's head and DONE. -/
def writeJournal (r : Run) (phase : Nat) (b : Blk) : Blk :=
  runWrite r (journalAt r + 0x40) (journalDone r) (runWrite r (journalAt r) (journalHead r phase) b)

/-- Write SIGNAL j. -/
def writeSignal (r : Run) (j : Nat) (s : Staged) (b : Blk) : Blk :=
  runWrite r (journalAt r + 0x100 + 32 * j)
    (leBytes 8 s.value.toNat ++ leBytes 8 s.txn ++ leBytes 2 s.fence ++ leBytes 2 s.chip ++ leBytes 2 s.op) b

/-- BATCH_DESC of a run. -/
def batchDesc (b : Blk) (r : Run) : Nat := ((b.items.get? r.item).map fun it => field it.entry 0x38 8).getD 0

/-- The bytes of the batch descriptor (Table 08.12). -/
def batchBytes (b : Blk) (r : Run) : Bytes :=
  leBytes 8 r.step ++ leBytes 8 r.startFt ++ leBytes 4 r.rows.length ++ leBytes 4 r.admittedNow ++ leBytes 4 r.attempt ++
  List.replicate 36 0 ++
  (r.rows.map fun idx => match b.mar.seqs.get? idx with
    | none => List.replicate 32 0
    | some s => leBytes 4 s.seqId ++ leBytes 4 s.kvTokens ++ leBytes 8 s.kvTable ++ leBytes 8 s.user ++
        leBytes 4 0xFFFFFFFF ++ leBytes 2 1 ++ leBytes 1 (if s.isNew then 1 else 0) ++ leBytes 1 0).flatten

/-! ## How runs end (R92, R290) -/

/-- Stop what a run's operations from index `k` on still do: launches by discard stops, copies, waits. -/
def stopOps (id k : Nat) (b : Blk) : Blk :=
  let mine (o : LaunchOwner) : Bool := match o with
    | .op r op => r == id && decide (k ≤ op)
    | .item _ => false
  let works := b.tre.works.filter fun e => match e.2.owner with
    | .op r op => r == id && decide (k ≤ op)
    | _ => false
  let b := (b.sch.launches.filter fun e => mine e.2.owner).foldl (fun b e => stopLaunch e.1 okResult b) b
  let b := works.foldl (fun b e => dropWork e.1 b) b
  let waits := b.fen.marWaits.filter fun w => w.run == id && decide (k ≤ w.op)
  let b := b.fenU fun x => { x with marWaits := x.marWaits.filter fun w => !(w.run == id && decide (k ≤ w.op)) }
  waits.foldl (fun b w => finishAbandon w.fence b) b

/-- The collectives of a run. -/
def runColls (b : Blk) (id : Nat) : List (Nat × Coll) :=
  b.tre.colls.filter fun e => match e.2.owner with
    | .op r _ => r == id
    | _ => false

/-- Drop a collective of a run with its reservation. -/
def dropColl (id : Nat) (b : Blk) : Blk :=
  match b.tre.colls.get? id with
  | none => b
  | some c =>
    let b := if c.ended then b else b.treU fun t => { t with ended := t.ended ++ [(c.group, c.key, c.kcoll)] }
    let b := b.xltU fun x => { x with atsWaits := x.atsWaits.filter fun w => w.stream != .coll id }
    let b := dropHolds (.coll id) b
    drainStaging (release c.group id (b.treU fun t => { t with colls := t.colls.del id }))

/-- A run is over: every sequence leaves for a reason, the waiting ones end, its Marionette, run slot, models and groups are
free, and its item ends. -/
def closeRun (id reason : Nat) (res : Run → Result) (b : Blk) : Blk :=
  match b.mar.runs.get? id with
  | none => b
  | some r =>
    let b := stopOps id 0 b
    let b := (runColls b id).foldl (fun b e => dropColl e.1 b) b
    let lead := isLead b r
    let b := (runSeqs b id).foldl (fun b e => departSeq lead e.1 (b.updSeq e.1 fun s => { s with
      state := .leaving
      reason := if s.state = .leaving then s.reason else reason })) b
    let b := r.waiting.foldl (fun b w => endItem w.item ⟨if reason = 5 then 0x12 else 0, 1, 0⟩ b) b
    let b := r.leaves.foldl (fun b l => endItem l.1 okResult b) b
    let b := b.mdlU fun d => { d with models := d.models.mapVals fun _ m => { m with runs := m.runs.filter (· ≠ id) } }
    let b := b.mdl.models.foldl (fun b e =>
      if r.mar.isSome ∧ e.2.runs.isEmpty ∧ e.2.waiters.isEmpty ∧ e.2.pinNext.isEmpty ∧
        (e.2.state = .loading ∨ b.mdl.waiting.contains e.1) ∧
        (programModels r.program).contains e.2.modelId ∧ e.2.slice = r.slice then dropLoad e.1 b else b) b
    let b := b.marU fun m => { m with runs := m.runs.del id }
    let b := dropHolds (.mar id) b
    let b := b.updItem r.item fun it => { it with replayed := it.replayed || r.replayed }
    serveAll (endItem r.item (res r) b)

/-- A run fails (R290). An abandoned fence keeps its own detail. -/
def failRun (id : Nat) (res : Result) (b : Blk) : Blk :=
  closeRun id 5 (fun r => if res.kind = 5 then res else ⟨res.status, 1, r.committed⟩) b

/-- Runs whose operation, load or item has failed end now. -/
def settleRuns (b : Blk) : Blk :=
  b.mar.runs.foldl (fun b e =>
    match b.mar.runs.get? e.1 with
    | none => b
    | some r =>
      match b.items.get? r.item with
      | none => closeRun e.1 5 (fun _ => abortResult) b
      | some it =>
        if it.result.isSome then closeRun e.1 5 (fun _ => abortResult) b
        else match r.opFail with
          | (_, res) :: _ => failRun e.1 res b
          | [] => b) b

/-! ## Boundaries and plans (R271, R281, R283) -/

/-- The largest hop count from the lead to a follower. -/
def planHops (b : Blk) (r : Run) : Nat :=
  match runGroup b r with
  | none => 0
  | some g => g.members.foldl (fun n chip =>
      if chip = b.chip then n
      else
        let e := b.lmf.routes.getD chip {}
        max n (if (activePorts b e.primary).isEmpty then e.hopsA else e.hopsP)) 0

/-- START_FT of the next step (R283); control clocks are 5/7 ns. -/
def nextStart (b : Blk) (r : Run) : Nat :=
  let clocks := (64 + 32 * r.rows.length + 511) / 512
  max ((r.prevStart.map (· + r.period)).getD 0) (b.ft + 120 * planHops b r + 10 + (5 * clocks + 6) / 7)

/-- Send the plan to every follower, in parts of up to 60 changes. -/
def sendPlan (r : Run) (changes : List PlanChange) (b : Blk) : Blk :=
  match runGroup b r with
  | none => b
  | some g =>
    let parts := (changes.length + 59) / 60
    let last := parts - 1
    (g.members.filter (· ≠ b.chip)).foldl (fun b chip =>
      (List.range (last + 1)).foldl (fun b i =>
        let cs := (changes.drop (60 * i)).take 60
        sendReq 0x05 chip
          (leBytes 2 (r.group.getD 0) ++ leBytes 1 i ++ leBytes 1 last ++ leBytes 4 r.step ++ leBytes 8 r.startFt)
          ((cs.map fun c => leBytes 4 c.seqId ++ leBytes 1 (if c.depart then 1 else 0) ++ List.replicate 3 0).flatten)
          .own (txnNs b) b) b) b

/-- A sequence-table entry from a WAITING sequence. -/
def newSeq (run : Nat) (w : WaitingSeq) (state : SeqState) : Seq :=
  { run := run, item := w.item, seqId := w.seqId, kvTable := field w.image 0 8, outRing := field w.image 8 8,
    kvTokens := field w.image 0x10 4, kvCap := field w.image 0x14 4, maxTokens := field w.image 0x18 4,
    stopToken := field w.image 0x1C 4, user := field w.image 0x20 8, outLog2 := field w.image 0x28 1, state := state }

/-- A WAITING sequence takes an entry: ACTIVE with its ADMITTED record, or HELD (R280). A follower publishes nothing. -/
def admitSeq (id : Nat) (lead : Bool) (w : WaitingSeq) (b : Blk) : Blk :=
  let idx := b.mar.seqs.fresh
  let active := !lead || decide (2 ≤ 2 ^ field w.image 0x28 1 - 1)
  let b := b.marU fun m => { m with seqs := m.seqs.set idx { newSeq id w (if active then .active else .held) with
    admitted := active } }
  let b := b.updItem w.item fun it => { it with deadline := none }
  let b := b.updRun id fun r => { r with
    waiting := r.waiting.filter fun x => x.item != w.item
    rows := if active then r.rows ++ [idx] else r.rows
    admittedNow := r.admittedNow + 1 }
  match b.mar.runs.get? id with
  | some r => if lead ∧ active then putRecord idx r.step 0 1 b else b
  | none => b

/-- The WAITING sequence to take in next: earliest deadline, then arrival (R281 step 4). -/
def admitNext (r : Run) : Option WaitingSeq := (sortOn (fun w => deadlineKey w.deadline * 2 ^ 64 + w.order) r.waiting).head?

/-- Admit up to `n` sequences; answers the SEQ_IDs admitted. -/
def admitMany : Nat → Nat → Blk → Blk × List Nat
  | 0, _, b => (b, [])
  | n + 1, id, b =>
    match b.mar.runs.get? id with
    | none => (b, [])
    | some r =>
      match admitNext r with
      | none => (b, [])
      | some w =>
        if (runSeqs b id).length < r.maxSeq ∧ b.mar.seqs.length < 4096 then
          let (b, l) := admitMany n id (admitSeq id true w b)
          (b, w.seqId :: l)
        else (b, [])

/-- HELD sequences with room return to ACTIVE (R281 step 3); answers their SEQ_IDs. -/
def returnHeld (id : Nat) (b : Blk) : Blk × List Nat :=
  (runSeqs b id).foldl (fun p e =>
    let b := p.1
    if e.2.state = .held ∧ (if e.2.admitted then 1 else 2) ≤ seqRoom e.2 then
      let b := b.updSeq e.1 fun s => { s with state := .active }
      let b := match b.mar.runs.get? id with
        | some r => if e.2.admitted then b else (putRecord e.1 r.step 0 1 b).updSeq e.1 fun s => { s with admitted := true }
        | none => b
      (b.updRun id fun r => { r with rows := r.rows ++ [e.1] }, p.2 ++ [e.2.seqId])
    else p) (b, [])

/-- The run holds no sequence, active or waiting. -/
def runEmpty (b : Blk) (id : Nat) (r : Run) : Bool := r.waiting.isEmpty && (runSeqs b id).isEmpty

/-- The boundary of the lead before step `r.step` (R281), and its plan (R271). -/
def boundary (id : Nat) (b : Blk) : Blk :=
  match b.mar.runs.get? id with
  | none => b
  | some r =>
    let b := b.updRun id fun r => { r with admittedNow := 0 }
    let named (s : Seq) : Bool := r.leaves.any fun l => l.2 == s.seqId
    let b := (runSeqs b id).foldl (fun b e =>
      if e.2.state ≠ .leaving ∧ named e.2 then b.updSeq e.1 fun s => { s with state := .leaving, reason := 3 } else b) b
    let going := (runSeqs b id).filter fun e => e.2.state == .leaving
    let held := (runSeqs b id).filter fun e => e.2.state == .held && r.rows.contains e.1
    let b := b.updRun id fun r => { r with
      rows := r.rows.filter fun i => !((going ++ held).any fun e => e.1 == i)
      leaves := r.leaves.filter fun l => !(going.any fun e => e.2.seqId == l.2) }
    let b := going.foldl (fun b e => departSeq true e.1 b) b
    let b := (r.leaves.filter fun l => going.any fun e => e.2.seqId == l.2).foldl (fun b l => endItem l.1 okResult b) b
    let (b, back) := returnHeld id b
    let (b, news) := admitMany 32 id b
    match b.mar.runs.get? id with
    | none => b
    | some r =>
      let start := nextStart b r
      let b := b.updRun id fun r => { r with
        startFt := start
        phase := .planned
        emptyFt := if runEmpty b id r then some (r.emptyFt.getD b.ft) else none }
      let changes := ((going ++ held).map fun e => (⟨e.2.seqId, true⟩ : PlanChange)) ++
        (back ++ news).map fun q => (⟨q, false⟩ : PlanChange)
      match b.mar.runs.get? id with
      | some r => sendPlan r changes b
      | none => b

/-- The changes of a PLAN packet (Table 10.4). -/
def planChanges (p : Pkt) : List PlanChange :=
  (List.range (p.payload.length / 8)).map fun i => ⟨field p.payload (8 * i) 4, field p.payload (8 * i + 4) 1 == 1⟩

/-- Take in PLAN packets until the plan of one step is whole. -/
def feedPlan : List (Nat × Pkt) → Run → Run
  | [], r => { r with heldPlans := [] }
  | (t, p) :: rest, r =>
    if r.planDone then { r with heldPlans := (t, p) :: rest }
    else feedPlan rest { r with
      plan := r.plan ++ planChanges p
      planFt := field p.spec 8 8
      planDone := field p.spec 2 1 == field p.spec 3 1
      planRecv := t }

/-- Apply a received plan on a follower where it can be applied; else the step is held (R272). -/
def applyPlan (id : Nat) (b : Blk) : Blk :=
  let b := b.updRun id fun r => feedPlan r.heldPlans r
  match b.mar.runs.get? id with
  | none => b
  | some r =>
    let adds := r.plan.filter fun c => !c.depart
    let outs := r.plan.filter fun c => c.depart
    let departing := (runSeqs b id).filter fun e => outs.any fun c => c.seqId == e.2.seqId
    let ready := adds.all fun c => r.waiting.any fun w => w.seqId == c.seqId
    if r.phase = .awaitPlan ∧ r.planDone ∧ ready ∧ adds.length + b.mar.seqs.length ≤ 4096 + departing.length then
      let b := b.updRun id fun r => { r with
        rows := r.rows.filter fun i => !(departing.any fun e => e.1 == i)
        leaves := r.leaves.filter fun l => !(departing.any fun e => e.2.seqId == l.2)
        admittedNow := 0
        plan := []
        planDone := false
        planWaitFt := none
        startFt := r.planFt
        phase := .planned }
      let b := departing.foldl (fun b e => departSeq false e.1 (b.updSeq e.1 fun s => { s with reason := 3 })) b
      let b := (r.leaves.filter fun l => departing.any fun e => e.2.seqId == l.2).foldl (fun b l => endItem l.1 okResult b) b
      let b := adds.foldl (fun b c => match r.waiting.find? fun w => w.seqId == c.seqId with
        | some w => admitSeq id false w b
        | none => b) b
      b.updRun id fun r => { r with emptyFt := if runEmpty b id r then some (r.emptyFt.getD b.ft) else none }
    else b

/-- A run whose models are all resident and, on a lead, whose followers are all READY goes on to its first boundary; a follower
waits for its first plan (R271, R297). -/
def runReady (id : Nat) (b : Blk) : Blk :=
  match b.mar.runs.get? id with
  | none => b
  | some r =>
    let resident := b.mdl.models.all fun e => !e.2.runs.contains id || e.2.state == .resident || e.2.state == .repairing
    if r.phase = .loading ∧ resident then
      if isLead b r then
        match runGroup b r with
        | some g =>
          if g.members.all fun c => c == b.chip || r.ready.contains c then boundary id b else b
        | none => boundary id b
      else applyPlan id (b.updRun id fun r => { r with phase := .awaitPlan })
    else b

/-- Runs whose last model slice has become resident go on. -/
def settleReady (b : Blk) : Blk := b.mar.runs.foldl (fun b e => runReady e.1 b) b

/-! ## Commit (R286, R287) -/

/-- Publish row `i` of a run (R286 step 4). -/
def publishRow (r : Run) (lead : Bool) (i idx : Nat) (b : Blk) : Blk :=
  match b.mar.seqs.get? idx with
  | none => b
  | some s =>
    if s.lastStep = some (r.step % 2 ^ 32) then b
    else
      let row := (peekDva b r.slice (batchDesc b r + 0x40 + 32 * i) 32).getD (List.replicate 32 0xFF)
      let tok := field row 0x18 4
      let app := field row 0x1C 2
      let b := if lead ∧ tok ≠ 0xFFFFFFFF then putRecord idx tok s.tokens 0 b else b
      let b := b.updSeq idx fun s => { s with
        kvTokens := s.kvTokens + app
        tokens := if tok ≠ 0xFFFFFFFF then s.tokens + 1 else s.tokens
        lastToken := if tok ≠ 0xFFFFFFFF then some tok else none
        lastStep := some (r.step % 2 ^ 32)
        isNew := false
        replayed := s.replayed || decide (0 < r.attempt) }
      let b := if tok ≠ 0xFFFFFFFF then b.updView r.slice fun v => { v with tokens := v.tokens.bump } else b
      b.updSeq idx fun s =>
        if lead = false ∨ s.state ≠ .active then s
        else if tok ≠ 0xFFFFFFFF ∧ tok = s.stopToken then { s with state := .leaving, reason := 0 }
        else if s.maxTokens ≠ 0 ∧ s.maxTokens ≤ s.tokens then { s with state := .leaving, reason := 1 }
        else if s.kvCap ≤ s.kvTokens then { s with state := .leaving, reason := 2 }
        else if seqRoom s = 0 then { s with state := .held }
        else s

/-- Set the outcome of a staged signal. -/
def setOutcome (id op : Nat) (o : Result) (b : Blk) : Blk :=
  b.updRun id fun r => { r with staged := r.staged.map fun s =>
    if s.op = op then { s with outcome := some (s.outcome.getD o) } else s }

/-- The absolute deadline of a step's requests: none without a period (R276). -/
def stepDeadline (r : Run) : Option Nat := if r.period = 0 then none else some (r.startFt + r.period)

/-- Issue the staged signals that are not issued yet, in operation order (R286 step 5, R287, R166). -/
def issueStaged (id : Nat) (b : Blk) : Blk :=
  match b.mar.runs.get? id with
  | none => b
  | some r =>
    (List.range r.staged.length).foldl (fun b j =>
      match r.staged[j]? with
      | none => b
      | some s =>
        if s.sent ∨ s.outcome.isSome then b
        else if s.chip = b.chip then
          let slot := r.slot.getD 0
          let last := b.fen.commits.get? slot
          let done := last.any fun p => decide (r.step < p.1) || (p.1 == r.step && decide (s.op ≤ p.2))
          if done then setOutcome id s.op okResult b
          else
            let (b, res) := signalFence r.slice r.ctx s.fence s.value false b.chip false (runTag b r) b
            let b := b.fenU fun x => { x with commits := x.commits.set slot (r.step, s.op) }
            setOutcome id s.op (if res = 2 then ⟨0x11, 5, fenceDetail s.chip s.fence⟩ else okResult) b
        else if 64 ≤ fsigOut b s.chip then b
        else
          let b := openSession s.chip b
          let txn := nextTxn b s.chip
          let burg := burgee r.slice r.ctx r.cls (deadlineField b.ft (stepDeadline r)) 4
          let b := traceRec 0x04 r.slice r.ctx s.value.toNat (s.fence + s.chip * 2 ^ 16 + txn % 2 ^ 32 * 2 ^ 32) false b
          let b := sendReq 0x04 s.chip (List.replicate 16 0)
            (fsigPayload burg txn s.value.toNat (b.ft + txnNs b / 2) s.fence b.chip false) (.commitSig id s.op) (txnNs b) b
          let s' : Staged := { s with txn := txn, sent := true }
          writeSignal r j s' (b.updRun id fun r => { r with staged := r.staged.map fun x => if x.op = s.op then s' else x })) b

/-- The outcome of every staged signal is known: PHASE becomes COMMITTED, and the run goes on or ends (R286 step 6, R290). -/
def finishCommit (id : Nat) (b : Blk) : Blk :=
  match b.mar.runs.get? id with
  | none => b
  | some r =>
    if r.phase = .committing ∧ r.staged.all fun s => s.outcome.isSome then
      let b := writeJournal r 2 b
      let late := r.period ≠ 0 ∧ r.startFt + r.period < b.ft
      let b := b.marU fun m => { m with steps := m.steps.bump, lateSteps := if late then m.lateSteps.bump else m.lateSteps }
      let b := traceRec 0x07 r.slice r.ctx r.step
        (r.slot.getD 0 + (r.mar.getD 0) * 16 + r.attempt * 256 + r.rows.length * 2 ^ 16 + r.runId * 2 ^ 32) (decide (0 < r.attempt)) b
      let bad := (r.staged.filterMap fun s => s.outcome).find? fun o => o.fails
      let b := b.updRun id fun r => { r with
        committed := r.committed + 1
        step := r.step + 1
        prevStart := some r.startFt
        attempt := 0
        staged := []
        doneOps := []
        liveOps := []
        startedOps := 0
        phase := .boundary }
      match bad with
      | some o => failRun id ⟨o.status, 0, 0⟩ b
      | none =>
        match b.mar.runs.get? id with
        | none => b
        | some r =>
          if r.steps ≠ 0 ∧ r.steps ≤ r.committed then b
          else if isLead b r then boundary id b
          else applyPlan id (b.updRun id fun r => { r with phase := .awaitPlan })
    else b

/-- Commit a step whose operations have all completed (R286). The output rings' HEADs are read first. -/
def commitStep (id : Nat) (b : Blk) : Blk :=
  match b.mar.runs.get? id with
  | none => b
  | some r =>
    let lead := isLead b r
    let seqs := (runSeqs b id).map (·.1)
    match (if lead then readHeads seqs b else (b, true)) with
    | (b, false) => b
    | (b, true) =>
      let b := writeJournal r 1 b
      let b := (List.range r.rows.length).foldl (fun b i => publishRow r lead i (r.rows.getD i 0) b) b
      let b := b.updRun id fun r => { r with phase := .committing }
      finishCommit id (issueStaged id b)

/-- Commits that wait for their signals go on. -/
def settleCommits (b : Blk) : Blk :=
  b.mar.runs.foldl (fun b e => if e.2.phase = .committing then finishCommit e.1 (issueStaged e.1 b) else b) b

/-! ## Rollback (R288, R289, R333) -/

/-- A KCOLL that a rollback covers is paused until its operation starts again. -/
def pauseColls (id k : Nat) (b : Blk) : Blk :=
  (runColls b id).foldl (fun b e => match e.2.owner with
    | .op _ op => if k ≤ op ∧ e.2.key = op + (((b.mar.runs.get? id).map (·.step)).getD 0) % 2 ^ 22 * 1024 then
        b.updColl e.1 fun c => { c with stall := some .replay } else b
    | _ => b) b

/-- A KCOLL starts again after a rollback: everything sent is sent again, every chunk accepted is asked for again, what was
discarded is expected again, and DST is written again (R333). -/
def replayColl (id : Nat) (b : Blk) : Blk :=
  match b.tre.colls.get? id with
  | none => b
  | some c =>
    let b := c.sent.foldl (fun b x => x.dests.foldl (fun b r => sendChunk c x true r b) b) b
    let b := c.accepted.foldl (fun b x => sendRreq c x b) b
    let taken := c.todo.filterMap fun t => match t with
      | .take x _ _ => some x
      | _ => none
    let full (a : Acc) : Bool := a.from'.length == c.size - 1
    let redo := c.accs.filter fun a => !full a
    let keep (x : ChunkId) : Bool := !x.gather && c.kind < 2 && !taken.contains x &&
      (c.isRing || !(redo.any fun a => a.chunk == x.chunk))
    let fresh (a : Acc) : Acc :=
      if full a then a
      else match c.sent.find? fun x => x.id.piece == c.rank && x.id.chunk == a.chunk && !x.id.gather with
        | some x => { a with vals := dequantize c.wireFmt (chunkElems c c.rank a.chunk) x.bytes, from' := [], poison := x.poison }
        | none => { a with from' := [] }
    let own := c.sent.filterMap fun x =>
      if x.poison then none
      else if x.id.gather ∧ x.id.piece = c.rank then
        some (putTask c c.rank x.id.chunk (dstElem c c.rank c.rank x.id.chunk) (dequantize c.wireFmt (chunkElems c c.rank x.id.chunk) x.bytes))
      else if c.kind = 2 ∧ x.id.piece = c.rank ∨ c.kind = 3 then
        some (putTask c x.id.piece x.id.chunk (dstElem c c.rank x.id.piece x.id.chunk)
          (dequantize c.wireFmt (chunkElems c x.id.piece x.id.chunk) x.bytes))
      else none
    let block := if c.kind = 4 then (chunkList c c.rank).map fun k => CollTask.send c.rank k else []
    let scatter := if c.kind = 1 then (c.accs.filter full).map fun a => putTask c c.rank a.chunk (a.chunk * 1024) a.vals else []
    let sends := c.todo.filter fun t => match t with
      | .send p _ => c.kind != 4 || p != c.rank
      | _ => false
    let senders := ((c.expect.filter fun e => !(c.accepted.contains e.1 && keep e.1)).map fun e => e.1.rank).dedup
    let ft := b.ft
    let b := b.updColl id fun c => { c with
      accs := c.accs.map fresh
      accepted := c.accepted.filter keep
      todo := sends ++ block ++ own ++ scatter
      timers := senders.map fun r => (r, ft + c.timeout)
      fail := none
      stall := none
      ended := false }
    b.treU fun t => { t with ended := t.ended.filter fun e => e != (c.group, c.key, c.kcoll) }

end Sys2Proof.Machine
end

