-- ==== Sys2Proof/Machine/LmfOps.lean ====
section
/-! DEFINITION. Operations of LMF: ports going down, moved traffic, link acknowledgement, order of requests, forwarding, and the
election of a time root (R339 to R372). -/

namespace Sys2Proof.Machine

/-- A port is in service only in ACTIVE (R371). -/
def portActive (b : Blk) (n : Nat) : Bool := decide ((b.port n).state = .active)

/-- One single fault absorbed (R428). -/
def absorb (b : Blk) : Blk := b.rcvU fun r => { r with absorbed := r.absorbed.bump }

/-! ## Waiting and moved traffic (R357, R359) -/

/-- Packets of the sending queue that find a port now leave; those past their time are lost, and counted where they were to be
forwarded (R357, R358). -/
def pumpSendq (b : Blk) : Blk :=
  let q := b.lmf.sendq
  q.foldl (fun b e =>
    if e.1 ≤ b.ft then
      (if e.2.src = b.chip then b else b.lmfU fun l => { l with noRoute := l.noRoute.bump })
    else match pickPort (routePorts b e.2.dest) b.lmf.rr with
      | some n => enqueuePort n e.2 (b.lmfU fun l => { l with rr := n })
      | none => b.lmfU fun l => { l with sendq := l.sendq ++ [e] }) (b.lmfU fun l => { l with sendq := [] })

/-- Take every packet that a port holds (R359 step 2). -/
def takeHeld (n : Nat) (b : Blk) : Blk × List Pkt :=
  let po := b.port n
  (b.updPort n fun q => { q with replay := [], queue := [] }, (po.replay.map (·.pkts)).flatten ++ po.queue)

/-- Queue packets again ahead of new traffic, with RESENT set, in their order (R359 step 3). -/
def requeue : List Pkt → Blk → Blk
  | [], b => b
  | p :: rest, b =>
    let b := requeue rest b
    let p := { p with resent := true }
    match pickPort (routePorts b p.dest) b.lmf.rr with
    | some n =>
      let p := if (b.port n).dateline then { p with classB := true } else p
      (b.updPort n fun q => { q with queue := p :: q.queue }).lmfU fun l => { l with rr := n }
    | none => b.lmfU fun l => { l with sendq := (b.ft + l.txnTimeoutUs * 1000, p) :: l.sendq }

/-- Every port sends what it can. -/
def pumpAll (b : Blk) : Blk := b.lmf.ports.foldl (fun b e => pumpPort (e.2.queue.length + 1) e.1 b) b

/-- Move the traffic of a port that leaves service (R359). -/
def moveTraffic (n : Nat) (b : Blk) : Blk :=
  let (b, held) := takeHeld n b
  pumpAll (requeue held b)

/-- A port's link state at the start of a bring-up: sequence numbers, credits and packet counters begin again (R343, R349,
R361). -/
def freshLink (q : Port) : Port :=
  { q with
    txSeq := 0, replay := [], retrySeq := 0, retryCount := 0, tagFailSeq := 0, tagFailRun := 0, rxSeq := 0, rxBytes := []
    rxPos := 63, retrySent := false, lackCount := 0, txCtr := 0, rxCtr := 0, rekeyed := false, keyTx := false, keyRx := false
    creditA := [2048, 2048, 4096], creditB := [2048, 2048, 4096], owed := [0, 0, 0, 0, 0, 0, 0, 0]
    newLanes := none, sentLanes := none }

/-- A port leaves service: its state, then its traffic on other ports (R359). -/
def leaveService (n : Nat) (st : PState) (b : Blk) : Blk :=
  moveTraffic n (b.updPort n fun q => { q with state := st })

/-- The PORT record and event of a port that went down, or left ACTIVE because PORT_EN was cleared (R359, R372, Table 12.2). -/
def portEvent (n cause : Nat) (b : Blk) : Blk :=
  fire 68 noOne (BitVec.ofNat 32 (n + cause * 256)) (traceEvent 4 0x13 noOne noOne (n + cause * 256) 0 b)

/-- A port goes down (R359). -/
def downPort (n cause : Nat) (b : Blk) : Blk :=
  if (b.port n).state = .off ∨ (b.port n).state = .down then b
  else
    let b := b.updPort n fun q => { freshLink q with
      replay := q.replay, state := .down, downCause := cause, downFt := b.ft, lanes := 0, draining := false }
    portEvent n cause (moveTraffic n b)

/-- Start bring-up of a port at CAL. Encryption is off where ENC_OFF is set and the lifecycle state is DEVELOPMENT (R364). -/
def startCal (n : Nat) (b : Blk) : Blk :=
  let off := b.lmf.encOff && b.sec.lifecycle == 0
  (b.updPort n fun q => { freshLink q with state := .cal, encOff := off }).emit (.lasers n true)

/-- A port goes to OFF: its lasers are off. -/
def portOff (n : Nat) (b : Blk) : Blk :=
  (b.updPort n fun q => { freshLink q with state := .off, lanes := 0, draining := false }).emit (.lasers n false)

/-! ## Link acknowledgement (R343, R344) -/

/-- Codewords that a packet takes. -/
def pktCodewords (p : Pkt) : Nat := (pktBytes p + 639) / 640
/-- The SEQ after the last codeword of a kept entry. -/
def Kept.next (k : Kept) : Nat := (k.seq + k.pkts.foldl (fun n p => n + pktCodewords p) 0) % 4096
/-- `a` lies before `b` modulo 4,096, within the window of the replay buffer. -/
def seqBefore (a b : Nat) : Bool := decide ((b + 4096 - a) % 4096 < 2048) && a != b

/-- Release the kept codewords before a SEQ, and send what waited (R343). -/
def releaseBefore (n seq : Nat) (b : Blk) : Blk :=
  let b := b.updPort n fun q =>
    let rest := q.replay.filter fun k => !(seqBefore k.next seq || k.next == seq)
    { q with replay := rest, retryCount := if rest.length < q.replay.length then 0 else q.retryCount }
  pumpPort ((b.port n).queue.length + 1) n b

/-- LACK: every codeword up to and with SEQ has arrived. -/
def recvLack (n seq : Nat) (b : Blk) : Blk := if portActive b n then releaseBefore n ((seq + 1) % 4096) b else b

/-- RETRY: resend from SEQ; the eighth in a row without acknowledgement takes the port down (R344). -/
def recvRetry (n seq : Nat) (b : Blk) : Blk :=
  if portActive b n then
    let b := releaseBefore n seq b
    let po := b.port n
    let count := if po.retrySeq = seq ∧ 0 < po.retryCount then po.retryCount + 1 else 1
    let b := b.updPort n fun q => { q with retries := q.retries.bump, retrySeq := seq, retryCount := count }
    if 8 ≤ count then absorb (downPort n 4 b) else b.emit (.resend n seq)
  else b

/-- Send LACK for what has arrived in order: the codewords before the one in which a packet still unfinished began. -/
def sendLack (n : Nat) (b : Blk) : Blk :=
  let seq := ((b.port n).rxSeq + 8191 - ((b.port n).rxBytes.length + 639) / 640) % 4096
  sendCtl n 0x32 (leBytes 2 seq ++ List.replicate 14 0) [] (b.updPort n fun q => { q with lackFt := b.ft, lackCount := 0 })

/-- Send RETRY with the first SEQ lacked, once until it comes. -/
def sendRetry (n : Nat) (b : Blk) : Blk :=
  if (b.port n).retrySent then b
  else sendCtl n 0x33 (leBytes 2 (b.port n).rxSeq ++ List.replicate 14 0) [] (b.updPort n fun q => { q with retrySent := true })

/-- CREDIT: granules returned per channel and class (Table 10.5). -/
def recvCredit (n : Nat) (p : Pkt) (b : Blk) : Blk :=
  let c (i : Nat) : Nat := field p.payload (2 * i) 2
  let b := b.updPort n fun q => { q with
    creditA := (List.range 3).map fun v => q.creditA.getD v 0 + c (2 * v)
    creditB := (List.range 3).map fun v => q.creditB.getD v 0 + c (2 * v + 1) }
  pumpPort ((b.port n).queue.length + 1) n b

/-! ## Forwarding (R358) -/

/-- Forward a packet whose DEST is another chip, after its check. -/
def forwardPkt (p : Pkt) (b : Blk) : Blk :=
  if p.ttl ≤ 1 then b.lmfU fun l => { l with ttlDrops := l.ttlDrops.bump }
  else sendPkt { p with ttl := p.ttl - 1 } b

/-! ## Order of requests (R352, R353, R355) -/

/-- What is kept of a source. -/
def Blk.src (b : Blk) (s : Nat) : Source := b.lmf.sources.getD s {}
/-- Change what is kept of a source. -/
def Blk.updSrc (b : Blk) (s : Nat) (f : Source → Source) : Blk :=
  b.lmfU fun l => { l with sources := l.sources.set s (f (b.src s)) }

/-- Apply, in TXN order, the held packets of a source that are next (R353). -/
def drainHeld (apply : Pkt → Blk → Blk) : Nat → Nat → Blk → Blk
  | 0, _, b => b
  | fuel + 1, s, b =>
    let k := b.src s
    match k.held.find? fun h => h.1 == k.last + 1 with
    | none => b
    | some h =>
      let b := b.updSrc s fun k => { k with last := h.1, held := k.held.filter fun x => x.1 != h.1 }
      drainHeld apply fuel s (apply h.2.2 b)

/-- The answer to a duplicate FSIG, kept from when it was applied (R166): the FACK's bytes. -/
def keptFack (b : Blk) (src txn : Nat) : Option KeptFsig := (b.fen.kept.getD src []).find? fun k => k.txn == txn

/-- FACK payload (Table 04.6). -/
def fackPayload (txn result : Nat) (after : BitVec 64) (fence : Nat) : Bytes :=
  leBytes 8 txn ++ leBytes 8 after.toNat ++ leBytes 2 fence ++ leBytes 1 result ++ List.replicate 13 0

/-- A duplicate request: an FSIG is answered from what is kept, any other is counted (R355). -/
def duplicate (p : Pkt) (b : Blk) : Blk :=
  if p.typ = 0x04 then
    match keptFack b p.src p.txn with
    | some k => sendPkt { typ := 0x13, vc := 1, resent := false, classB := false, ttl := 15, dest := p.src, src := b.chip,
                          txn := p.txn, spec := List.replicate 16 0,
                          payload := fackPayload p.txn k.result k.valueAfter (field p.payload 0x20 2), rsvd := true }
        (b.fenU fun f => { f with dupDropped := f.dupDropped.bump })
    | none => b
  else b.lmfU fun l => { l with dupReq := l.dupReq.bump }

/-- A SESSION with a later JOIN_FT: what was kept of the source is forgotten and its sequence starts again (R352). -/
def recvSession (p : Pkt) (b : Blk) : Blk :=
  let join := field p.payload 0 8
  if p.txn = 1 ∧ (b.lmf.sources.has p.src = false ∨ (b.src p.src).joinFt < join) then
    (b.updSrc p.src fun _ => { last := 1, joinFt := join, held := [] }).fenU fun f => { f with kept := f.kept.del p.src }
  else duplicate p b

/-- A request-channel packet for this chip: applied in TXN order, held, or a duplicate (R353, R355). -/
def recvReq (apply : Pkt → Blk → Blk) (p : Pkt) (b : Blk) : Blk :=
  if p.typ = 0x08 then
    let b := recvSession p b
    drainHeld apply ((b.src p.src).held.length + 1) p.src b
  else
    let k := b.src p.src
    if p.txn ≤ k.last then duplicate p b
    else if p.txn = k.last + 1 then
      let b := apply p (b.updSrc p.src fun k => { k with last := p.txn })
      drainHeld apply ((b.src p.src).held.length + 1) p.src b
    else if k.held.any fun h => h.1 == p.txn then duplicate p b
    else b.updSrc p.src fun k => { k with held := insertOn (·.1) (p.txn, b.ft, p) k.held }

/-- Missing TXNs below the first packet held for the transaction timeout are skipped and counted (R353). -/
def skipGap (apply : Pkt → Blk → Blk) (s : Nat) (b : Blk) : Blk :=
  let k := b.src s
  match k.held.find? fun h => decide (h.2.1 + txnNs b ≤ b.ft) with
  | none => b
  | some _ =>
    let due := (k.held.filter fun h => decide (h.2.1 + txnNs b ≤ b.ft)).foldl (fun m h => max m h.1) 0
    let below := (k.held.filter fun h => decide (h.1 < due)).length
    let gaps := due - 1 - k.last - below
    let first := k.held.filter fun h => decide (h.1 ≤ due)
    let b := b.lmfU fun l => { l with txnGaps := l.txnGaps.add gaps }
    let b := first.foldl (fun b h =>
      apply h.2.2 (b.updSrc s fun k => { k with last := h.1, held := k.held.filter fun x => x.1 != h.1 })) b
    returnAll (drainHeld apply (k.held.length + 1) s b)

/-! ## Responses (R347, R354) -/

/-- The outstanding request that a response answers. -/
def answered (b : Blk) (src txn : Nat) : Option Request' := b.lmf.outstanding.find? fun r => r.dest == src && r.txn == txn

/-- The request is no longer outstanding. -/
def dropRequest (dest txn : Nat) (b : Blk) : Blk :=
  b.lmfU fun l => { l with outstanding := l.outstanding.filter fun r => !(r.dest == dest && r.txn == txn) }

/-- The request is lost: nobody waits for its response any more (R354). -/
def forgetRequest (dest txn : Nat) (b : Blk) : Blk := (dropRequest dest txn b).lmfU fun l => { l with lost := l.lost ++ [(dest, txn)] }

/-- A response that answers nothing outstanding is discarded: that to a lost request is counted, that to a request already answered is
not (R354, R355). -/
def lateResp (src txn : Nat) (b : Blk) : Blk :=
  if b.lmf.lost.contains (src, txn) then b.lmfU fun l => { l with lateResp := l.lateResp.bump } else b

/-! ## The time root (R367 to R370) -/

/-- A root as a measure: the lower priority is better, then the lower chip number. -/
def rootKey (prio chip : Nat) : Nat := prio * 1024 + chip

/-- Ports in service whose last Kite is recent enough to follow. -/
def heardPorts (b : Blk) : List (Nat × Port) :=
  b.lmf.ports.filter fun e => e.2.state == .active && !e.2.draining &&
    (e.2.kiteFt.any fun t => decide (b.ft < t + 16000)) && decide (e.2.kitePrio < 255)

/-- The upstream port toward a root: lowest stratum, then DELAY, then number (R367). -/
def upstreamFor (b : Blk) (key : Nat) : Option (Nat × Port) :=
  (sortOn (fun e => (e.2.kiteStratum * 65536 + e.2.delay) * 32 + e.1)
    ((heardPorts b).filter fun e => rootKey e.2.kitePrio e.2.kiteRoot == key)).head?

/-- Elect a root and an upstream port from what is heard and from this chip's own offer (R367). -/
def elect (b : Blk) : Blk :=
  let own := if b.lmf.rootPrio < 255 then [rootKey b.lmf.rootPrio b.chip] else []
  let keys := own ++ (heardPorts b).map fun e => rootKey e.2.kitePrio e.2.kiteRoot
  match keys with
  | [] => b.lmfU fun l => { l with stratum := 15, followPrio := 255 }
  | k :: ks =>
    let best := ks.foldl min k
    if own.contains best then
      b.lmfU fun l => { l with stratum := 0, rootChip := b.chip, followPrio := l.rootPrio, ftState := .locked, slew := 0 }
    else match upstreamFor b best with
      | some (n, q) => b.lmfU fun l => { l with
          stratum := min 15 (q.kiteStratum + 1), rootChip := q.kiteRoot, followPrio := q.kitePrio, upstream := n }
      | none => b

/-- Enter HOLDOVER, with its event (R370). -/
def holdover (b : Blk) : Blk :=
  if b.lmf.ftState = .holdover then b
  else fire 71 noOne 0 (b.lmfU fun l => { l with ftState := .holdover, slew := 0 })

/-- Take time from a Kite of the upstream port (R368, R370). Times are in quarter nanoseconds. -/
def followKite (n txFt frac : Nat) (b : Blk) : Blk :=
  let at' := txFt * 4 + frac + (b.port n).delay
  if b.pwr.ready = false ∧ b.lmf.joined = false then
    let b := traceRec 0x14 noOne noOne b.ft 0 false b
    let b := { b with ft := at' / 4 }
    b.lmfU fun l => { l with ftState := .locked, joined := true, joinFt := at' / 4, slew := 0, txn := [], lost := [], lastRootKite := at' / 4 }
  else
    let e : Int := (at' : Int) - (b.ft * 4 : Int)
    if b.pwr.ready ∧ (4000000 < e ∨ e < -4000000) then
      fire 72 noOne (BitVec.ofNat 32 n) (holdover b)
    else b.lmfU fun l => { l with ftState := .locked, slew := e / 4, lastRootKite := b.ft }

end Sys2Proof.Machine
end

