-- ==== Sys2Proof/Machine/Teardown.lean ====
section
/-! DEFINITION. What goes on by itself once something has ended: items abort, contexts tear down, slices drain, ownership moves
(R134 to R139, R120, R121), and the one pass that settles all of it. -/

namespace Sys2Proof.Machine

/-! ## Aborting items (Table 03.13) -/

/-- No item: a sequence whose SEQ_JOIN has ended. -/
def noItem : Nat := 2 ^ 32

/-- A SEQ_JOIN that ends takes its sequence out of its run: at once while WAITING, at the next boundary else. -/
def dropSeqItem (i : Nat) (b : Blk) : Blk :=
  let b := b.marU fun m => { m with
    runs := m.runs.mapVals fun _ r => { r with waiting := r.waiting.filter fun w => w.item != i }
    leftWaits := m.leftWaits.filter fun k => (m.seqs.get? k).all fun s => s.item != i }
  let waitingLeft := b.mar.seqs.filter fun e => e.2.item == i && (b.mar.runs.has e.2.run == false)
  let b := b.marU fun m => { m with seqs := m.seqs.keep fun k _ => waitingLeft.all fun e => e.1 != k }
  b.marU fun m => { m with seqs := m.seqs.mapVals fun _ s =>
    if s.item = i then { s with item := noItem, state := .leaving, reason := if s.state = .leaving then s.reason else 3 } else s }

/-- A SEQ_LEAVE no longer waits. -/
def dropLeave (i : Nat) (b : Blk) : Blk :=
  b.marU fun m => { m with runs := m.runs.mapVals fun _ r =>
    { r with leaves := r.leaves.map fun l => if l.1 = i then (noItem, l.2) else l } }

/-- The run of a STEP_RUN item. -/
def runOfItem (b : Blk) (i : Nat) : Option Nat := (b.mar.runs.find? fun e => e.2.item == i).map (·.1)
/-- The single-engine works of an item. -/
def worksOf (b : Blk) (i : Nat) : List Nat := (b.tre.works.filter fun e => e.2.owner == .item i).map (·.1)
/-- The collective of an item. -/
def collOf (b : Blk) (i : Nat) : Option Nat := (b.tre.colls.find? fun e => e.2.owner == .item i).map (·.1)

/-- Stop an item in flight with a result (Table 03.13). Signals, ALLOC, FREE and MODEL_PIN that have started complete as they
end; an ended item keeps its result. -/
def abortItem (i : Nat) (r : Result) (b : Blk) : Blk :=
  match b.items.get? i with
  | none => b
  | some it =>
    if it.result.isSome then b
    else if it.started = false then endItem i r b
    else match it.opcode with
      | 0x01 =>
        let ls := launchesOf b (.item i)
        if ls.isEmpty then endItem i r b else ls.foldl (fun b l => stopLaunch l r b) b
      | 0x04 => match collOf b i with
        | some c => drainStaging (failColl c r b)
        | none => endItem i r b
      | 0x06 => b
      | 0x07 => endItem i r (dropWait i b)
      | 0x08 =>
        let b := (worksOf b i).foldl (fun b w => dropWork w b) b
        endItem i r (b.schU fun s => { s with flush := s.flush.filter fun f => f.item != i })
      | 0x09 => endItem i r (leaveLoad i b)
      | 0x0A => b
      | 0x0B => match runOfItem b i with
        | some k => closeRun k 5 (fun _ => r) b
        | none => endItem i r b
      | 0x0C => endItem i r (dropSeqItem i b)
      | 0x0D => endItem i r (dropLeave i b)
      | 0x0E => b
      | 0x0F => b
      | _ => endItem i r ((worksOf b i).foldl (fun b w => dropWork w b) b)

/-! ## Fetches and queues of a context -/

/-- Drop the fetch in progress of an SQ; its CQ reservations return. -/
def dropFetch (key : Nat) (b : Blk) : Blk :=
  match b.queues.get? key with
  | none => b
  | some q =>
    match q.fetch with
    | none => b
    | some f =>
      let slice := key / 512
      let slot := key % 512
      let b := dropHolds (.qfe key) (b.updQueue key fun q => { q with fetch := none, paused := false })
      let b := b.updQueue (qkey slice q.cq) fun c => { c with reserved := c.reserved - f.count }
      let b := b.hluU fun h => { h with reads := h.reads.filter fun r => r.why != .fetch slice slot }
      let b := b.lmfU fun l => { l with outstanding := l.outstanding.filter fun r => r.why != .fetch slice slot }
      b.xltU fun x => { x with
        atsWaits := x.atsWaits.filter fun w => w.stream != .fetch slice slot
        batches := x.batches.map fun t => { t with
          pages := t.pages.map fun p => { p with streams := p.streams.filter fun s => s != .fetch slice slot } } }

/-- The SQs of a context. -/
def ctxQueues (b : Blk) (c : Nat) : List Nat := (b.queues.filter fun e => e.2.isSq && e.2.ctx == c).map (·.1)

/-- An SQ that has drained becomes FREE (R58). -/
def freeQueue (key : Nat) (b : Blk) : Blk := { b with queues := b.queues.del key }

/-- The drain of a Q_CMD that ended: the slot is FREE and BUSY clears (R58). -/
def drainEnd (slice slot : Nat) (b : Blk) : Blk :=
  match b.queues.get? (qkey slice slot) with
  | none => if (b.view slice).qOp = some (.drain slot) then b.updView slice fun v => { v with qOp := none, qResult := 0 } else b
  | some q =>
    if q.isSq ∧ q.draining ∧ (b.view slice).qOp = some (.drain slot) ∧ (sqItems b slice slot).isEmpty ∧ q.fetch = none then
      (freeQueue (qkey slice slot) b).updView slice fun v => { v with qOp := none, qResult := 0 }
    else b

/-! ## Withdrawal of Pennant records (R403) -/

/-- Clear a context's sources and rewrite its unclaimed records as source 8,191. -/
def withdrawCtx (c : Nat) (b : Blk) : Blk :=
  let hit (s : Source') : Bool := s.pending && s.ctx == c && !s.mixed && c != noOne
  let clear (s : Source') : Source' := if hit s then { s with count := 0, sat := false, pending := false, mixed := false } else s
  let n := (b.evc.sources.filter fun e => hit e.2).length + (b.evc.banked.filter fun e => hit e.2).length
  let recs := b.evc.shadow.filter fun s => s.ctx == c
  let b := b.evcU fun v => { v with
    sources := v.sources.mapVals fun _ s => clear s
    banked := v.banked.mapVals fun _ s => clear s
    shadow := v.shadow.filter fun s => s.ctx != c
    withdrawn := v.withdrawn.add (n + recs.length) }
  recs.foldl (fun b s =>
    let v := b.view s.slice
    let phase := if s.slot ≤ v.pnTail then v.pnPhase else !v.pnPhase
    let now : Bytes := leBytes 2 (8191 + if phase then 0x8000 else 0) ++ [0, 0]
    -- a record that still waits on the fault path is rewritten before it is written
    if s.slot = v.pnTail ∧ b.evc.faulted.any (fun f => f.1 == s.slice) then
      b.evcU fun v => { v with faulted := v.faulted.map fun f => if f.1 = s.slice then (f.1, f.2.1, overlay f.2.2 0 now) else f }
    else ctlWriteLater s.slice 0 (v.pnBase + 16 * s.slot) now b) b

/-! ## Destroying a context (R134) -/

/-- Destruction begins, or waits for the transition or the reset in progress (R138, R426). Every in-flight item ends with `r`. -/
def beginDestroy (c : Nat) (by' : DestroyBy) (b : Blk) : Blk :=
  match b.contexts.get? c with
  | none => b
  | some e =>
    let b := b.updContext c fun x => { x with destroyFt := if e.destroyNext.isSome then x.destroyFt else b.ft }
    if e.state = .restoring ∨ e.state = .spilling ∨ e.resetNext = some 1 then
      b.updContext c fun e => { e with destroyNext := some by' }
    else
      let b := if b.ctx.pinWait = some c then
          b.ctxU fun x => { x with pinWait := none, busy := false, result := 0x12, resultId := 0 } else b
      let b := b.updContext c fun e => { e with
        state := .destroying, phase := 1, by' := by', admitting := false, destroyNext := none, resetNext := none }
      let b := b.ctxU fun x => { x with
        admitQ := x.admitQ.filter (· ≠ c)
        restoreQueue := x.restoreQueue.filter (· ≠ c)
        pairs := x.pairs.filter fun p => p.1 != c }
      let b := (ctxQueues b c).foldl (fun b q => dropFetch q (b.updQueue q fun q => { q with draining := true })) b
      let b := dropRecords c b
      let b := (b.items.filter fun e => e.2.ctx == c).foldl (fun b e => abortItem e.1 abortResult b) b
      syncContext c b

/-- The command that asked for a destruction ends (R134 step 7). -/
def destroyDone (by' : DestroyBy) (slice : Nat) (b : Blk) : Blk :=
  match by' with
  | .manager => b.ctxU fun x => { x with busy := false, result := 0, resultId := 0 }
  | .view => b.updView slice fun v => { v with vBusy := false, vResult := 0 }
  | .slice => b

/-- Work groups of a context are on some core. -/
def ctxOnCores (b : Blk) (c : Nat) : Bool := b.sch.cores.any fun k => k.2.ctx == some c && !k.2.groups.isEmpty

/-- One step of a teardown, where its condition holds (R134 steps 2 to 7). -/
def stepTeardown (c : Nat) (b : Blk) : Blk :=
  match b.contexts.get? c with
  | none => b
  | some e =>
    if e.state ≠ .destroying then b
    else match e.phase with
      | 1 =>
        if ctxInflight b c = 0 ∧ ctxOnCores b c = false then
          let fs := (b.fen.fences.filter fun f => f.2.creator == c).map (·.1)
          fs.foldl (fun b f => abandonFence f b) (b.updContext c fun e => { e with phase := 3 })
        else b
      | 3 =>
        if b.fen.fences.any fun f => f.2.creator == c then b
        else
          let b := withdrawCtx c b
          let targets := ((rangesOf b e.slice).filter fun r => r.2.creator == c && !r.2.peer && r.2.valid).map fun r =>
            Target.range e.slice r.1
          let b := b.updContext c fun e => { e with phase := 5 }
          if targets.isEmpty then b else startInval e.slice targets false (.teardown c) b
      | 5 =>
        if b.xlt.invals.any fun v => v.why == .teardown c then b
        else if (rangesOf b e.slice).any fun r => r.2.creator == c && !r.2.peer then b
        else
          let b := (ctxQueues b c).foldl (fun b q => freeQueue q b) b
          let b := { b with contexts := b.contexts.del c }
          destroyDone e.by' e.slice (syncContext c b)
      | _ => b

/-! ## Ownership moves (R120, R121, R139 step 6) -/

/-- What a push waits for: a GRANT, a RECLAIM, or the drain of a slice. -/
def pushGrant : Nat := 1
/-- A RECLAIM. -/
def pushReclaim : Nat := 2
/-- The drain of a slice. -/
def pushDrain (slice : Nat) : Nat := 3 + slice

/-- Fills of an owner are under way. -/
def fillsOf (b : Blk) (o : WorkOwner) : Bool := b.tre.works.any fun e => e.2.owner == o
/-- Pushes for a purpose are under way. -/
def pushesOf (b : Blk) (why : Nat) : Bool := b.own.pushes.any fun p => p.why == some why

/-- The granules of a span of pages of a space. -/
def pageSpan (space page n : Nat) : List Nat := rangeFrom (space * 2 ^ 30 + page) n

/-- Fills that have ended leave their engines. -/
def dropFills (b : Blk) : Blk :=
  b.tre.works.foldl (fun b e => match e.2.owner with
    | .grantFill | .reclaimFill | .drainFill _ | .lwaFill _ => if e.2.total ≤ e.2.next then dropWork e.1 b else b
    | _ => b) b

/-- A GRANT goes on once its fill has ended: the pages are scrubbed and their new owner is pushed; it completes when the push
is acknowledged (R120). -/
def stepGrant (b : Blk) : Blk :=
  match b.own.grant with
  | none => b
  | some (slice, space, page, n) =>
    if fillsOf b .grantFill ∨ pushesOf b pushGrant then b
    else
      let gs := pageSpan space page n
      if gs.all fun g => b.own.owner.get? g == some slice then
        let add (x : Slice) : Slice := if space = 0 then { x with hbmGranted := x.hbmGranted + n } else { x with spGranted := x.spGranted + n }
        let p := slicePart b slice
        let b := b.updSlice slice add
        let b := { b with partitions := b.partitions.upd p fun x =>
          (if space = 0 then { x with hbmGranted := x.hbmGranted + n } else { x with spGranted := x.spGranted + n }) }
        let b := b.ownU fun o => { o with grant := none }
        (syncPartition p (syncSlice slice b)).ctxU fun x => { x with busy := false, result := 0, resultId := 0 }
      else
        let b := b.ownU fun o => { o with scrubbed := gs.foldl (fun t g => t.set g ()) o.scrubbed }
        pushOwner gs (some slice) (some pushGrant) b

/-- A RECLAIM goes on once its fill has ended: "no owner" is pushed for its pages (R121). -/
def stepReclaim (b : Blk) : Blk :=
  match b.own.reclaim with
  | none => b
  | some (slice, space, page, n) =>
    if fillsOf b .reclaimFill ∨ pushesOf b pushReclaim then b
    else
      let gs := pageSpan space page n
      if gs.all fun g => (b.own.owner.get? g).isNone then
        let sub (x : Slice) : Slice := if space = 0 then { x with hbmGranted := x.hbmGranted - n } else { x with spGranted := x.spGranted - n }
        let p := slicePart b slice
        let b := b.updSlice slice sub
        let b := { b with partitions := b.partitions.upd p fun x =>
          (if space = 0 then { x with hbmGranted := x.hbmGranted - n } else { x with spGranted := x.spGranted - n }) }
        let b := b.ownU fun o => { o with reclaim := none }
        (syncPartition p (syncSlice slice b)).ctxU fun x => { x with busy := false, result := 0, resultId := 0 }
      else
        let b := b.ownU fun o => { o with scrubbed := gs.foldl (fun t g => t.set g ()) o.scrubbed }
        pushOwner gs none (some pushReclaim) b

/-! ## Destroying a slice (R139) -/

/-- Answer a slice's outstanding page requests with a failure and drop its streams (R139 step 4). -/
def failRequests (slice : Nat) (b : Blk) : Blk :=
  let mine := b.xlt.batches.filter fun t => t.slice == slice
  let b := mine.foldl (fun b t => match t.prg with
    | some g => b.emit (.pageRequestFail t.fn g)
    | none => b) b
  b.xltU fun x => { x with
    batches := x.batches.filter fun t => t.slice != slice
    atsWaits := x.atsWaits.filter fun w => w.slice != slice
    recordWaits := x.recordWaits.filter fun w => w.slice != slice
    acc := x.acc.filter fun a => a.slice != slice
    dirty := x.dirty.del slice
    misses := x.misses.filter fun m => m.slice != slice }

/-- The slice's part in EVC ends (R405). -/
def dropEvents (slice : Nat) (b : Blk) : Blk :=
  b.evcU fun v => { v with
    banked := v.banked.keep fun k _ => k / 16 != slice
    shadow := v.shadow.filter fun s => s.slice != slice
    faulted := v.faulted.filter fun f => f.1 != slice
    sources := v.sources.mapVals fun n s =>
      if s.assigned ∧ s.owner = slice ∧ 256 ≤ n then
        { s with assigned := false, enabled := false, pending := false, count := 0, sat := false, mixed := false }
      else s }

/-- The slice's key handles are erased and it is unbound; the slot keeps its GEN (R440). -/
def dropKeys (slice : Nat) (b : Blk) : Blk :=
  b.secU fun s => { s with sliceKeys := s.sliceKeys.upd slice fun k =>
    { k with key := none, bound := false, holdKey := false, fails := 0 } }

/-- The pool of a slice as runs of pages: first granule and pages. -/
def poolRuns (b : Blk) (slice : Nat) : List (Nat × Nat) :=
  runsOf ((b.own.owner.filter fun e => e.2 == slice).map (·.1))

/-- The physical address of a granule. -/
def granulePa (b : Blk) (g : Nat) : Nat := mkPa b (g / 2 ^ 30) (g % 2 ^ 30 * 65536)

/-- One step of a slice's drain, where its condition holds (R139). -/
def stepDrain (s : Nat) (b : Blk) : Blk :=
  match b.slices.get? s with
  | none => b
  | some e =>
    match e.drainPhase with
    | 1 =>
      match b.contexts.find? fun c => c.2.slice == s with
      | some (c, x) => if x.state = .destroying ∨ x.destroyNext.isSome then b else beginDestroy c .slice b
      | none =>
        let b := b.treU fun t => { t with groups := t.groups.keep fun _ g => g.slice != s }
        let b : Blk := { b with queues := b.queues.keep fun k _ => k / 512 != s }
        let b := dropModels s b
        let b := failRequests s b
        let pages := (b.xlt.hostCache.filter fun h => h.slice == s).map fun h => Target.page s h.hva
        let ranges := ((rangesOf b s).filter fun r => r.2.valid).map fun r => Target.range s r.1
        let b := b.updSlice s fun e => { e with drainPhase := 4 }
        if pages.isEmpty ∧ ranges.isEmpty then b else startInval s (ranges ++ pages) false (.drain s) b
    | 4 =>
      if b.xlt.invals.any fun v => v.slice == s then b
      else
        let b := dropKeys s b
        let b := b.updSlice s fun e => { e with drainPhase := 6 }
        (poolRuns b s).foldl (fun b r =>
          addWork (.drainFill s) (.fill (granulePa b r.1) (r.2 * 65536)) s noOne 6 none (r.2 * 65536) b) b
    | 6 =>
      if fillsOf b (.drainFill s) then b
      else
        let gs := (b.own.owner.filter fun o => o.2 == s).map (·.1)
        let b := b.ownU fun o => { o with scrubbed := gs.foldl (fun t g => t.set g ()) o.scrubbed }
        let b := b.updSlice s fun e => { e with drainPhase := 7 }
        if gs.isEmpty then b else pushOwner gs none (some (pushDrain s)) b
    | 7 =>
      if pushesOf b (pushDrain s) then b
      else
        let b := dropEvents s b
        let b : Blk := { b with
          partitions := b.partitions.upd e.part fun p => { p with
            hbmGranted := p.hbmGranted - e.hbmGranted, spGranted := p.spGranted - e.spGranted }
          slices := b.slices.del s
          views := b.views.del s
          pages := b.pages.del (pgView s) }
        let b := b.xltU fun x => { x with ranges := x.ranges.del s, rangeCache := x.rangeCache.filter fun c => c.1 != s }
        (syncPartition e.part (syncSlice s b)).ctxU fun x => { x with busy := false, result := 0, resultId := 0 }
    | _ => b

end Sys2Proof.Machine
end

