-- ==== Sys2Proof/Machine/RegRead.lean ====
section
/-! DEFINITION. What each register word of the window reads as (Tables 01.6, 02.2, 02.25, 03.2, 03.10, 04.3, 04.10, 06.9, 06.12,
07.8, 08.17, 08.18, 09.12, 10.12, 11.3, 11.4, 12.7 to 12.10, 13.9, 14.12 to 14.14, 15.4, 15.5, 16.1, 16.5, 16.6), without a side
effect: what a dump reads (R431), and what a reader gets where no latch or lock is concerned. Write-only and reserved bits
read as zero (R7). -/

namespace Sys2Proof.Machine

/-- A field of `w` bits at `lo`. -/
def fld (v lo w : Nat) : Nat := v % 2 ^ w * 2 ^ lo
/-- A one-bit field. -/
def flg (x : Bool) (lo : Nat) : Nat := if x then 2 ^ lo else 0
/-- The lower word of a 64-bit value. -/
def lo32 (v : Nat) : Nat := v % 2 ^ 32
/-- The upper word of a 64-bit value. -/
def hi32 (v : Nat) : Nat := v / 2 ^ 32 % 2 ^ 32
/-- The word of a counter. -/
def ctrWord (c : Ctr) : Nat := c.word.toNat

/-! ## Pages (Tables 16.1, 16.3) -/

/-- A page of a unit: its unit code, index, frames, flags and how many pages the unit has. -/
structure PageInfo where
  unit : Nat
  index : Nat := 0
  frames : Nat := 1
  setclr : Bool := false
  ao : Bool := false
  secure : Bool := false
  pages : Nat := 1
deriving DecidableEq, Repr

/-- The unit pages of the window, by their first page number. -/
def unitPages : Tab PageInfo :=
  [(pgGEN, { unit := 0x01 }), (pgPWR, { unit := 0x02, ao := true }), (pgSEC, { unit := 0x03, ao := true, secure := true }),
   (pgHLU, { unit := 0x10 }), (pgQFE, { unit := 0x11 }), (pgCTX, { unit := 0x12 }), (pgFEN, { unit := 0x13 }),
   (pgEVC, { unit := 0x14, frames := 5, setclr := true, ao := true }),
   (pgMBX, { unit := 0x15, ao := true, pages := 4 }), (pgMBX + 1, { unit := 0x15, index := 1, ao := true, pages := 4 }),
   (pgMBX + 2, { unit := 0x15, index := 2, ao := true, secure := true, pages := 4 }),
   (pgMBX + 3, { unit := 0x15, index := 3, ao := true, secure := true, pages := 4 }),
   (pgSCH, { unit := 0x20 }), (pgMAR, { unit := 0x21 }), (pgMDL, { unit := 0x22 }), (pgXLT, { unit := 0x23 }),
   (pgTRE, { unit := 0x24 }), (pgBWR, { unit := 0x25, frames := 3 }), (pgLMF, { unit := 0x30, frames := 5 }),
   (pgRCV, { unit := 0x40 }), (pgTRC, { unit := 0x41, frames := 8 })]

/-- The page that a window offset lies in, with its first page number, and the offset within it. A view page is page 4,096 + s. -/
def pageAt (off : Nat) : Option (Nat × PageInfo × Nat) :=
  let f := off / 4096
  (unitPages.find? fun e => decide (e.1 ≤ f) && decide (f < e.1 + e.2.frames)).map fun e => (e.1, e.2, off - e.1 * 4096)

/-- The offset lies in some unit's range (Table 16.3). -/
def inUnitRange (off : Nat) : Bool := decide (off < 0x220000)

/-- FREEZE of a page needs this debug level (R489). -/
def freezeLevel (pg : Nat) : Nat := if securePage pg then 3 else 2

/-- PG_OWNER of a unit page. -/
def ownerWord (b : Blk) (pg : Nat) : Nat :=
  (if securePage pg then 0x8000 else 0x5000) + flg (debugWrites b pg) 16

/-- A record waits for room in the teardown log (R137). -/
def tdWaits (b : Blk) : Bool :=
  !tdRoom b && (!b.rcv.blockLog.isEmpty ||
    b.items.any fun e => ctxDestroying b e.2.ctx && e.2.result.isSome && e.2.complWait && e.2.stall == none)

/-- The unit's own status bits of PG_STATUS: READY, TD_FULL. -/
def unitStatus (b : Blk) (pg : Nat) : Nat :=
  if pg = pgGEN then flg b.pwr.ready 0 else if pg = pgCTX then flg (tdWaits b) 0 else 0

/-- A header word of a page. -/
def hdrWord (b : Blk) (pg ident caps status owner rel : Nat) : Nat :=
  let h := b.hdr pg
  match rel with
  | 0x00 => ident
  | 0x04 => caps
  | 0x08 => flg h.freeze 0
  | 0x0C => status + flg (h.err.val != 0) 16 + flg h.freeze 17 + flg h.selftestFail 18
  | 0x10 => h.errCode.toNat + fld h.errFt.toNat 8 24
  | 0x14 => ctrWord h.err
  | 0x18 => owner
  | 0x1C => flg h.locked 0
  | _ => 0

/-- A header word of a unit page. -/
def unitHdr (b : Blk) (pg : Nat) (i : PageInfo) (rel : Nat) : Nat :=
  hdrWord b pg (i.index + 0x100 + i.unit * 2 ^ 24)
    (fld (i.frames - 1) 0 4 + flg i.setclr 4 + flg i.ao 6 + flg i.secure 7 + i.pages * 256) (unitStatus b pg) (ownerWord b pg) rel

/-! ## Unit registers -/

/-- GEN (Table 01.6). -/
def genWord (b : Blk) : Nat → Nat
  | 0x40 => 0x5A311012
  | 0x44 => b.chip
  | 0x48 => lo32 b.ft
  | 0x4C => hi32 b.ft
  | _ => 0

/-- PWR (Table 14.12). PSTATE shows 2 and 3 to the debug port alone, the only reader then. -/
def pwrWord (b : Blk) : Nat → Nat
  | 0x40 => b.pwr.pstate
  | 0x48 => b.pwr.presult + flg b.pwr.pbusy 31
  | 0x4C => b.pwr.idleB1Us
  | 0x50 => b.pwr.refuse.toNat
  | 0x54 => lo32 b.pwr.wakeAt
  | 0x58 => hi32 b.pwr.wakeAt
  | 0x5C => b.pwr.wakeCause + fld b.pwr.wakeLine 8 6
  | 0x60 => flg b.pwr.retained.sealed' 0 + flg b.pwr.rsValid 1
  | 0x64 => b.pwr.startKind
  | 0x68 => lo32 b.pwr.readyFt
  | 0x6C => hi32 b.pwr.readyFt
  | 0x70 => ctrWord b.pwr.b1Entries
  | 0x74 => ctrWord b.pwr.b2Entries
  | _ => 0

/-- A bound slice is held (R441). -/
def sliceHeld (b : Blk) (s : Nat) : Bool :=
  (b.sec.sliceKeys.get? s).any fun k => k.bound && (k.holdKey || decide (2 ≤ b.sec.dbgLevel))

/-- KEY_STATUS of a slice slot. -/
def keyStatus (b : Blk) (slot : Nat) : Nat :=
  let k := b.sec.sliceKeys.getD slot {}
  flg k.key.isSome 0 + flg k.bound 3 + flg k.holdKey 4 + flg (k.bound && decide (2 ≤ b.sec.dbgLevel)) 5 + fld k.gen 8 8

/-- KEY_STATUS of a link slot: the bank in use, whether it and the other hold a key. -/
def linkStatus (b : Blk) (p : Nat) : Nat :=
  let k := b.sec.linkKeys.getD p {}
  let bank := (b.port p).keyBank
  let here := if bank = 0 then k.bank0 else k.bank1
  let other := if bank = 0 then k.bank1 else k.bank0
  flg here.isSome 0 + fld bank 1 1 + flg other.isSome 2 + fld k.gen 8 8

/-- SEC (Table 14.13). -/
def secWord (b : Blk) : Nat → Nat
  | 0x40 => b.sec.lifecycle + flg b.sec.identOk 2
  | 0x44 => b.sec.securePasid
  | 0x48 => b.sec.dbgLevel + fld b.sec.dbgFails 8 8 + flg b.sec.chal.isSome 16 + flg b.sec.lockoutFt.isSome 17
  | 0x4C => bits b.sec.chalWords.toNat 0 32
  | 0x50 => bits b.sec.chalWords.toNat 32 32
  | 0x54 => bits b.sec.chalWords.toNat 64 32
  | 0x58 => bits b.sec.chalWords.toNat 96 32
  | 0x5C => b.sec.keySel + flg b.sec.keySelLink 12
  | 0x60 => if b.sec.keySelLink then linkStatus b (b.sec.keySel % 32) else keyStatus b b.sec.keySel
  | 0x64 => b.sec.alarmMask.toNat
  | 0x68 => b.sec.alarmTripped.toNat
  | 0x6C => b.sec.alarmSensor + fld b.sec.alarmClass 8 2 + fld b.sec.alarmSlice 12 12
  | 0x70 => lo32 b.sec.alarmFt
  | 0x74 => hi32 b.sec.alarmFt
  | 0x78 => ctrWord b.sec.erasures
  | _ => 0

/-- HLU (Table 16.5). -/
def hluWord (b : Blk) : Nat → Nat
  | 0x40 => b.hlu.cplToMs
  | 0x44 => b.hlu.lostFn
  | 0x48 => ctrWord b.hlu.flushReads
  | 0x4C => ctrWord b.hlu.storesLost
  | 0x50 => ctrWord b.hlu.readErrs
  | _ => 0

/-- QFE (Table 16.6). -/
def qfeWord (b : Blk) : Nat → Nat
  | 0x40 => b.items.length
  | 0x44 => b.queues.count fun _ q => q.isSq
  | 0x48 => b.queues.count fun _ q => !q.isSq
  | 0x4C => ctrWord b.qfe.fetched
  | 0x50 => ctrWord b.qfe.dbDrops
  | _ => 0

/-- CTX (Table 03.2). -/
def ctxWord (b : Blk) : Nat → Nat
  | 0x40 => lo32 b.ctx.base
  | 0x44 => hi32 b.ctx.base
  | 0x48 => flg b.ctx.tablesEn 0
  | 0x50 => lo32 b.ctx.cmd
  | 0x54 => hi32 b.ctx.cmd
  | 0x5C => b.ctx.result + fld b.ctx.resultId 8 16 + flg b.ctx.busy 31
  | 0x60 => lo32 b.ctx.td
  | 0x64 => hi32 b.ctx.td
  | 0x68 => b.ctx.tdLog2
  | 0x6C => b.ctx.tdHead + fld b.ctx.tdTail 16 16
  | 0x70 => (b.contexts.count fun _ c => c.state == .resident) + fld (b.contexts.count fun _ c => c.pinned) 16 12
  | 0x74 => b.ctx.admitQ.length
  | 0x78 => ctrWord b.ctx.spills
  | _ => 0

/-- The manager's view of a fence: the word at 0x064, and the value (R171). -/
def managerFence (b : Blk) (f : Nat) : W32 × Nat :=
  match b.fen.fences.get? f with
  | none => (0, 0)
  | some e => (BitVec.ofNat 32 (e.owner + (if e.abandoning then 2 else 1) * 2 ^ 12 + (if e.abandoned then 2 ^ 14 else 0) +
      (if hasWaiter b f then 2 ^ 15 else 0) + e.creator * 2 ^ 16), e.value.toNat)

/-- FEN (Table 04.10). -/
def fenWord (b : Blk) : Nat → Nat
  | 0x40 => b.fen.table.length
  | 0x44 => b.fen.poll.length
  | 0x48 => b.fen.fences.length
  | 0x4C => ctrWord b.fen.staleTotal
  | 0x50 => ctrWord b.fen.dupDropped
  | 0x54 => ctrWord b.fen.abandons
  | 0x58 => ctrWord b.fen.pollEntries
  | 0x60 => b.fen.mqSel
  | 0x64 => (managerFence b b.fen.mqSel).1.toNat
  | 0x68 => lo32 (managerFence b b.fen.mqSel).2
  | 0x6C => hi32 (managerFence b b.fen.mqSel).2
  | _ => 0

/-- The SRC_CFG word of a source. -/
def srcCfg (s : Source') : Nat :=
  s.owner + fld s.prio 12 2 + flg s.assigned 14 + flg s.wake 15 + fld s.filter 16 8 + flg s.activeLow 24

/-- The SRC_STAT word of a source. -/
def srcStat (s : Source') : Nat := s.count + flg s.sat 8 + flg s.pending 9 + flg s.mixed 10 + fld s.ctx 16 16

/-- Bits of 32 sources from `32 w` on. -/
def srcBits (b : Blk) (w : Nat) (p : Source' → Bool) : Nat :=
  (List.range 32).foldl (fun n i => if 32 * w + i < 8176 then n + flg (p (b.source (32 * w + i))) i else n) 0

/-- The ENABLE or PENDING word at an offset of the EVC page, with how far into its 16-byte group the offset lies (R412). -/
def arrayAt (rel : Nat) : Option (Bool × Nat × Nat) :=
  if 0x1800 ≤ rel ∧ rel < 0x2000 then some (true, (rel - 0x1800) / 16, rel % 16)
  else if 0x2800 ≤ rel ∧ rel < 0x3000 then some (true, 128 + (rel - 0x2800) / 16, rel % 16)
  else if 0x3800 ≤ rel ∧ rel < 0x4000 then some (false, (rel - 0x3800) / 16, rel % 16)
  else if 0x4800 ≤ rel ∧ rel < 0x5000 then some (false, 128 + (rel - 0x4800) / 16, rel % 16)
  else none

/-- EVC (Table 12.9, R412, R492). -/
def evcWord (b : Blk) (rel : Nat) : Nat :=
  match rel with
  | 0x40 => b.evc.mode
  | 0x48 => lo32 b.evc.lines.toNat
  | 0x4C => hi32 b.evc.lines.toNat
  | 0x50 => b.evc.srcSel
  | 0x54 => srcCfg (b.source b.evc.srcSel)
  | 0x58 => srcStat (b.source b.evc.srcSel)
  | 0x5C => (b.source b.evc.srcSel).data.toNat
  | 0x60 => b.evc.shadow.length
  | 0x64 => ctrWord b.evc.presented
  | 0x68 => ctrWord b.evc.withdrawn
  | 0x6C => ctrWord b.evc.shadowWaits
  | _ => match arrayAt rel with
    | some (en, w, k) => if k = 12 then 0 else srcBits b w fun s => if en then s.enabled else s.pending
    | none => 0

/-- The code of a slot state (Table 12.6). -/
def slotCode : SlotState → Nat
  | .empty => 0
  | .posted => 1
  | .taken => 2
  | .acked => 3

/-- A word of a channel block (Table 12.7). -/
def chanWord (b : Blk) (c rel : Nat) : Nat :=
  let tx := b.mbx.h2m.getD c {}
  let rx := b.mbx.m2h.getD c {}
  let shown (v : Nat) : Nat := if rx.state = .empty then 0 else v
  match rel with
  | 0x00 => lo32 tx.ptr.toNat
  | 0x04 => hi32 tx.ptr.toNat
  | 0x08 => tx.len.toNat
  | 0x0C => tx.tag.toNat
  | 0x14 => slotCode tx.state + flg tx.wdLate 2 + fld tx.ackCode.toNat 16 16
  | 0x18 => shown (lo32 rx.ptr.toNat)
  | 0x1C => shown (hi32 rx.ptr.toNat)
  | 0x20 => rx.len.toNat
  | 0x24 => rx.tag.toNat
  | 0x2C => slotCode rx.state
  | _ => 0

/-- MBX (Tables 12.7, 12.8): page 0 and 3 locks, 1 and 2 channels. A lock shows its owner's number. -/
def mbxWord (b : Blk) (page rel : Nat) : Nat :=
  if page = 1 ∨ page = 2 then
    (if 0x100 ≤ rel ∧ rel < 0x900 then chanWord b ((page - 1) * 16 + (rel - 0x100) / 0x80) ((rel - 0x100) % 0x80) else 0)
  else if 0x100 ≤ rel ∧ rel < 0x180 then b.mbx.locks.getD ((if page = 3 then 32 else 0) + (rel - 0x100) / 4) 0
  else if page = 3 ∧ rel = 0x44 then b.mbx.svec + flg b.mbx.svecEn 8
  else 0

/-- SCH (Table 07.8). -/
def schWord (b : Blk) : Nat → Nat
  | 0x40 => b.sch.lwa
  | 0x48 => b.sch.presult + flg b.sch.pbusy.isSome 31
  | 0x4C => b.sch.portsUp.toNat
  | 0x50 => ctrWord b.sch.preempts
  | 0x54 => ctrWord b.sch.forced
  | 0x58 => ctrWord b.sch.issued
  | _ => 0

/-- The state of a run slot: 0 FREE, 1 RUNNING, 2 REPLAYING, 3 COMMITTING. -/
def runState (r : Run) : Nat :=
  if r.phase = .committing then 3 else if 0 < r.attempt then 2 else 1

/-- MAR (Table 08.17). -/
def marWord (b : Blk) (rel : Nat) : Nat :=
  match rel with
  | 0x40 => b.mar.up.toNat
  | 0x44 => b.mar.seqs.length + fld (b.mar.runs.foldl (fun n r => n + r.2.waiting.length) 0) 16 16
  | 0x48 => b.mar.runs.count fun _ r => r.slot.isSome
  | 0x4C => ctrWord b.mar.steps
  | 0x50 => ctrWord b.mar.replays
  | 0x54 => ctrWord b.mar.lateSteps
  | 0x58 => b.mar.errOp
  | _ =>
    if 0x60 ≤ rel ∧ rel < 0x160 then
      match b.mar.runs.find? fun r => r.2.slot == some ((rel - 0x60) / 16) with
      | none => 0
      | some (_, r) => match (rel - 0x60) % 16 with
        | 0 => runState r + fld (r.mar.getD 0) 8 4 + fld r.slice 12 12
        | 4 => r.runId
        | 8 => lo32 r.step
        | _ => hi32 r.step
    else 0

/-- MDL (Table 08.18). -/
def mdlWord (b : Blk) : Nat → Nat
  | 0x40 => b.mdl.rows + fld b.mdl.storeBlocks 16 9
  | 0x44 => flg b.mdl.storeEn 0
  | 0x48 => b.mdl.freeBlocks.length + fld (b.mdl.models.count fun _ m => m.state == .resident || m.state == .repairing) 16 9
  | 0x4C => b.mdl.models.length + fld b.mdl.spares.length 16 14
  | 0x50 => ctrWord b.mdl.loads
  | 0x54 => ctrWord b.mdl.badPieces
  | 0x58 => ctrWord b.mdl.evictions
  | _ => 0

/-- Holds on TREs, QFE, Marionettes and MDL, as the HOLDS gauge counts them. -/
def holdGauge (b : Blk) : Nat :=
  (b.xlt.holds.filter fun h => match h.holder with
    | .tre _ | .qfe _ | .mar _ | .mdl _ | .coll _ => true
    | .core _ | .hlu _ => false).length

/-- XLT (Table 06.9). -/
def xltWord (b : Blk) : Nat → Nat
  | 0x40 => lo32 b.xlt.area
  | 0x44 => hi32 b.xlt.area
  | 0x48 => flg b.xlt.areaEn 0
  | 0x50 => lo32 b.xlt.xcmd
  | 0x54 => hi32 b.xlt.xcmd
  | 0x5C => b.xlt.xresult + fld b.xlt.xresultId 8 16 + flg b.xlt.xbusy 31
  | 0x60 => lo32 b.xlt.epoch
  | 0x64 => hi32 b.xlt.epoch
  | 0x68 => ctrWord b.xlt.rcMisses
  | 0x6C => ctrWord b.xlt.hcMisses
  | 0x70 => ctrWord b.xlt.faults
  | 0x74 => ctrWord b.xlt.invalAborts
  | 0x78 => min (holdGauge b) 65535 + fld b.xlt.invals.length 16 8
  | _ => 0

/-- TRE (Table 09.12). -/
def treWord (b : Blk) (rel : Nat) : Nat :=
  match rel with
  | 0x40 => b.tre.up.toNat
  | 0x44 => lo32 b.tre.gcmd
  | 0x48 => hi32 b.tre.gcmd
  | 0x50 => b.tre.gresult + flg b.tre.gbusy 31
  | 0x54 => b.tre.groups.length
  | 0x58 => (stagedBytes b + 1023) / 1024
  | 0x5C => min b.tre.intake.length 65535
  | 0x60 => ctrWord b.tre.stageDrops
  | 0x64 => ctrWord b.tre.lateChunks
  | 0x68 => ctrWord b.tre.mismatches
  | 0x6C => ctrWord b.tre.nokeeps
  | 0x70 => ctrWord b.tre.failovers
  | 0x74 => ctrWord b.tre.resends
  | _ => if 0x80 ≤ rel ∧ rel < 0x100 then engItems b ((rel - 0x80) / 4) else 0

/-- A regulator. -/
def Blk.reg (b : Blk) (r : Nat) : Regulator := b.bwr.regs.getD r {}
/-- Change a regulator. -/
def Blk.updReg (b : Blk) (r : Nat) (f : Regulator → Regulator) : Blk :=
  { b with bwr := { b.bwr with regs := b.bwr.regs.set r (f (b.reg r)) } }

/-- BWR (Tables 11.3, 11.4). -/
def bwrWord (b : Blk) (rel : Nat) : Nat :=
  match rel with
  | 0x40 => b.bwr.levels.toNat
  | 0x44 => ctrWord b.bwr.ambers
  | 0x48 => ctrWord b.bwr.reds
  | _ =>
    if 0x1000 ≤ rel ∧ rel < 0x1000 + 0x40 * 120 then
      let g := b.reg ((rel - 0x1000) / 0x40)
      match rel % 0x40 with
      | 0x00 => g.winK
      | 0x28 => ctrWord g.lines
      | 0x2C => ctrWord g.held
      | 0x30 => ctrWord g.pauses
      | 0x34 => ctrWord g.late7
      | k => if 8 ≤ k ∧ k < 0x28 then g.budgets.getD ((k - 8) / 4) 0 else 0
    else 0

/-- The code of a port state (Table 10.10). -/
def portCode : PState → Nat
  | .off => 0
  | .cal => 1
  | .train => 2
  | .align => 3
  | .key => 4
  | .measure => 5
  | .active => 6
  | .down => 7

/-- Lanes set in a lane map. -/
def laneCount (l : Lanes) : Nat := (List.range 8).foldl (fun n i => if l.getLsbD i then n + 1 else n) 0

/-- A word of a port block (Table 10.12). -/
def portWord (b : Blk) (p rel : Nat) : Nat :=
  let q := b.port p
  match rel with
  | 0x00 => portCode q.state + fld (laneCount q.lanes) 4 4 + fld q.lanes.toNat 8 8 + fld q.downCause 16 4
  | 0x04 => q.peerChip + fld q.peerPort 16 5
  | 0x08 => q.delay
  | 0x0C => flg q.dateline 1
  | 0x10 => ctrWord q.corrected
  | 0x14 => ctrWord q.retries
  | 0x18 => ctrWord q.uncorr
  | 0x1C => ctrWord q.tagFails
  | 0x20 => ctrWord q.kitesMissed
  | _ => 0

/-- LMF (Table 10.12). Routing entries read as staged by software, which are those in force once committed. -/
def lmfWord (b : Blk) (rel : Nat) : Nat :=
  let l := b.lmf
  match rel with
  | 0x40 => l.txnTimeoutUs
  | 0x44 => l.rootPrio + fld l.stratum 8 4 + fld l.rootChip 12 10 + fld (ftCode l.ftState) 22 2 + fld l.upstream 24 5
  | 0x48 => l.portEn.toNat
  | 0x4C => (List.range 32).foldl (fun n p => n + flg ((b.port p).state == .active) p) 0
  | 0x50 => flg l.encOff 0
  | 0x60 => ctrWord l.txnGaps
  | 0x64 => ctrWord l.dupReq
  | 0x68 => ctrWord l.lateResp
  | 0x6C => ctrWord l.ttlDrops
  | 0x70 => ctrWord l.noRoute
  | _ =>
    if 0x400 ≤ rel ∧ rel < 0x400 + 0x40 * 32 then portWord b ((rel - 0x400) / 0x40) (rel % 0x40)
    else if 0x1000 ≤ rel ∧ rel < 0x5000 then
      let c := (rel - 0x1000) / 16
      let e := l.staged.getD c (l.routes.getD c {})
      match rel % 16 with
      | 0 => e.primary.toNat
      | 4 => e.alternate.toNat
      | 8 => fld e.hopsP 0 4 + fld e.hopsA 4 4 + flg e.valid 8
      | _ => 0
    else 0

/-- RCV (Table 13.9). -/
def rcvWord (b : Blk) (rel : Nat) : Nat :=
  let r := b.rcv
  match rel with
  | 0x40 => r.stallMs
  | 0x44 => r.engineUs
  | 0x48 => r.launchMs
  | 0x4C => flg r.autoCtx 0 + flg r.autoEng 1 + flg r.dumpOnReset 2 + flg r.dumpOnHang 3
  | 0x50 => lo32 r.dumpBase
  | 0x54 => hi32 r.dumpBase
  | 0x5C => r.result + fld r.lastOp 8 4 + flg r.busy.isSome 31
  | 0x60 => r.culCtx + fld r.culSlice 16 12 + flg r.culValid 31
  | 0x64 => fld r.culUnit 0 8 + fld r.culInst 8 8 + fld r.culCause 16 8
  | 0x68 => r.culTag
  | 0x6C => lo32 r.culFt
  | 0x70 => hi32 r.culFt
  | 0x74 => flg r.dump.isSome 0 + flg r.dumpDone 1 + flg r.dumpWerr 2
  | 0x78 => r.unreadable.toNat
  | 0x7C => r.unreadWords
  | 0x80 => ctrWord r.hangs
  | 0x84 => ctrWord r.ctxResets
  | 0x88 => ctrWord r.engResets
  | 0x8C => ctrWord r.partResets
  | 0x90 => ctrWord r.blockResets
  | 0x94 => ctrWord r.brDiscards
  | 0x98 => ctrWord r.discarded
  | 0x9C => ctrWord r.corrected
  | 0xA0 => ctrWord r.absorbed
  | _ =>
    if 0xC0 ≤ rel ∧ rel < 0xD8 then
      (List.range 32).foldl (fun n i => n + flg (b.core ((rel - 0xC0) * 8 + i)).out i) 0
    else 0

/-- TRC (Table 15.5). -/
def trcWord (b : Blk) (rel : Nat) : Nat :=
  let t := b.trc
  match rel with
  | 0x40 => t.mode + flg t.postPhase 2 + flg t.frozen 3 + flg t.wrapped 4
  | 0x44 => lo32 t.base
  | 0x48 => hi32 t.base
  | 0x4C => t.log2
  | 0x50 => t.postCount
  | 0x54 => t.head
  | 0x58 => t.tail
  | 0x5C => t.kindMask.toNat
  | 0x68 => ctrWord t.dropped
  | 0x6C => ctrWord t.triggers
  | 0x70 => ctrWord t.trigMissed
  | 0x74 => lo32 t.trigFt
  | 0x78 => hi32 t.trigFt
  | 0x7C => t.winNext
  | _ =>
    if 0x4000 ≤ rel ∧ rel < 0x8000 then field (t.window.getD ((rel - 0x4000) / 32) []) (rel % 32) 4 else 0

/-- A word of a unit page. -/
def unitWord (b : Blk) (pg : Nat) (i : PageInfo) (rel : Nat) : Nat :=
  if rel < 0x40 then unitHdr b pg i rel
  else match i.unit with
    | 0x01 => genWord b rel
    | 0x02 => pwrWord b rel
    | 0x03 => secWord b rel
    | 0x10 => hluWord b rel
    | 0x11 => qfeWord b rel
    | 0x12 => ctxWord b rel
    | 0x13 => fenWord b rel
    | 0x14 => evcWord b rel
    | 0x15 => mbxWord b i.index rel
    | 0x20 => schWord b rel
    | 0x21 => marWord b rel
    | 0x22 => mdlWord b rel
    | 0x23 => xltWord b rel
    | 0x24 => treWord b rel
    | 0x25 => bwrWord b rel
    | 0x30 => lmfWord b rel
    | 0x40 => rcvWord b rel
    | 0x41 => trcWord b rel
    | _ => 0

/-! ## View pages (Table 16.4) -/

/-- FQ_STATUS and the value that a slice's query shows of a fence (R170). -/
def queryFence (b : Blk) (slice f : Nat) : W32 × Nat :=
  match b.fen.fences.get? f with
  | none => (0, 0)
  | some e =>
    if e.owner ≠ slice then (0, 0)
    else (BitVec.ofNat 32 (1 + (if e.abandoned then 2 else 0) + (if hasWaiter b f then 4 else 0) + e.stale * 2 ^ 8 +
      if e.staleSat then 2 ^ 16 else 0), e.value.toNat)

/-- The capability block (Table 02.25). -/
def capWord (b : Blk) (e : Slice) : Nat → Nat
  | 0x40 => 0x4612
  | 0x44 => 0xFFFE
  | 0x48 => 0x01FF
  | 0x4C => e.maxQueues
  | 0x50 => fld e.inflight 0 16 + fld e.clsMax 16 3
  | 0x54 => fld (partCores b e.part).length 0 8 + 16 * 2 ^ 8 + 32 * 2 ^ 16
  | 0x58 => e.storeBlocks + fld b.chip 16 10
  | _ => 0

/-- HEAD, TAIL and STATE of the PEEK_SEL slot. -/
def peekWord (b : Blk) (s : Nat) (st : Bool) : Nat :=
  match b.queues.get? (qkey s (b.view s).peekSel) with
  | none => 0
  | some q => if st then (if q.draining then 2 else 1) else fld q.head 0 16 + fld q.tail 16 16

/-- The source that Q_SEL shows, where the slice owns it. -/
def viewSource (b : Blk) (s : Nat) : Option (Source' × Bool) :=
  let n := (b.view s).qSel
  if 8176 ≤ n then (if n < 8191 then some (b.banked s (n - 8176), (b.view s).bankEn.getLsbD (n - 8176)) else none)
  else
    let g := b.source n
    if g.assigned ∧ g.owner = s then some (g, g.enabled) else none

/-- A word of the view page of slice `s` (Tables 02.2, 02.25, 03.10, 04.3, 06.12, 12.10, 14.14). The slice's counters are shown
here whoever reads. -/
def viewWord (b : Blk) (s rel : Nat) : Nat :=
  match b.slices.get? s with
  | none => 0
  | some e =>
    let v := b.view s
    if rel < 0x40 then
      hdrWord b (pgView s) (0x100 + fld s 12 12) 0x120
        ((if e.draining then 2 else 1) + flg (sliceHeld b s) 2)
        (s + 0x3000 + flg (decide (2 ≤ b.sec.dbgLevel)) 16) rel
    else match rel with
      | 0x100 => lo32 v.qDesc
      | 0x104 => hi32 v.qDesc
      | 0x10C => v.qResult + flg v.qOp.isSome 31
      | 0x110 => v.peekSel
      | 0x114 => peekWord b s false
      | 0x118 => peekWord b s true
      | 0x184 => v.vResult + fld v.vCtxOut 8 16 + flg v.vBusy 31
      | 0x188 => lo32 v.save
      | 0x18C => hi32 v.save
      | 0x210 => v.fqSel
      | 0x214 => (queryFence b s v.fqSel).1.toNat
      | 0x218 => lo32 (queryFence b s v.fqSel).2
      | 0x21C => hi32 (queryFence b s v.fqSel).2
      | 0x280 => lo32 v.fqBase
      | 0x284 => hi32 v.fqBase
      | 0x288 => flg v.fqEn 0 + flg v.fqOverflow 1
      | 0x28C => v.fqHead + fld v.fqTail 16 12
      | 0x290 => v.hotThresh
      | 0x298 => lo32 v.accSel
      | 0x29C => hi32 v.accSel
      | 0x2A0 => (match b.xlt.acc.find? fun a => a.slice == s && a.granule * 65536 == v.accSel % 2 ^ 56 with
        | some a => a.value + flg a.sat 8 + flg true 9
        | none => 0)
      | 0x300 => lo32 v.pnBase
      | 0x304 => hi32 v.pnBase
      | 0x308 => v.pnLog2 + flg v.pnEn 4 + fld v.pnVector 16 8
      | 0x30C => v.pnHead + fld v.pnTail 16 10
      | 0x318 => v.bankEn.toNat
      | 0x31C => (List.range 15).foldl (fun n i => n + flg (b.banked s i).pending i) 0
      | 0x320 => v.qSel
      | 0x324 => (match viewSource b s with
        | some (g, en) => g.count + flg g.sat 8 + flg g.pending 9 + flg en 10 + flg true 11
        | none => 0)
      | 0x380 => flg v.niSelf 0 + flg v.niMgr 1 + flg v.niChal.isSome 4
      | 0x384 => bits v.niChalWords.toNat 0 32
      | 0x388 => bits v.niChalWords.toNat 32 32
      | 0x38C => bits v.niChalWords.toNat 64 32
      | 0x390 => bits v.niChalWords.toNat 96 32
      | 0x3A4 => (match b.sec.sliceKeys.get? s with
        | some k => flg k.bound 0 + flg (sliceHeld b s) 1 + fld k.gen 8 8 + fld k.fails 16 8
        | none => 0)
      | 0x3C0 => lo32 v.stBase
      | 0x3C4 => hi32 v.stBase
      | 0x3C8 => v.stLog2 + flg v.stEn 4
      | 0x3CC => v.stHead + fld v.stTail 16 16
      | 0x3E0 => ctrWord v.itemsOk
      | 0x3E4 => ctrWord v.itemsFailed
      | 0x3E8 => ctrWord v.waitUs
      | 0x3EC => ctrWord v.lines
      | 0x3F0 => ctrWord v.wgStarted
      | 0x3F4 => ctrWord v.tokens
      | _ => capWord b e rel

/-- The register word at an offset of the window; offsets in no page read as zero (R481, R482). -/
def regWord (b : Blk) (off : Nat) : Nat :=
  if 0x1000000 ≤ off then viewWord b ((off - 0x1000000) / 4096 % 4096) (off % 4096)
  else match pageAt off with
    | some (pg, i, rel) => unitWord b pg i rel
    | none => 0

end Sys2Proof.Machine
end

