-- ==== Sys2Proof/Machine/Flags.lean ====
section
/-! DEFINITION. The flags of the register pages: sticky saturation bits with their counters, and the bits that a written 1 clears (R7,
R9, R476, R484, R493). -/

namespace Sys2Proof.Machine


/-- The counters of PWR, SEC, HLU, QFE and CTX, by offset. -/
def clearLow (pg rel : Nat) (b : Blk) : Blk :=
  if pg = pgPWR then (match rel with
    | 0x70 => b.pwrU fun x => { x with b1Entries := Ctr.zero }
    | 0x74 => b.pwrU fun x => { x with b2Entries := Ctr.zero }
    | _ => b)
  else if pg = pgSEC then (if rel = 0x78 then b.secU fun x => { x with erasures := Ctr.zero } else b)
  else if pg = pgHLU then (match rel with
    | 0x48 => b.hluU fun x => { x with flushReads := Ctr.zero }
    | 0x4C => b.hluU fun x => { x with storesLost := Ctr.zero }
    | 0x50 => b.hluU fun x => { x with readErrs := Ctr.zero }
    | _ => b)
  else if pg = pgQFE then (match rel with
    | 0x4C => b.qfeU fun x => { x with fetched := Ctr.zero }
    | 0x50 => b.qfeU fun x => { x with dbDrops := Ctr.zero }
    | _ => b)
  else if pg = pgCTX ∧ rel = 0x78 then b.ctxU fun x => { x with spills := Ctr.zero }
  else b

/-- The counters of FEN, EVC, SCH, MAR, MDL and XLT, by offset. -/
def clearMid (pg rel : Nat) (b : Blk) : Blk :=
  if pg = pgFEN then (match rel with
    | 0x4C => b.fenU fun x => { x with staleTotal := Ctr.zero }
    | 0x50 => b.fenU fun x => { x with dupDropped := Ctr.zero }
    | 0x54 => b.fenU fun x => { x with abandons := Ctr.zero }
    | 0x58 => b.fenU fun x => { x with pollEntries := Ctr.zero }
    | _ => b)
  else if pg = pgEVC then (match rel with
    | 0x64 => b.evcU fun x => { x with presented := Ctr.zero }
    | 0x68 => b.evcU fun x => { x with withdrawn := Ctr.zero }
    | 0x6C => b.evcU fun x => { x with shadowWaits := Ctr.zero }
    | _ => b)
  else if pg = pgSCH then (match rel with
    | 0x50 => b.schU fun x => { x with preempts := Ctr.zero }
    | 0x54 => b.schU fun x => { x with forced := Ctr.zero }
    | 0x58 => b.schU fun x => { x with issued := Ctr.zero }
    | _ => b)
  else if pg = pgMAR then (match rel with
    | 0x4C => b.marU fun x => { x with steps := Ctr.zero }
    | 0x50 => b.marU fun x => { x with replays := Ctr.zero }
    | 0x54 => b.marU fun x => { x with lateSteps := Ctr.zero }
    | _ => b)
  else if pg = pgMDL then (match rel with
    | 0x50 => b.mdlU fun x => { x with loads := Ctr.zero }
    | 0x54 => b.mdlU fun x => { x with badPieces := Ctr.zero }
    | 0x58 => b.mdlU fun x => { x with evictions := Ctr.zero }
    | _ => b)
  else if pg = pgXLT then (match rel with
    | 0x68 => b.xltU fun x => { x with rcMisses := Ctr.zero }
    | 0x6C => b.xltU fun x => { x with hcMisses := Ctr.zero }
    | 0x70 => b.xltU fun x => { x with faults := Ctr.zero }
    | 0x74 => b.xltU fun x => { x with invalAborts := Ctr.zero }
    | _ => b)
  else b

/-- The counters of a regulator block, by offset. -/
def clearReg (reg rel : Nat) (b : Blk) : Blk :=
  match rel with
  | 0x28 => b.updReg reg fun x => { x with lines := Ctr.zero }
  | 0x2C => b.updReg reg fun x => { x with held := Ctr.zero }
  | 0x30 => b.updReg reg fun x => { x with pauses := Ctr.zero }
  | 0x34 => b.updReg reg fun x => { x with late7 := Ctr.zero }
  | _ => b

/-- The counters of a port block, by offset. -/
def clearPort (port rel : Nat) (b : Blk) : Blk :=
  match rel with
  | 0x10 => b.updPort port fun x => { x with corrected := Ctr.zero }
  | 0x14 => b.updPort port fun x => { x with retries := Ctr.zero }
  | 0x18 => b.updPort port fun x => { x with uncorr := Ctr.zero }
  | 0x1C => b.updPort port fun x => { x with tagFails := Ctr.zero }
  | 0x20 => b.updPort port fun x => { x with kitesMissed := Ctr.zero }
  | _ => b

/-- The counters of TRE, BWR, LMF, RCV and TRC, by offset. -/
def clearHigh (pg rel : Nat) (b : Blk) : Blk :=
  if pg = pgTRE then (match rel with
    | 0x60 => b.treU fun x => { x with stageDrops := Ctr.zero }
    | 0x64 => b.treU fun x => { x with lateChunks := Ctr.zero }
    | 0x68 => b.treU fun x => { x with mismatches := Ctr.zero }
    | 0x6C => b.treU fun x => { x with nokeeps := Ctr.zero }
    | 0x70 => b.treU fun x => { x with failovers := Ctr.zero }
    | 0x74 => b.treU fun x => { x with resends := Ctr.zero }
    | _ => b)
  else if pg = pgBWR then (
    if 0x1000 ≤ rel ∧ rel < 0x1000 + 0x40 * 120 then clearReg ((rel - 0x1000) / 0x40) (rel % 0x40) b
    else if rel = 0x44 then b.bwrU fun x => { x with ambers := Ctr.zero }
    else if rel = 0x48 then b.bwrU fun x => { x with reds := Ctr.zero }
    else b)
  else if pg = pgLMF then (
    if 0x400 ≤ rel ∧ rel < 0xC00 then clearPort ((rel - 0x400) / 0x40) (rel % 0x40) b
    else match rel with
    | 0x60 => b.lmfU fun x => { x with txnGaps := Ctr.zero }
    | 0x64 => b.lmfU fun x => { x with dupReq := Ctr.zero }
    | 0x68 => b.lmfU fun x => { x with lateResp := Ctr.zero }
    | 0x6C => b.lmfU fun x => { x with ttlDrops := Ctr.zero }
    | 0x70 => b.lmfU fun x => { x with noRoute := Ctr.zero }
    | _ => b)
  else if pg = pgRCV then (match rel with
    | 0x80 => b.rcvU fun x => { x with hangs := Ctr.zero }
    | 0x84 => b.rcvU fun x => { x with ctxResets := Ctr.zero }
    | 0x88 => b.rcvU fun x => { x with engResets := Ctr.zero }
    | 0x8C => b.rcvU fun x => { x with partResets := Ctr.zero }
    | 0x90 => b.rcvU fun x => { x with blockResets := Ctr.zero }
    | 0x94 => b.rcvU fun x => { x with brDiscards := Ctr.zero }
    | 0x98 => b.rcvU fun x => { x with discarded := Ctr.zero }
    | 0x9C => b.rcvU fun x => { x with corrected := Ctr.zero }
    | 0xA0 => b.rcvU fun x => { x with absorbed := Ctr.zero }
    | _ => b)
  else if pg = pgTRC then (match rel with
    | 0x68 => b.trcU fun x => { x with dropped := Ctr.zero }
    | 0x6C => b.trcU fun x => { x with triggers := Ctr.zero }
    | 0x70 => b.trcU fun x => { x with trigMissed := Ctr.zero }
    | _ => b)
  else b

/-- The counter of a unit page at an offset is cleared with its bit. -/
def clearUnit (pg rel : Nat) (b : Blk) : Blk := clearHigh pg rel (clearMid pg rel (clearLow pg rel b))

/-- An offset of a slice's own counters (Table 15.4). -/
def viewCounter (rel : Nat) : Bool := decide (0x3E0 ≤ rel) && decide (rel < 0x3F8)

/-- A slice's counter at an offset of its view page is cleared with its bit. -/
def clearView (slice rel : Nat) (b : Blk) : Blk :=
  match rel with
  | 0x3E0 => b.updView slice fun x => { x with itemsOk := Ctr.zero }
  | 0x3E4 => b.updView slice fun x => { x with itemsFailed := Ctr.zero }
  | 0x3E8 => b.updView slice fun x => { x with waitUs := Ctr.zero }
  | 0x3EC => b.updView slice fun x => { x with lines := Ctr.zero }
  | 0x3F0 => b.updView slice fun x => { x with wgStarted := Ctr.zero }
  | 0x3F4 => b.updView slice fun x => { x with tokens := Ctr.zero }
  | _ => b

/-- The error registers of a page cleared (R484). -/
def clearErrors (pg : Nat) (b : Blk) : Blk :=
  { b with pages := b.pages.set pg { b.hdr pg with errCode := 0, errFt := 0, err := Ctr.zero } }

end Sys2Proof.Machine
end

