-- ==== Sys2Proof/Machine/Crypto.lean ====
section
/-! DEFINITION. The arithmetic of the link trailers and of the level-1 response: AES-256, Galois/counter mode, the cipher-based code
of one block, and the CRC-32 of R348 (R348, R361, R449). -/

namespace Sys2Proof.Machine

/-! ## AES-256 -/

/-- Twice a byte in the field of AES. -/
def aesDouble (x : Byte) : Byte := (x <<< 1) ^^^ (if x.msb then 0x1B else 0)

/-- The product of two bytes in the field of AES. -/
def aesMul : Nat → Byte → Byte → Byte
  | 0, _, _ => 0
  | n + 1, a, b => (if b.getLsbD 0 then a else 0) ^^^ aesMul n (aesDouble a) (b >>> 1)

/-- The inverse of a byte: its power of 254, by seven squarings. -/
def aesInverse (x : Byte) : Byte :=
  (List.range 6).foldl (fun (p : Byte) _ => aesMul 8 (aesMul 8 p p) x) x |> fun p => aesMul 8 p p

/-- The substitution of one byte. -/
def aesSub (x : Byte) : Byte :=
  let i := aesInverse x
  i ^^^ i.rotateLeft 1 ^^^ i.rotateLeft 2 ^^^ i.rotateLeft 3 ^^^ i.rotateLeft 4 ^^^ 0x63

/-- The bytewise exclusive or of two byte strings. -/
def xorBytes (a b : Bytes) : Bytes := List.zipWith (· ^^^ ·) a b

/-- The round constant of number `n`. -/
def aesRcon (n : Nat) : Byte := (List.range (n - 1)).foldl (fun c _ => aesDouble c) 1

/-- The next word of the key schedule: `ws` holds the words so far, the last first. -/
def aesNextWord (ws : List Bytes) : Bytes :=
  let i := ws.length
  let last := ws.headD []
  let t := if i % 8 = 0 then xorBytes ((last.rotateLeft 1).map aesSub) [aesRcon (i / 8), 0, 0, 0]
    else if i % 8 = 4 then last.map aesSub else last
  xorBytes (ws.getD 7 []) t

/-- The 60 words of the key schedule of a 32-byte key. -/
def aesSchedule (key : Bytes) : List Bytes :=
  let first := (List.range 8).map fun i => (key.drop (4 * i)).take 4
  ((List.range 52).foldl (fun ws _ => aesNextWord ws :: ws) first.reverse).reverse

/-- The 16 bytes of round key `r`. -/
def aesRoundKey (ws : List Bytes) (r : Nat) : Bytes := ((ws.drop (4 * r)).take 4).flatten

/-- Each row rotates by its number. -/
def aesShiftRows (s : Bytes) : Bytes := (List.range 16).map fun i => s.getD (i % 4 + 4 * ((i / 4 + i % 4) % 4)) 0

/-- Each column is multiplied by the fixed polynomial. -/
def aesMixColumns (s : Bytes) : Bytes :=
  (List.range 16).map fun i =>
    let at' (k : Nat) : Byte := s.getD (i / 4 * 4 + (i + k) % 4) 0
    aesDouble (at' 0) ^^^ (aesDouble (at' 1) ^^^ at' 1) ^^^ at' 2 ^^^ at' 3

/-- AES-256 of one block of 16 bytes. -/
def aesBlock (key m : Bytes) : Bytes :=
  let ws := aesSchedule key
  let round (s : Bytes) (r : Nat) : Bytes := xorBytes (aesMixColumns (aesShiftRows (s.map aesSub))) (aesRoundKey ws r)
  let s := (rangeFrom 1 13).foldl round (xorBytes m (aesRoundKey ws 0))
  xorBytes (aesShiftRows (s.map aesSub)) (aesRoundKey ws 14)

/-! ## Galois/counter mode -/

/-- The number whose big-endian bytes these are. -/
def beNat (bs : Bytes) : Nat := bs.foldl (fun n b => n * 256 + b.toNat) 0
/-- `k` big-endian bytes of a number. -/
def beBytes (k n : Nat) : Bytes := (leBytes k n).reverse

/-- The product of two blocks in the field of GCM, whose first bit is the most significant one. -/
def gcmMul (x y : Nat) : Nat :=
  ((List.range 128).foldl (fun (zv : Nat × Nat) i =>
    let z := if bit x (127 - i) then zv.1 ^^^ zv.2 else zv.1
    (z, if zv.2 % 2 = 1 then (zv.2 / 2) ^^^ (0xE1 * 2 ^ 120) else zv.2 / 2)) (0, y)).1

/-- The blocks of 16 bytes of a string, the last padded with zeros. -/
def blocks16 (bs : Bytes) : List Bytes :=
  (List.range ((bs.length + 15) / 16)).map fun i =>
    let c := (bs.drop (16 * i)).take 16
    c ++ List.replicate (16 - c.length) 0

/-- The hash of a ciphertext with no additional data. -/
def gcmHash (h : Nat) (cipher : Bytes) : Nat :=
  let y := (blocks16 cipher).foldl (fun y c => gcmMul (y ^^^ beNat c) h) 0
  gcmMul (y ^^^ (cipher.length * 8)) h

/-- The key stream from block `first` on, over a string. -/
def gcmStream (key iv : Bytes) (first : Nat) (bs : Bytes) : Bytes :=
  ((List.range ((bs.length + 15) / 16)).map fun i =>
    xorBytes ((bs.drop (16 * i)).take 16) (aesBlock key (iv ++ beBytes 4 (first + i)))).flatten

/-- The plaintext of a ciphertext, and the ciphertext of a plaintext. -/
def gcmCrypt (key iv bs : Bytes) : Bytes := gcmStream key iv 2 bs

/-- The 128-bit tag of a ciphertext. -/
def gcmTag (key iv cipher : Bytes) : Bytes :=
  let h := beNat (aesBlock key (List.replicate 16 0))
  xorBytes (beBytes 16 (gcmHash h cipher)) (aesBlock key (iv ++ beBytes 4 1))

/-! ## The response of R449 and the CRC of R348 -/

/-- The AES-256-CMAC of one whole block. -/
def cmacBlock (key m : Bytes) : Bytes :=
  let l := beNat (aesBlock key (List.replicate 16 0))
  let k1 := (l * 2) % 2 ^ 128 ^^^ (if bit l 127 then 0x87 else 0)
  aesBlock key (xorBytes m (beBytes 16 k1))

/-- One byte into the CRC-32 with the IEEE 802.3 polynomial. -/
def crcStep (c : BitVec 32) (b : Byte) : BitVec 32 :=
  (List.range 8).foldl (fun (c : BitVec 32) _ => if c.getLsbD 0 then (c >>> 1) ^^^ 0xEDB88320 else c >>> 1) (c ^^^ b.setWidth 32)

/-- The CRC-32 of a string. -/
def crc32 (bs : Bytes) : BitVec 32 := ~~~ bs.foldl crcStep 0xFFFFFFFF

end Sys2Proof.Machine
end

