-- ==== Sys2Proof/Machine/Dump.lean ====
section
/-! DEFINITION. The dump engine: its area, the image of each unit's registers, the table sections and the header (R430 to R433). -/

namespace Sys2Proof.Machine

/-- The dump number of a unit and where its range begins and ends (Tables 01.1, 16.3): the `u`-th of Table 01.1. -/
def unitRanges : List (Nat × Nat) :=
  [(0x0, 0x4000), (0x4000, 0x8000), (0x8000, 0x10000), (0x10000, 0x20000), (0x20000, 0x30000), (0x30000, 0x40000),
   (0x40000, 0x50000), (0x50000, 0x60000), (0x60000, 0x80000), (0x80000, 0x90000), (0x90000, 0xA0000), (0xA0000, 0xB0000),
   (0xB0000, 0xC0000), (0xC0000, 0xE0000), (0xE0000, 0x100000), (0x100000, 0x200000), (0x200000, 0x210000), (0x210000, 0x220000)]

/-- A word of a unit's section that could not be read (R431). -/
def deadWord (d : Dump) (u i : Nat) : Bool := d.bad.any fun x => x.1 == u && decide (x.2.1 ≤ i) && decide (i < x.2.1 + x.2.2)

/-- The words written as 0xFFFF_FFFE. -/
def Dump.badWords (d : Dump) : Nat := d.bad.foldl (fun n x => n + x.2.2) 0

/-- The units that hold unreadable words, as a mask. -/
def Dump.badUnits (d : Dump) : Nat := (List.range 18).foldl (fun n u => n + flg (d.bad.any fun x => x.1 == u) u) 0

/-- The 32 KiB of a unit's section. -/
def unitImage (b : Blk) (d : Dump) (u : Nat) : Bytes :=
  let r := unitRanges.getD u (0, 0)
  ((List.range 8192).map fun i =>
    leBytes 4 (if r.2 ≤ r.1 + 4 * i then 0 else if deadWord d u i then 0xFFFFFFFE else regWord b (r.1 + 4 * i))).flatten

/-- Write part of the dump. Dump writes carry slice 0; one that a memory-side checker refuses fails, and each such 64-byte write
is counted (R430, R431). -/
def dumpPut (off : Nat) (bs : Bytes) (b : Blk) : Blk :=
  let pa := b.rcv.dumpBase + off
  if isLocal b pa ∧ paSpace pa < 2 then
    let k := paKey pa
    if admits b .swedikin 0 true k bs.length then storeSpan k bs b
    else
      (linesOf k bs.length).foldl (fun b l =>
        let line := (bs.drop (l * 64 - k)).take 64
        if admits b .swedikin 0 true (l * 64) 64 then storeSpan (l * 64) line b
        else b.rcvU fun r => { r with dumpWerr := true, dump := r.dump.map fun d => { d with werrs := d.werrs + 1 } }) b
  else paWrite pa bs b

/-- Write a unit's section. -/
def dumpUnit (u : Nat) (b : Blk) : Blk :=
  match b.rcv.dump with
  | none => b
  | some d =>
    if d.done.contains u then b
    else (dumpPut (0x1000 + u * 0x8000) (unitImage b d u) b).rcvU fun r => { r with
      dump := r.dump.map fun d => { d with done := d.done ++ [u] } }

/-- The bytes of a section of `n` entries of `size` bytes, zero where there is no entry. -/
def tableImage (n size : Nat) (f : Nat → Option Bytes) : Bytes :=
  ((List.range n).map fun i => (f i).getD (List.replicate size 0)).flatten

/-- LSTATE of an item (Table 13.1). -/
def lstateCode : LState → Nat
  | .fetched => 1
  | .running => 2
  | .waiting => 3
  | .stalled => 4
  | .completing => 5

/-- A ledger entry (Table 13.1). -/
def ledgerBytes (it : Item) : Bytes :=
  leBytes 4 it.tag ++ leBytes 2 it.sq ++ leBytes 2 it.slot ++ leBytes 2 it.ctx ++ leBytes 2 it.slice ++ leBytes 2 it.cq ++
  leBytes 1 it.opcode ++ leBytes 1 (lstateCode it.st)

/-- A wait-table entry (Table 04.4). -/
def waitBytes (b : Blk) (i : Nat) : Option Bytes :=
  (b.fen.table[i]?).map fun w =>
    let it := b.items.get? w.item
    let num (f : Item → Nat) : Nat := (it.map f).getD 0
    let later := (List.range b.fen.table.length).find? fun j => decide (i < j) && (b.fen.table[j]?).any fun x => x.fence == w.fence
    leBytes 8 w.value.toNat ++ leBytes 8 (w.deadline.getD (2 ^ 64 - 1)) ++ leBytes 2 w.fence ++ leBytes 2 (num fun x => x.slice) ++
    leBytes 2 (num fun x => x.sq) ++ leBytes 2 (later.getD 0xFFFF) ++ leBytes 4 (num fun x => x.tag) ++
    leBytes 2 (num fun x => x.ctx) ++ leBytes 2 0

/-- A fence entry (Table 04.1). -/
def fenceBytes (e : Fence) : Bytes :=
  leBytes 8 e.value.toNat ++ leBytes 2 e.owner ++ leBytes 2 e.creator ++ leBytes 1 (if e.abandoning then 2 else 1) ++
  leBytes 1 e.stale ++ leBytes 1 (flg e.abandoned 0 + flg e.staleSat 1) ++ leBytes 1 0

/-- The state code of a sequence (Table 08.9). -/
def seqCode : SeqState → Nat
  | .active => 1
  | .held => 2
  | .leaving => 3

/-- A sequence-table entry (Table 08.8). -/
def seqBytes (s : Seq) : Bytes :=
  leBytes 8 s.kvTable ++ leBytes 8 s.outRing ++ leBytes 4 s.kvTokens ++ leBytes 4 s.kvCap ++ leBytes 4 s.maxTokens ++
  leBytes 4 s.stopToken ++ leBytes 8 s.user ++ leBytes 1 s.outLog2 ++ List.replicate 7 0 ++ leBytes 4 s.seqId ++
  leBytes 1 (seqCode s.state) ++ leBytes 1 s.reason ++ leBytes 2 0 ++ leBytes 4 s.tokens ++ leBytes 4 (s.lastStep.getD 0)

/-- A slot of the resident cache. -/
def residentBytes (b : Blk) (slot : Nat) : Option Bytes :=
  (b.contexts.find? fun c => c.2.slot == some slot).map fun c =>
    leBytes 2 c.1 ++ leBytes 1 (ctxCode c.2.state) ++ List.replicate 13 0

/-- A host-translation cache entry (Table 06.3). -/
def hostBytes (e : HostEntry) : Bytes :=
  leBytes 8 (e.hva % 2 ^ 56) ++ leBytes 8 e.hpa ++ leBytes 8 e.epoch ++ leBytes 4 (fld e.pasid 0 20 + fld e.fn 20 9) ++
  leBytes 2 e.slice ++ leBytes 1 (1 + flg e.read 1 + flg e.write 2 + flg e.logged 3) ++ leBytes 1 0

/-- The unit that issued a piece of work, the TAG it carries, and its Burgee (Table 09.2). -/
def workIssuer : WorkOwner → Nat
  | .item _ => 0x11
  | .op _ _ => 0x21
  | .load _ => 0x22
  | .repair _ _ => 0x22
  | .grantFill => 0x12
  | .reclaimFill => 0x12
  | .drainFill _ => 0x12
  | .lwaFill _ => 0x12

/-- The TAG of the item that a piece of work belongs to, or 0. -/
def workTag (b : Blk) (o : WorkOwner) : Nat :=
  match o with
  | .item i => ((b.items.get? i).map Item.tag).getD 0
  | .op r _ => ((b.mar.runs.get? r).map fun x => runTag b x).getD 0
  | _ => 0

/-- KIND, FMT, SRC, DST, LEN, P0, P1, P2 and LISTED of a piece of work (Tables 09.2, 09.3). -/
def workFields (b : Blk) (w : Work) : List Nat :=
  match w.kind with
  | .copy s d rb rows sp dp => [0, 0, s, d, rb + rows * 2 ^ 32, sp, dp, 0, 0]
  | .fill pa len => [1, 0, 0, pa, len, 0, 0, 0, 0]
  | .reduce a bb d n op sf _ _ => [2, sf, a, d, n, bb, op, 0, 0]
  | .kvmove s d bb n si di l => [3, 0, s, d, bb + (if l then 0 else n) * 2 ^ 32, si, if l then 0 else di, 0, if l then 1 else 0]
  | .load s pa len =>
    let k := match w.owner with
      | .load m => m
      | .repair m _ => m
      | _ => 0
    let blk := ((b.mdl.models.get? k).bind fun x => x.blocks[w.next / 2097152]?).getD 0
    [4, 0, s, pa, len, k, blk, 0, 0]
  | .flush a n m => [6, 0, 0, a, n, m, 0, 0, 0]

/-- An engine descriptor of a piece of single-engine work (Table 09.2). -/
def descBytes (b : Blk) (w : Work) : Bytes :=
  let f := workFields b w
  leBytes 8 (burgee w.slice w.ctx w.cls (deadlineField b.ft w.deadline) (workScope b w)) ++ leBytes 4 (workTag b w.owner) ++
  leBytes 1 (f.getD 0 0) ++ leBytes 1 (workIssuer w.owner) ++ leBytes 1 (flg w.replay 0 + fld (f.getD 8 0) 3 1) ++
  leBytes 1 (f.getD 1 0) ++ leBytes 8 (f.getD 2 0) ++ leBytes 8 (f.getD 3 0) ++ leBytes 8 (f.getD 4 0) ++ leBytes 8 (f.getD 5 0) ++
  leBytes 8 (f.getD 6 0) ++ leBytes 8 (f.getD 7 0)

/-- A descriptor of an engine's queue: its `j`-th piece of work. -/
def engineDesc (b : Blk) (i : Nat) : Option Bytes :=
  ((b.tre.works.filter fun e => e.2.engine == some (i / 16))[i % 16]?).map fun e => descBytes b e.2

/-- A range-cache entry, shown as its range (Table 06.2). -/
def rangeCacheBytes (b : Blk) (i : Nat) : Option Bytes :=
  (b.xlt.rangeCache[i]?).map fun e => rangeBytes ((rangesOf b e.1).get? e.2.1)

/-- The table sections of Table 13.7, in order: where each lies and what it holds. -/
def dumpTables (b : Blk) : List (Nat × Bytes) :=
  [(0x100000, tableImage 32768 16 fun i => (b.items.get? i).map ledgerBytes),
   (0x180000, tableImage 16384 32 (waitBytes b)),
   (0x200000, tableImage 65536 16 fun i => (b.fen.fences.get? i).map fenceBytes),
   (0x300000, tableImage 4096 64 fun i => (b.mar.seqs.get? i).map seqBytes),
   (0x340000, tableImage 4096 16 (residentBytes b)),
   (0x350000, tableImage 4096 32 (rangeCacheBytes b)),
   (0x370000, tableImage 16384 32 fun i => (b.xlt.hostCache[i]?).map hostBytes),
   (0x3F0000, tableImage 512 64 (engineDesc b)),
   (0x3F8000, List.replicate 32768 0)]

/-- The header but for MAGIC (Table 13.8). -/
def dumpHeader (b : Blk) (d : Dump) : Bytes :=
  leBytes 2 1 ++ leBytes 2 b.chip ++ leBytes 8 d.startFt ++ leBytes 8 b.ft ++ leBytes 1 d.reason ++ leBytes 1 d.cause ++
  leBytes 2 d.culprit ++ leBytes 4 d.badUnits ++ leBytes 4 d.badWords ++ leBytes 4 b.items.length ++ leBytes 4 d.werrs ++
  leBytes 4 0 ++ leBytes 8 d.discards ++ List.replicate 4040 0

/-- The sections of the units that are not yet written. -/
def dumpSections (b : Blk) : Blk := (List.range 18).foldl (fun b u => dumpUnit u b) b

/-- The tables of Table 13.8. -/
def dumpBody (b : Blk) : Blk := (dumpTables b).foldl (fun b t => dumpPut t.1 t.2 b) b

/-- The header, and MAGIC last of all; the registers show the dump that ended, and source 77 fires. -/
def sealDump (b : Blk) : Blk :=
  match b.rcv.dump with
  | none => b
  | some d =>
    let b := dumpPut 0 (leBytes 4 0x44554D50) (dumpPut 4 (dumpHeader b d) b)
    let b := b.pwrU fun p => { p with idleFt := b.ft }
    fire 77 noOne 0 (b.rcvU fun r => { r with
      dump := none
      dumpDone := true
      unreadable := BitVec.ofNat 18 d.badUnits
      unreadWords := d.badWords })

/-- The rest of the dump is written: sections, tables, the header, and MAGIC last of all (R433). -/
def finishDump (b : Blk) : Blk := if b.rcv.dump.isNone then b else sealDump (dumpBody (dumpSections b))

/-- Start a dump (R430): a DUMP_BASE of 0 disables dumps, and one that is requested while another runs is not written and is
counted. The sections of `first` are read at once. -/
def startDump (reason cause culprit : Nat) (first : List Nat) (b : Blk) : Blk :=
  if b.rcv.dumpBase = 0 then b
  else if b.rcv.dump.isSome then pageErr pgRCV 0x0E b
  else
    let d : Dump := { reason := reason, cause := cause, culprit := culprit, startFt := b.ft, discards := b.rcv.brDiscards.val.toNat }
    first.foldl (fun b u => dumpUnit u b) (b.rcvU fun r => { r with dump := some d })

/-- One read of the dump had no answer (R431): the word is written as 0xFFFF_FFFE, and after 16 consecutive ones within a unit so is
the rest of its section. -/
def dumpTimeout (u word : Nat) (b : Blk) : Blk :=
  let note (d : Dump) : Dump :=
    if d.done.contains u ∨ deadWord d u word then d
    else
      let bad := match d.bad.find? fun x => x.1 == u && x.2.1 + x.2.2 == word with
        | some x => d.bad.map fun y => if y = x then (x.1, x.2.1, if 15 ≤ x.2.2 then 8192 - x.2.1 else x.2.2 + 1) else y
        | none => d.bad ++ [(u, word, 1)]
      { d with bad := bad }
  b.rcvU fun r => { r with dump := r.dump.map note }

end Sys2Proof.Machine
end

