-- ==== Sys2Proof/Machine/RcvOps.lean ====
section
/-! DEFINITION. The reset ladder: context, engine, partition and block resets, what each kills and keeps, rollbacks of steps, and
work that moves off a failed engine (R270, R287, R288, R306, R415 to R426). -/

namespace Sys2Proof.Machine

/-! ## Context resets (R421, R441) -/

/-- The result of an item that a rung stops: FAIL_ABORTED with DETAIL_KIND 1 and no discarded line; FAIL_SECURITY for a held
slice. -/
def resetResult (b : Blk) (slice : Nat) : Result := ⟨if sliceHeld b slice then 0x19 else 0x12, 1, 0⟩

/-- A context reset begins. One that is RESTORING or SPILLING is reset when its transition ends. -/
def beginContextReset (c : Nat) (b : Blk) : Blk :=
  match b.contexts.get? c with
  | none => b
  | some e =>
    if e.state = .destroying ∨ e.destroyNext.isSome then b
    else if e.state = .restoring ∨ e.state = .spilling then b.updContext c fun e => { e with resetNext := some (e.resetNext.getD 0) }
    else
      let r := resetResult b e.slice
      let b := b.updContext c fun e => { e with resetNext := some 1 }
      let b := (ctxQueues b c).foldl (fun b q => (dropFetch q b).updQueue q fun x => { x with paused := true }) b
      let b := dropRecords c b
      let b := (b.items.filter fun i => i.2.ctx == c).foldl (fun b i => abortItem i.1 r b) b
      let ft := b.ft
      let now (k : Core) : Core := if k.ctx = some c then { k with stop := k.stop.map fun s => { s with graceFt := ft } } else k
      b.schU fun s => { s with cores := s.cores.mapVals fun _ k => now k }

/-- An item no longer keeps a reset waiting: it has ended and its completion waits at most on the fault path, or it is a remote
signal in flight. -/
def resetPast (it : Item) : Bool :=
  (it.result.isSome && (it.complWait || it.stall.isSome)) || (it.opcode == 6 && it.sig.isSome && it.result.isNone)

/-- Everything that a reset of the context ends has ended. -/
def resetDone (b : Blk) (c : Nat) : Bool :=
  !ctxOnCores b c && b.items.all fun e => e.2.ctx != c || resetPast e.2

/-- A context reset ends: the failure flag of every SQ is set, fetch resumes, and a destruction that waited begins (R421,
R426). -/
def endContextReset (c : Nat) (b : Blk) : Blk :=
  let flagOne (b : Blk) (q : Nat) : Blk :=
    let tag := (Config.flagTag b.free).toNat
    let b : Blk := { b with free := b.free + 1 }
    b.updQueue q fun x => { x with paused := false, flag := some (x.flag.getD tag) }
  let b := (ctxQueues b c).foldl flagOne b
  match b.contexts.get? c with
  | none => b
  | some e =>
    let b := b.updContext c fun e => { e with resetNext := none }
    match e.destroyNext with
    | some d => beginDestroy c d b
    | none => b

/-- A context reset that runs ends once it can. -/
def stepContextReset (c : Nat) (b : Blk) : Blk :=
  match b.contexts.get? c with
  | some e => if e.resetNext = some 1 ∧ resetDone b c then endContextReset c b else b
  | none => b

/-- A spill or a restore has ended: what waited for it begins (R138, R421). -/
def transitionEnded (c : Nat) (b : Blk) : Blk :=
  match b.contexts.get? c with
  | none => b
  | some e =>
    match e.destroyNext with
    | some d => beginDestroy c d (b.updContext c fun e => { e with resetNext := none })
    | none => if e.resetNext = some 0 then beginContextReset c b else b

/-! ## Rollback of a step (R288 to R290) -/

/-- Roll a running step back to operation `k`; one that has been replayed RETRIES times fails instead (R288, R290). -/
def rollback (id k : Nat) (res : Result) (b : Blk) : Blk :=
  match b.mar.runs.get? id with
  | none => b
  | some r =>
    if r.phase ≠ .running then b
    else if r.retries ≤ r.attempt then failRun id res b
    else
      let b := stopOps id k (pauseColls id k b)
      let r' : Run := { r with
        doneOps := r.doneOps.filter (decide <| · < k)
        liveOps := r.liveOps.filter (decide <| · < k)
        staged := r.staged.filter fun s => decide (s.op < k)
        opFail := r.opFail.keep fun op _ => decide (op < k)
        startedOps := min r.startedOps k
        attempt := r.attempt + 1
        replayed := true }
      let b := b.updRun id fun _ => r'
      let b := runWrite r' (batchDesc b r' + 0x18) (leBytes 4 r'.attempt) (writeJournal r' 0 b)
      let b := b.marU fun m => { m with replays := m.replays.bump }
      traceTrigger 5 (traceRec 0x08 r.slice r.ctx r.step
        (r.slot.getD 0 + k % 1024 * 16 + r'.attempt % 256 * 2 ^ 14 + r.runId * 2 ^ 32) true b)

/-- The lowest started operation of a running step without a DONE bit. -/
def lowestOpen (r : Run) : Nat :=
  ((rangeFrom 1 (r.startedOps - 1)).find? fun k => !r.doneOps.contains k).getD r.startedOps

/-! ## A failed transfer engine (R306, R322, R333) -/

/-- The result of an item that cannot move (R422). -/
def cannotMove : Result := ⟨0x12, 1, 0⟩

/-- Where the work of a failed engine goes: n XOR 16 where that is in service, the lowest in service else. -/
def heirEngine (b : Blk) (n : Nat) : Option Nat :=
  if b.tre.up.getLsbD (n ^^^ 16) then some (n ^^^ 16) else (List.range 32).find? fun m => b.tre.up.getLsbD m

/-- Work begins again from its first chunk that was not complete, on an engine or at the head of the intake. -/
def rehome (id : Nat) (engine : Option Nat) (b : Blk) : Blk :=
  let b := b.updWork id fun w => { w with engine := engine, rbuf := [], replay := true }
  b.treU fun t => { t with
    intake := if engine = none then t.intake ++ [id] else t.intake
    failovers := t.failovers.bump }

/-- Operand B of a reduce is its DST, and some of DST is written. -/
def inPlaceBegun (w : Work) : Bool :=
  match w.kind with
  | .reduce _ b dst _ _ _ _ _ => (b == 0 || b == dst) && decide (0 < w.next)
  | _ => false

/-- Move one piece of work off a failed engine. -/
def moveWork (n id : Nat) (b : Blk) : Blk :=
  match b.tre.works.get? id with
  | none => b
  | some w =>
    match w.owner with
    | .op _ _ => b.updWork id fun w => { w with engine := none, stall := some .replay }
    | .item i =>
      match heirEngine b n with
      | none => failWork id cannotMove b
      | some m =>
        if inPlaceBegun w then failWork id cannotMove b
        else
          let b := b.updItem i fun it => { it with replayed := true }
          rehome id (if engItems b m < 16 then some m else none) b
    | _ =>
      match heirEngine b n with
      | none => rehome id none b
      | some m => rehome id (if engItems b m < 16 then some m else none) b

/-- Move the chunks of a collective off a failed engine. -/
def moveColl (n id : Nat) (b : Blk) : Blk :=
  match b.tre.colls.get? id with
  | none => b
  | some c =>
    if c.ended ∨ c.engines.contains n = false then b
    else match heirEngine b n with
      | none => failColl id cannotMove b
      | some m =>
        match c.owner with
        | .item i =>
          if c.nokeep then failColl id cannotMove b
          else
            let slots := (List.range c.engines.length).filter fun j => c.engines.getD j 32 == n
            let moved := (c.todo.filter fun t => t.engine c == n).length
            let b := b.updItem i fun it => { it with replayed := true }
            let b := b.treU fun t => { t with failovers := t.failovers.add moved }
            let b := b.updColl id fun c => { c with engines := c.engines.map fun e => if e = n then m else e, rbuf := [] }
            checkColl id (rerunColl id (fun g => slots.contains (g % max 1 c.engines.length)) b)
        | _ => b.updColl id fun c => { c with
            engines := c.engines.map fun e => if e = n then m else e
            stall := some .replay }

/-- A transfer engine leaves service and its work moves. -/
def treDown (n : Nat) (b : Blk) : Blk :=
  if b.tre.up.getLsbD n then
    let b := b.treU fun t => { t with up := t.up &&& ~~~(1#32 <<< n) }
    let works := (b.tre.works.filter fun e => e.2.engine == some n).map (·.1)
    let colls := b.tre.colls.map (·.1)
    colls.foldl (fun b id => moveColl n id b) (works.foldl (fun b id => moveWork n id b) b)
  else b

/-! ## A failed Marionette (R270, R287) -/

/-- The in-service Marionette that hosts the fewest runs, the lowest on a tie. -/
def fewestRuns (b : Blk) : Option Nat :=
  (sortOn (fun m => b.mar.runs.count fun _ r => r.mar == some m) ((List.range 16).filter fun m => b.mar.up.getLsbD m)).head?

/-- A run moves to another Marionette and resumes from its journal. -/
def moveRun (id : Nat) (b : Blk) : Blk :=
  match fewestRuns b with
  | none => failRun id cannotMove b
  | some m =>
    let b := b.updRun id fun r => { r with mar := some m, replayed := true }
    match b.mar.runs.get? id with
    | some r => if r.phase = .running then rollback id (lowestOpen r) cannotMove b else b
    | none => b

/-- A Marionette leaves service and its runs move. -/
def marDown (m : Nat) (b : Blk) : Blk :=
  if b.mar.up.getLsbD m then
    let b := b.marU fun x => { x with up := x.up &&& ~~~(1#16 <<< m) }
    ((b.mar.runs.filter fun e => e.2.mar == some m).map (·.1)).foldl (fun b id => moveRun id b) b
  else b

/-! ## A failed dispatch port (R422, Table 13.6) -/

/-- The launches that a dispatch word would have started: the one whose work group it places, or those of the record it restores. -/
def wordLaunches (b : Blk) (w : PortWord) : List Nat :=
  let n := w.word.toNat
  if n / 2 ^ 252 ≠ 0 then []
  else if bit n 243 then
    match (b.core w.core).restoring with
    | some (c, pos) => ((((b.contexts.get? c).bind fun e => e.records.get? pos).map fun r => r.groups).getD []).map (·.launch)
    | none => []
  else ((b.core w.core).groups.filter fun g =>
    (b.sch.launches.get? g.launch).any fun l => launchWord b l g.index / 2 ^ 64 == n / 2 ^ 64).map (·.launch)

/-- A word that no port is left to carry: what it would have started cannot move and ends (R422). -/
def loseWord (w : PortWord) (b : Blk) : Blk :=
  let n := w.word.toNat
  let ids := (wordLaunches b w).dedup
  let b := match (b.core w.core).restoring with
    | some (c, pos) =>
      if bit n 243 then
        syncSaveArea c ((b.updContext c fun x => { x with records := x.records.del pos }).updCore w.core fun k => { k with
          restoring := none
          ctx := if k.groups.isEmpty && k.stop.isNone then none else k.ctx })
      else b
    | none => b
  let flushed := if n / 2 ^ 252 = 1 then (b.sch.flush.filter fun f => f.pa % 2 ^ 58 == bits n 64 58).map (·.item) else []
  let b := flushed.foldl (fun b i => abortItem i cannotMove b) b
  ids.foldl (fun b id => stopLaunch id cannotMove b) b

/-- A dispatch port leaves service, and the words it may have lost are issued on another. -/
def portLeaves (port : Nat) (b : Blk) : Blk :=
  let lost := b.sch.words.filter fun w => w.port == port && decide (b.ft ≤ w.atFt + 80)
  let b := b.schU fun s => { s with
    portsUp := s.portsUp &&& ~~~(1#4 <<< port)
    words := s.words.filter fun w => w.port != port }
  if (upPort b).isSome then lost.foldl (fun b w => issueWord w.core w.word.toNat b) b else lost.foldl (fun b w => loseWord w b) b

/-! ## Rungs (R420, R426) -/

/-- The RUNG record (Table 15.2); a rung triggers the trace (R468). -/
def rungRec (op target : Nat) (ended : Bool) (b : Blk) : Blk :=
  traceEvent 2 0x11 noOne noOne (op + if ended then 8 else 0) target b

/-- The engine that a TARGET names: its unit code and instance (R434). -/
def engineTarget (t : Nat) : Option (Nat × Nat) :=
  let u := bits t 8 8
  let n := bits t 0 8
  if u = 0x24 ∧ n < 32 ∨ u = 0x21 ∧ n < 16 ∨ u = 0x20 ∧ n < 4 then some (u, n) else none

/-- What keeps a rung below the block reset from running: its result code (R423, R426, R434). -/
def rungRefused (b : Blk) (op target : Nat) : Option Nat :=
  match op with
  | 0 => match b.contexts.get? target with
    | none => some 0x11
    | some e => if e.state = .destroying then some 0x11 else none
  | 1 => if (engineTarget target).isSome then none else some 0x17
  | 2 => if 64 ≤ target then some 0x17 else if b.partitions.has target then none else some 0x11
  | _ => some 0x17

/-- The dump section of an engine's unit (R432, R433). -/
def engineSection (u : Nat) : Nat := if u = 0x24 then 13 else if u = 0x21 then 10 else 9

/-- The contexts of every slice of a partition. -/
def partContexts (b : Blk) (p : Nat) : List Nat :=
  (b.contexts.filter fun e => slicePart b e.2.slice == p).map (·.1)

/-- Every core of a list gets a discard stop. -/
def discardCores (cs : List Nat) (b : Blk) : Blk := cs.foldl (fun b c => stopCore c false none b) b

/-- What a rung does first. -/
def rungAct (op target : Nat) (b : Blk) : Blk :=
  match op with
  | 0 => beginContextReset target (b.rcvU fun r => { r with ctxResets := r.ctxResets.bump })
  | 1 =>
    let b := b.rcvU fun r => { r with engResets := r.engResets.bump }
    match engineTarget target with
    | none => b
    | some (u, n) =>
      let b := if b.rcv.dumpOnReset then startDump 2 0 0xFFFF [engineSection u] b else b
      if u = 0x24 then treDown n b else if u = 0x21 then marDown n b else portLeaves n b
  | _ =>
    let b := b.rcvU fun r => { r with partResets := r.partResets.bump, partFill := none }
    let b := if b.rcv.dumpOnReset then startDump 3 0 0xFFFF [9] b else b
    discardCores (partCores b target) ((partContexts b target).foldl (fun b c => beginContextReset c b) b)

/-- A rung begins. -/
def beginRung (op target : Nat) (b : Blk) : Blk :=
  rungAct op target (rungRec op target false (b.rcvU fun r => { r with busy := some ⟨op, target⟩, lastOp := op }))

/-- The next automatic rung whose target still allows it (R426). -/
def nextRung : List Rung → Blk → Blk
  | [], b => b.rcvU fun r => { r with waitingRungs := [] }
  | g :: rest, b =>
    if (rungRefused b g.op g.target).isNone then beginRung g.op g.target (b.rcvU fun r => { r with waitingRungs := rest })
    else nextRung rest b

/-- A rung ends: its record, source 76 and BUSY (R420). -/
def rungEnd (b : Blk) : Blk :=
  match b.rcv.busy with
  | none => b
  | some g =>
    let b := (b.rcvU fun r => { r with busy := none, result := 0 }).pwrU fun p => { p with idleFt := b.ft }
    let b := fire 76 noOne (BitVec.ofNat 32 g.op) (rungRec g.op g.target true b)
    nextRung b.rcv.waitingRungs b

/-- A rung that R419 asks for: it waits while another runs (R426). -/
def autoRung (op target : Nat) (b : Blk) : Blk :=
  if b.rcv.busy.isSome then b.rcvU fun r => { r with waitingRungs := r.waitingRungs ++ [⟨op, target⟩] }
  else if (rungRefused b op target).isSome then b
  else beginRung op target b

/-- The cores of a partition reset come to rest: one engine fills the LWA of every core with zeros, as class-7 work with the rung's bound
as its deadline (R423). -/
def startPartFill (p : Nat) (b : Blk) : Blk :=
  let cores := partCores b p
  let total := cores.length * lwaBytes b
  addWork (.lwaFill p) (.fill (lwaBase b (cores.headD 0)) total) 0 noOne 7 (some (b.ft + 3000000)) total
    (b.rcvU fun r => { r with partFill := some p })

/-- A core whose fault line is low returns to service. -/
def coreReturns (c : Nat) (b : Blk) : Blk := b.updCore c fun k => if k.faultLine then k else { k with out := false, hung := false }

/-- The cores of a mask whose work groups have not stopped. -/
def coresBusy (b : Blk) (p : Nat) : Bool := (partCores b p).any fun c => !(b.core c).groups.isEmpty && !(b.core c).out

/-- The rung in progress goes on or ends where it can: a context reset, the steps of a partition reset (R421, R423). -/
def stepRung (b : Blk) : Blk :=
  match b.rcv.busy with
  | none => b
  | some g =>
    match g.op with
    | 0 => if (b.contexts.get? g.target).any fun e => e.resetNext.isSome then b else rungEnd b
    | 2 =>
      if b.rcv.partFill = some g.target then
        if fillsOf b (.lwaFill g.target) then b
        else rungEnd ((partCores b g.target).foldl (fun b c => coreReturns c b) (b.rcvU fun r => { r with partFill := none }))
      else if (partContexts b g.target).any fun c => (b.contexts.get? c).any fun e => e.resetNext.isSome then b
      else if coresBusy b g.target then b
      else startPartFill g.target b
    | _ => b

/-! ## Block reset (R424) -/

/-- What of CTX survives: its Ret Y fields, the place in the teardown log, and what the spill records hold. -/
def Ctx.keptBlock (c : Ctx) : Ctx :=
  { base := c.base, tablesEn := c.tablesEn, td := c.td, tdLog2 := c.tdLog2, tdHead := c.tdHead, tdTail := c.tdTail,
    tdPhase := c.tdPhase, spilled := c.spilled }

/-- What of XLT survives: the area, and the ranges that are VALID; the epoch restarts at 1. -/
def Xlt.keptBlock (x : Xlt) : Xlt :=
  { area := x.area, areaEn := x.areaEn, ranges := x.ranges.mapVals fun _ t => t.keep fun _ r => r.valid }

/-- What of a regulator survives: window length and budgets; its window is the one that time lies in. -/
def Regulator.keptBlock (r : Regulator) (ft : Nat) : Regulator :=
  { winK := r.winK, budgets := r.budgets, staged := r.budgets, remaining := r.budgets.map fun n => (n : Int),
    windowFt := ft / (1024 * 2 ^ r.winK) * (1024 * 2 ^ r.winK) }

/-- What of BWR survives: window lengths and budgets. -/
def Bwr.keptBlock (w : Bwr) (ft : Nat) : Bwr := { regs := w.regs.mapVals fun _ r => r.keptBlock ft }

/-- A source's configuration (Ret Y), without count and pending state. -/
def Source'.config (s : Source') : Source' :=
  { owner := s.owner, prio := s.prio, assigned := s.assigned, wake := s.wake, filter := s.filter, activeLow := s.activeLow,
    enabled := s.enabled }

/-- What of EVC survives: configuration, and the counts of global sources that slice 0 owns. -/
def Evc.keptBlock (v : Evc) : Evc :=
  { mode := 3, lines := v.lines,
    sources := v.sources.mapVals fun _ s => if s.assigned ∧ s.owner = 0 then s else s.config }

/-- What of RCV survives, beside the rung that runs. -/
def Rcv.keptBlock (r : Rcv) : Rcv :=
  { stallMs := r.stallMs, engineUs := r.engineUs, launchMs := r.launchMs, autoCtx := r.autoCtx, autoEng := r.autoEng,
    dumpOnReset := r.dumpOnReset, dumpOnHang := r.dumpOnHang, dumpBase := r.dumpBase, result := r.result, lastOp := r.lastOp,
    busy := r.busy, dump := r.dump, dumpDone := r.dumpDone, dumpWerr := r.dumpWerr, unreadable := r.unreadable,
    unreadWords := r.unreadWords, blockPhase := r.blockPhase, blockLog := r.blockLog, blockResets := r.blockResets,
    brDiscards := r.brDiscards }

/-- What of TRC survives: FROZEN is set, and the Ret Y fields keep (R475). -/
def Trc.keptBlock (t : Trc) : Trc :=
  { mode := t.mode, frozen := true, base := t.base, log2 := t.log2, postCount := t.postCount, kindMask := t.kindMask }

/-- What of PWR survives: the block stays in B0, ready, with its Ret Y fields. -/
def Pwr.keptBlock (p : Pwr) (ft : Nat) : Pwr :=
  { supplies := p.supplies, idleB1Us := p.idleB1Us, rsValid := p.rsValid, startKind := p.startKind, selfTestDone := p.selfTestDone,
    startGo := p.startGo, coldStart := p.coldStart, ready := p.ready, readyFt := p.readyFt, idleFt := ft, armedFt := p.armedFt,
    retained := p.retained }

/-- The registers of a view page that survive: those of SEC (Table 14.14). -/
def View.keptBlock (v : View) : View :=
  { niSelf := v.niSelf, niMgr := v.niMgr, niChal := v.niChal, niChalWords := v.niChalWords, niResp := v.niResp }

/-- The page headers after a block reset: errors and FREEZE clear, LOCKED stays (R484, R488, R489). -/
def PageHdr.keptBlock (h : PageHdr) : PageHdr := { locked := h.locked }

/-- Every state of the block that a block reset does not keep is lost; the ledger goes to the log that is written next. Every engine is
tested again: one whose own test fails is out of service. -/
def blockLose (b : Blk) : Blk :=
  let c := carveKey b
  let n : Blk := { b with
    ctx := b.ctx.keptBlock, xlt := b.xlt.keptBlock, bwr := b.bwr.keptBlock b.ft, evc := b.evc.keptBlock, trc := b.trc.keptBlock
    pwr := b.pwr.keptBlock b.ft
    fen := { kept := b.fen.kept }
    mbx := { b.mbx with svec := 0, svecEn := false }
    sch := { lwa := b.sch.lwa, portsUp := 0xF, cores := b.sch.cores.mapVals fun _ k => { out := k.out, faultLine := k.faultLine } }
    mar := {}
    mdl := { rows := b.mdl.rows, storeBlocks := b.mdl.storeBlocks, storeEn := b.mdl.storeEn }
    tre := {}
    lmf := { b.lmf with outstanding := [] }
    hlu := { cplToMs := b.hlu.cplToMs, vfEnable := b.hlu.vfEnable, numVfs := b.hlu.numVfs }
    qfe := {}
    rcv := { b.rcv.keptBlock with blockPhase := 2, blockLog := b.items }
    own := { b.own with pushes := [], grant := none, reclaim := none }
    slices := b.slices.mapVals fun _ s => { s with deficit := 0, lastSlot := [511, 511, 511, 511], drainPhase := if s.draining then 1 else 0, drainFt := b.ft }
    contexts := [], queues := [], items := [], latches := []
    views := b.views.mapVals fun _ v => v.keptBlock
    pages := b.pages.mapVals fun _ h => h.keptBlock }
  let n := if n.mdl.storeEn then openStore n else n
  if n.ctx.tablesEn then zeroMem (c + 0x100000) 0x400000 n else n

/-- The log record of one ledger entry (R424 step 4). -/
def blockResult (it : Item) : Result :=
  match it.sig with
  | some s => if s.txn.isSome ∧ it.result.isNone then ⟨0x12, 3, field it.entry 0x12 2 % 1024⟩ else ⟨0x12, 0, 0⟩
  | none => ⟨0x12, 0, 0⟩

/-- Write the log records that fit; a full log waits and fires source 64 (R137). -/
def writeBlockLog : List (Nat × Item) → Blk → Blk
  | [], b => b.rcvU fun r => { r with blockLog := [], blockPhase := 3 }
  | e :: rest, b =>
    if tdRoom b then writeBlockLog rest (tdPut e.2 (blockResult e.2) b)
    else (if b.rcv.blockLog = e :: rest then b else fire 64 noOne 0 b).rcvU fun r => { r with blockLog := e :: rest }

/-- The block reset's log goes on where it stands. -/
def stepBlock (b : Blk) : Blk := if b.rcv.blockPhase = 2 then writeBlockLog b.rcv.blockLog b else b

/-- A block reset begins: it is never refused, and it ends whatever rung runs (R424 steps 1 to 3, R426). -/
def beginBlockReset (b : Blk) : Blk :=
  if b.rcv.blockPhase ≠ 0 then b
  else
    let b := b.rcvU fun r => { r with
      busy := some ⟨3, 0⟩
      lastOp := 3
      waitingRungs := []
      partFill := none
      blockPhase := 1
      blockResets := r.blockResets.bump }
    let b : Blk := { b with pages := b.pages.mapVals fun _ h => { h with freeze := false } }
    let b := (leaveB1 b).evcU fun v => { v with mode := 3 }
    let b := rungRec 3 0 false b
    let b := (List.range 192).foldl (fun b c => b.emit (.discardStop c)) b
    let b := if b.rcv.dumpOnReset then startDump 4 0 0xFFFF [] b else b
    if b.rcv.dumpOnReset ∧ b.rcv.dump.any fun d => d.reason == 4 then b else stepBlock (blockLose b)

/-- The block's self-test and scrub end: LWA of every core is zero, the store's pieces are pushed as "no owner", what passed
returns to service, and the block is ready with its retained configuration (R424 steps 5 and 6). A failed test leaves every engine out
of service. -/
def endBlockReset (pass : Bool) (b : Blk) : Blk :=
  let lwa := lwaBytes b
  let b := (List.range 192).foldl (fun b c => zeroMem (2 ^ 46 + c * 4194304 + (4194304 - lwa)) lwa b) b
  let pieces := if b.mdl.storeEn then ((List.range 192).map fun k => (List.range b.mdl.rows).map fun r => 2 ^ 30 + k * 64 + r).flatten else []
  let b := if pieces.isEmpty then b else pushOwner pieces none none b
  let b := (List.range 192).foldl (fun b c => if (b.core c).out then coreReturns c b else b) b
  let b : Blk := { b with
    tre := { b.tre with up := if pass then b.tre.up else 0 }
    mar := { b.mar with up := if pass then b.mar.up else 0 }
    sch := { b.sch with portsUp := if pass then b.sch.portsUp else 0 }
    pages := if pass then b.pages else b.pages.set pgGEN { b.hdr pgGEN with selftestFail := true }
    evc := { b.evc with mode := 1 }
    pwr := { b.pwr with startKind := 3, readyFt := b.ft }
    rcv := { b.rcv with blockPhase := 0 } }
  rungEnd b

end Sys2Proof.Machine
end

