-- ==== Sys2Proof/Machine/Settle.lean ====
section
/-! DEFINITION. The pass that lets everything go on that may go on once something has ended. -/

namespace Sys2Proof.Machine

/-- Items whose engine work is done end (R305). -/
def settleWorks (b : Blk) : Blk :=
  b.tre.works.foldl (fun b e => match e.2.owner with
    | .item i => if e.2.total ≤ e.2.next ∧ workPending b e.1 = false then endItem i okResult (dropWork e.1 b) else b
    | _ => b) b

/-- A PREEMPT completes when none of its context's cores is stopping any more (R269); one that holds waits for the restores in
progress too, whose work groups it stops again. -/
def settlePreempt (b : Blk) : Blk :=
  match b.sch.pbusy with
  | none => b
  | some c =>
    if b.sch.cores.any fun k => k.2.ctx == some c && (k.2.stop.isSome || (k.2.restoring.isSome && ctxHeld b c)) then b
    else b.schU fun s => { s with pbusy := none, presult := 0 }

/-- A waiting PIN_CONTEXT completes when its context is resident (R132). -/
def settlePin (b : Blk) : Blk :=
  match b.ctx.pinWait with
  | none => b
  | some c => match b.contexts.get? c with
    | some e => if e.state = .resident then
        b.ctxU fun x => { x with pinWait := none, busy := false, result := 0, resultId := 0 } else b
    | none => b

/-- One pass over all that may go on. -/
def settleOnce (b : Blk) : Blk :=
  let b := settleLaunches (settleInvals b)
  let b := settleWorks (dropFills b)
  let b := settleStuck (settleLoads (finishEvicts b))
  let b := settleLeft (settleCommits (settleRuns (settleReady (serveAll b))))
  let b := settleItems b
  let b := b.contexts.foldl (fun b e => stepTeardown e.1 (stepContextReset e.1 b)) b
  let b := stepReclaim (stepGrant b)
  let b := b.slices.foldl (fun b e => if e.2.drainPhase = 0 then b else stepDrain e.1 b) b
  stepRung (stepBlock (settlePin (settlePreempt b)))

/-- Context entries whose counts have changed are written to their table (Table 03.7). -/
def settleTables (b : Blk) : Blk :=
  b.contexts.foldl (fun b e =>
    if loadLocal b (carveKey b + 0x100000 + e.1 * 64) 64 = contextBytes b e.1 then b else syncContext e.1 b) b

/-- Let everything that may go on go on: a few passes, since the end of one thing frees another. While a block reset holds the block
frozen only its own log goes on (R424); in B2 nothing does (R452). -/
def settle (b : Blk) : Blk :=
  if b.rcv.blockPhase ≠ 0 then stepBlock b
  else if 2 ≤ b.pwr.pstate then b
  else settleTables (settleOnce (settleOnce (settleOnce (settleOnce b))))

end Sys2Proof.Machine
end

