-- ==== Sys2Proof/Machine/Operands.lean ====
section
/-! DEFINITION. Operand forms of submission entries: the checks of the header and of each command's fields (R71 to R77, Tables
02.6 to 02.23), and the checks of a queue descriptor (Table 02.1). -/

namespace Sys2Proof.Machine

/-- The span of an operand of `n` elements of a memory format. -/
def elemSpan (dva n fmt : Nat) : Nat × Nat := (dva, n * memSize fmt)

/-- LAUNCH (Table 02.9, R246). -/
def launchFields (e : Bytes) : List (Nat × Bool) :=
  [(0x10, field e 0x10 8 % 256 == 0), (0x18, field e 0x18 8 % 8 == 0), (0x20, field e 0x20 4 != 0), (0x24, field e 0x24 2 != 0),
   (0x26, field e 0x26 2 != 0), (0x28, decide (field e 0x28 4 ≤ 4096) && field e 0x28 4 % 8 == 0),
   (0x2C, decide (field e 0x2C 4 ≤ 4194304)), (0x34, zeroSpan e 0x34 4), (0x38, zeroSpan e 0x38 8)]

/-- COPY (Table 02.10, R307). -/
def copyFields (e : Bytes) : List (Nat × Bool) :=
  let src := rowSpan (field e 0x10 8) (field e 0x20 4) (field e 0x24 4) (field e 0x28 8)
  let dst := rowSpan (field e 0x18 8) (field e 0x20 4) (field e 0x24 4) (field e 0x30 8)
  let some' := field e 0x20 4 != 0 && field e 0x24 4 != 0
  [(0x18, !(some' && spansMeet src dst)), (0x20, field e 0x20 4 != 0), (0x24, field e 0x24 4 != 0), (0x38, zeroSpan e 0x38 8)]

/-- REDUCE (Table 02.11, R312): alignment to the element, and an operand is DST or does not meet it. -/
def reduceFields (e : Bytes) : List (Nat × Bool) :=
  let sf := field e 0x25 1
  let df := field e 0x26 1
  let n := field e 0x20 4
  let dst := elemSpan (field e 0x18 8) n df
  let clear (s : Nat × Nat) : Bool := s == dst || !spansMeet s dst
  let b0 := field e 0x28 8
  [(0x10, field e 0x10 8 % memSize sf == 0),
   (0x18, field e 0x18 8 % memSize df == 0 && clear (elemSpan (field e 0x10 8) n sf) && (b0 == 0 || clear (elemSpan b0 n sf))),
   (0x20, n != 0), (0x24, decide (field e 0x24 1 ≤ 2)), (0x25, decide (sf ≤ 1)), (0x26, decide (df ≤ 1)), (0x27, zeroSpan e 0x27 1),
   (0x28, b0 == 0 || b0 % memSize sf == 0), (0x30, zeroSpan e 0x30 16)]

/-- COLLECTIVE (Table 02.12, R312). What depends on the group is checked when the item starts. -/
def collectiveFields (e : Bytes) : List (Nat × Bool) :=
  let fmt := field e 0x26 1
  [(0x10, field e 0x10 8 % memSize fmt == 0), (0x18, field e 0x18 8 % memSize fmt == 0), (0x20, field e 0x20 4 % 32 == 0),
   (0x24, decide (field e 0x24 1 ≤ 4)),
   (0x25, if field e 0x24 1 < 2 then decide (field e 0x25 1 ≤ 2) else field e 0x25 1 == 0),
   (0x26, decide (fmt ≤ 1)), (0x27, decide (field e 0x27 1 ≤ 8)), (0x30, zeroSpan e 0x30 16)]

/-- KV_MOVE (Table 02.13). -/
def kvMoveFields (e : Bytes) : List (Nat × Bool) :=
  let n := field e 0x20 4
  [(0x20, n % 64 == 0 && decide (64 ≤ n) && decide (n ≤ 1048576)),
   (0x24, decide (1 ≤ field e 0x24 4) && decide (field e 0x24 4 ≤ 65536)), (0x38, zeroSpan e 0x38 8)]

/-- FENCE_SIGNAL (Table 02.14). -/
def signalFields (e : Bytes) : List (Nat × Bool) :=
  [(0x12, decide (field e 0x12 2 < 1024)), (0x14, decide (field e 0x14 1 < 2)), (0x15, zeroSpan e 0x15 3), (0x20, zeroSpan e 0x20 32)]

/-- FENCE_WAIT (Table 02.15). -/
def waitFields (e : Bytes) : List (Nat × Bool) := [(0x12, zeroSpan e 0x12 6), (0x20, zeroSpan e 0x20 32)]

/-- FLUSH_RANGE (Table 02.16). -/
def flushFields (e : Bytes) : List (Nat × Bool) :=
  [(0x10, field e 0x10 8 % 64 == 0), (0x18, field e 0x18 8 % 64 == 0 && field e 0x18 8 != 0), (0x20, decide (field e 0x20 1 ≤ 1)),
   (0x21, zeroSpan e 0x21 31)]

/-- MODEL_LOAD (Table 02.17). -/
def modelLoadFields (e : Bytes) : List (Nat × Bool) :=
  let n := field e 0x20 8
  [(0x14, zeroSpan e 0x14 4), (0x20, n % 2097152 == 0 && n != 0 && decide (n ≤ 671088640)), (0x28, zeroSpan e 0x28 24)]

/-- MODEL_PIN (Table 02.18). -/
def modelPinFields (e : Bytes) : List (Nat × Bool) := [(0x14, decide (field e 0x14 1 ≤ 1)), (0x15, zeroSpan e 0x15 43)]

/-- STEP_RUN (Table 02.19). -/
def stepRunFields (e : Bytes) : List (Nat × Bool) :=
  [(0x10, field e 0x10 8 % 64 == 0), (0x18, decide (1 ≤ field e 0x18 2) && decide (field e 0x18 2 ≤ 1024)), (0x1A, zeroSpan e 0x1A 2),
   (0x1C, decide (1 ≤ field e 0x1C 4) && decide (field e 0x1C 4 ≤ 4096)), (0x34, zeroSpan e 0x34 4)]

/-- ALLOC (Table 02.22). -/
def allocFields (e : Bytes) : List (Nat × Bool) :=
  let kind := field e 0x10 1
  let n := field e 0x18 8
  [(0x10, decide (kind ≤ 2)), (0x11, zeroSpan e 0x11 7), (0x18, if kind = 2 then n == 0 else n % 65536 == 0 && n != 0),
   (0x20, field e 0x20 8 % 8 == 0), (0x28, kind == 2 || field e 0x28 8 % 65536 == 0), (0x30, zeroSpan e 0x30 16)]

/-- FREE (Table 02.23). -/
def freeFields (e : Bytes) : List (Nat × Bool) :=
  [(0x10, decide (field e 0x10 1 ≤ 2)), (0x11, zeroSpan e 0x11 7), (0x20, zeroSpan e 0x20 32)]

/-- The fields of a command, by offset (Tables 02.9 to 02.23). -/
def bodyFields (e : Bytes) : List (Nat × Bool) :=
  match field e 0 1 with
  | 0x01 => launchFields e
  | 0x02 => copyFields e
  | 0x03 => reduceFields e
  | 0x04 => collectiveFields e
  | 0x05 => kvMoveFields e
  | 0x06 => signalFields e
  | 0x07 => waitFields e
  | 0x08 => flushFields e
  | 0x09 => modelLoadFields e
  | 0x0A => modelPinFields e
  | 0x0B => stepRunFields e
  | 0x0C => [(0x20, zeroSpan e 0x20 32)]
  | 0x0D => [(0x18, zeroSpan e 0x18 40)]
  | 0x0E => allocFields e
  | _ => freeFields e

/-- A remote FENCE_SIGNAL names SCOPE FABRIC or SYSTEM (R163). -/
def signalScopeOk (b : Blk) (e : Bytes) : Bool :=
  field e 0 1 != 0x06 || field e 0x12 2 % 1024 == b.chip || decide (4 ≤ field e 3 1)

/-- The header of an entry, by offset (R72, R73, R75, R163, Table 02.6). -/
def headerFields (b : Blk) (e : Bytes) : List (Nat × Bool) :=
  [(0x00, decide (1 ≤ field e 0 1) && decide (field e 0 1 ≤ 0x0F)), (0x01, decide (field e 1 1 < 8)), (0x02, decide (field e 2 1 < 8)),
   (0x03, decide (field e 3 1 < 6) && signalScopeOk b e), (0x08, !(field e 2 1 % 8 == 7 && field e 8 4 == 0)), (0x0E, zeroSpan e 0x0E 2)]

/-- A RUN_ID that a live STEP_RUN of the slice uses (R92). -/
def runIdLive (b : Blk) (slice runId : Nat) : Bool :=
  b.items.any fun e => e.2.slice == slice && e.2.opcode == 0x0B && e.2.result.isNone && field e.2.entry 0x30 4 == runId

/-- The offset of the first field that does not hold. -/
def firstBad (l : List (Nat × Bool)) : Option Nat := (l.find? fun f => !f.2).map (·.1)

/-- What checking an entry finds (R77, R98, R100): malformed fields rank before the class ceiling. -/
def entryFault (b : Blk) (slice : Nat) (e : Bytes) : Option Result :=
  match firstBad (headerFields b e ++ bodyFields e) with
  | some off => some (fieldResult 0x17 off)
  | none =>
    if field e 0 1 = 0x0B ∧ runIdLive b slice (field e 0x30 4) then some (fieldResult 0x17 0x30)
    else if (b.slices.get? slice).any fun s => decide (s.clsMax < field e 2 1 % 8) then some (fieldResult 0x11 0x02)
    else none

/-! ## Queue descriptors (R55, R56) -/

/-- Queues of a kind on the device. -/
def queueCount (b : Blk) (isSq : Bool) : Nat := b.queues.count fun _ q => q.isSq == isSq
/-- Queues of a slice. -/
def sliceQueues (b : Blk) (slice : Nat) : Nat := b.queues.count fun k _ => k / 512 == slice

/-- The fields of a queue descriptor are in range and RING is aligned (Table 02.1). -/
def queueFieldsOk (d : Bytes) : Bool :=
  let isSq := field d 8 1 == 0
  let log2 := field d 9 1
  let size := 2 ^ log2 * (if isSq then 64 else 16)
  decide (field d 8 1 ≤ 1) && decide (4 ≤ log2) && decide (log2 ≤ 16) && decide (field d 0x0A 2 < 512) &&
  (if isSq then decide (field d 0x0C 2 < 512) && decide (field d 0x0E 1 ≤ 3) && field d 0x0F 1 == 0
   else zeroSpan d 0x0C 3 && decide (field d 0x0F 1 ≤ 1) && zeroSpan d 0x10 4) &&
  zeroSpan d 0x14 12 && field d 0 8 % min size 4096 == 0

/-- An SQ names the slot of an active CQ of its slice. -/
def cqActive (b : Blk) (slice slot : Nat) : Bool := (b.queues.get? (qkey slice slot)).any fun q => !q.isSq && !q.draining

/-- The outcome of creating a queue from a descriptor: a failure code, or none (R55, R56, R139). -/
def queueFault (b : Blk) (slice : Nat) (d : Bytes) : Option Nat :=
  let isSq := field d 8 1 == 0
  if (b.slices.get? slice).any (·.draining) then some 0x11
  else if !queueFieldsOk d ∨ (b.queues.has (qkey slice (field d 0x0A 2)) ∨ (isSq ∧ !cqActive b slice (field d 0x0C 2))) then some 0x17
  else if isSq ∧ !((b.contexts.get? (field d 0x10 4)).any fun c => c.slice == slice && c.state != .destroying) then some 0x11
  else if 65536 ≤ queueCount b isSq ∨ (b.slices.get? slice).any (fun s => decide (s.maxQueues ≤ sliceQueues b slice)) then some 0x18
  else none

end Sys2Proof.Machine
end

