-- ==== Sys2Proof/Machine/Queues.lean ====
section
/-! DEFINITION. Queues, doorbells, arbitration, fetch, and how items start and expire (R52 to R107, R503). -/

namespace Sys2Proof.Machine

/-! ## Doorbells (R17, R20, R21, R60 to R64, R106) -/

/-- One doorbell write discarded or ignored (Table 16.6 DB_DROPS). -/
def dropDoorbell (b : Blk) : Blk := b.qfeU fun q => { q with dbDrops := q.dbDrops.bump }

/-- Contexts that a change of a slice's CQ slot may make runnable. -/
def wakePaired (slice cq : Nat) (b : Blk) : Blk :=
  b.queues.foldl (fun b e => if e.1 / 512 = slice ∧ e.2.isSq ∧ e.2.cq = cq then wakeContext e.2.ctx b else b) b

/-- An admitted doorbell of a slot in use: a new tail or a new head (R20, R21, R61, R64). -/
def ringSlot (who : Who) (slice slot index : Nat) (q : Queue) (b : Blk) : Blk :=
  let n := 2 ^ q.log2
  if b.rcv.blockPhase ≠ 0 then dropDoorbell b
  else if q.isSq then
    if ctxDestroying b q.ctx then dropDoorbell b
    else if n ≤ index then dropDoorbell (errFrom who slice pgQFE 0x05 b)
    else wakeContext q.ctx (b.updQueue (qkey slice slot) fun q => { q with tail := index })
  else if n ≤ index ∨ (q.tail + n - q.head) % n < (index + n - q.head) % n then errFrom who slice pgQFE 0x05 b
  else wakePaired slice slot (b.updQueue (qkey slice slot) fun q => { q with head := index })

/-- A doorbell for a slot: a FREE slot takes none (R60). -/
def ringDoorbell (who : Who) (slice slot index : Nat) (b : Blk) : Blk :=
  match b.queues.get? (qkey slice slot) with
  | none => dropDoorbell (errFrom who slice pgQFE 0x07 b)
  | some q => ringSlot who slice slot index q b

/-- A write of a doorbell page: its size, its slice, its writer (R17, R53, R54, R60), then the doorbell. -/
def onDoorbell (who : Who) (page off size : Nat) (w : W32) (b : Blk) : Blk :=
  match gatePower who pgQFE true b with
  | (b, false) => b
  | (b, true) =>
    let good := (size == 4 || size == 8) && off % 8 == 0 && decide (off < 4096)
    match pageSlice b who page with
    | none => if good then pageErr pgQFE 0x07 b else dropDoorbell (pageErr pgQFE 0x01 b)
    | some s =>
      if !good then dropDoorbell (errFrom who s pgQFE 0x01 b)
      else if !ownAccess b who s then dropDoorbell (pageErr pgQFE 0x02 b)
      else ringDoorbell who s (off / 8) (w.toNat % 65536) b

/-- SQ_DOORBELL_WRITE. -/
def execSqDoorbellWrite (who : Who) (page off size : Nat) (w : W32) (s : State) : Host.Outcome State Fault Refusal :=
  act (fun b => onDoorbell who page off size w b) s

/-- CQ_DOORBELL_WRITE. -/
def execCqDoorbellWrite (who : Who) (page off size : Nat) (w : W32) (s : State) : Host.Outcome State Fault Refusal :=
  act (fun b => onDoorbell who page off size w b) s

/-- DEVICE_DOORBELL (R106): only local MMIO with the Burgee of the page's own slice rings it. -/
def execDeviceDoorbell (who : Who) (page size : Nat) (w : W32) (s : State) : Host.Outcome State Fault Refusal :=
  act (fun b =>
    match gatePower who (pgView page) true b with
    | (b, false) => b
    | (b, true) => match pageSlice b who page with
      | none => pageErr pgQFE 0x07 b
      | some s =>
        if !sizeIs size then dropDoorbell (errFrom who s pgQFE 0x01 b)
        else match who with
          | .core slice _ =>
            if slice = s then ringDoorbell who s (bits w.toNat 0 9) (bits w.toNat 16 16) b
            else dropDoorbell (pageErr pgQFE 0x02 b)
          | _ => dropDoorbell (errFrom who s pgQFE 0x02 b)) s

/-! ## Q_CMD (R55 to R59) -/

/-- The operation in Q_CMD ends with a RESULT. -/
def qDone (slice code : Nat) (b : Blk) : Blk := b.updView slice fun v => { v with qOp := none, qResult := code }

/-- Create the queue that a descriptor describes (R55, R56). -/
def createFrom (slice : Nat) (d : Bytes) (b : Blk) : Blk :=
  match queueFault b slice d with
  | some code => qDone slice code b
  | none =>
    let q : Queue := {
      isSq := field d 8 1 == 0
      ring := field d 0 8
      log2 := field d 9 1
      cq := field d 0x0C 2
      prio := field d 0x0E 1
      pennantAll := bit (field d 0x0F 1) 0
      ctx := field d 0x10 4 }
    qDone slice 0 { b with queues := b.queues.set (qkey slice (field d 0x0A 2)) q }

/-- A final fault of the descriptor read (R57). -/
def createFault (slice dva cause : Nat) (b : Blk) : Blk :=
  let f : FaultInfo := { dva := dva, ctx := noOne, sq := 0, tag := 0, cause := cause, write := false, source := 0x11, outcome := 0 }
  let code := causeStatus cause
  match recordFault slice f none (some ⟨code, 0, 0⟩) b with
  | (b, true) => qDone slice code b
  | (b, false) => b

/-- The descriptor's bytes came, or did not. -/
def createGot (slice : Nat) (ext : ExtRead) (b : Blk) : Blk :=
  match (b.view slice).qOp with
  | some (.create _) => match ext with
    | .data d => createFrom slice d b
    | _ => qDone slice 0x16 b
  | _ => b

/-- Read the descriptor of a create (R57). It lies within one page, since it is 64-byte aligned. -/
def createGo (slice : Nat) (b : Blk) : Blk :=
  match (b.view slice).qOp with
  | some (.create dva) =>
    match segOf b slice false dva 32 with
    | .ok seg => (match seg.dest with
      | .here k _ =>
        if !admits b .swedikin slice false k 32 then createFault slice dva 0x06 b
        else createGot slice (if uncorrectable b k 32 then .poisoned else .data (loadLocal b k 32)) b
      | .away pa _ => sendReq 0x02 (paChip pa) (leBytes 8 (burgee slice 0 6 0xFFFFFF 3) ++ leBytes 8 pa)
          (leBytes 4 32 ++ List.replicate 12 0) (.queueDesc slice) (txnNs b) b
      | .host hpa page => issueHostRead slice hpa page 32 (.queueDesc slice) b)
    | .error (.miss d _) => requestAts slice d false (.queueDesc slice) b
    | .error (.cause dva c) =>
      if c = 0x07 ∧ priOn b (sliceFn b slice) then
        joinBatch slice dva false noOne 0 0 0x11 1 (.queueDesc slice) b
      else createFault slice dva c b
    | .error (.ring _) => b
    | .error (.lost _ _) => qDone slice 0x16 b
  | _ => b

/-- Destroy a slot (R58, R59). -/
def destroyQueue (slice slot : Nat) (b : Blk) : Blk :=
  match b.queues.get? (qkey slice slot) with
  | none => qDone slice 0x11 b
  | some q =>
    if q.isSq then
      (b.updQueue (qkey slice slot) fun q => { q with draining := true }).updView slice fun v => { v with qOp := some (.drain slot) }
    else if b.queues.any fun e => e.2.isSq && e.1 / 512 == slice && e.2.cq == slot then qDone slice 0x17 b
    else qDone slice 0 (freeQueue (qkey slice slot) b)

/-- A write of Q_CMD (R57): OP selects create, destroy, or an invalid operation. -/
def qCmd (who : Who) (page : Nat) (w : W32) (b : Blk) : Blk :=
  onView who page pgQFE b fun s b =>
    let v := b.view s
    if v.qOp.isSome then errFrom who s pgQFE 0x04 b
    else match bits w.toNat 0 2 with
      | 0 => if v.qDesc % 64 ≠ 0 then qDone s 0x17 b
             else createGo s (b.updView s fun v => { v with qOp := some (.create v.qDesc) })
      | 1 => destroyQueue s (bits w.toNat 16 9) b
      | _ => qDone s 0x17 b

/-- QUEUE_CREATE. -/
def execQueueCreate (who : Who) (page : Nat) (w : W32) (s : State) : Host.Outcome State Fault Refusal :=
  act (fun b => qCmd who page w b) s

/-- QUEUE_DESTROY. -/
def execQueueDestroy (who : Who) (page : Nat) (w : W32) (s : State) : Host.Outcome State Fault Refusal :=
  act (fun b => qCmd who page w b) s

/-- QUEUE_DRAIN_END. -/
def execQueueDrainEnd (slice slot : Nat) (s : State) : Host.Outcome State Fault Refusal :=
  actUnit pgQFE (fun b => drainEnd slice slot b) s

/-! ## Arbitration (R102, R103) -/

/-- The entries a turn of the SQ would fetch now; 0 where the SQ is not ready. -/
def readySize (b : Blk) (key : Nat) (q : Queue) : Nat :=
  if (b.contexts.get? q.ctx).any fun c => c.state == .resident then turnSize b key q else 0

/-- The SQs of a slice that are ready, by slot. -/
def readySlots (b : Blk) (slice : Nat) : List (Nat × Queue) :=
  (b.queues.filter fun e => e.1 / 512 == slice && decide (0 < readySize b e.1 e.2)).map fun e => (e.1 % 512, e.2)

/-- Slices with a ready SQ, ascending. -/
def readySlices (b : Blk) : List Nat := (b.slices.filter fun e => !(readySlots b e.1).isEmpty).map (·.1)

/-- The SQ that wins within a slice: the highest PRIORITY, then the next after the last served at that level. -/
def pickSlot (s : Slice) (ready : List (Nat × Queue)) : Option (Nat × Queue) :=
  let top := ready.foldl (fun m e => max m e.2.prio) 0
  let level := ready.filter fun e => e.2.prio == top
  let last := s.lastSlot.getD top 511
  match level.find? fun e => decide (last < e.1) with
  | some e => some e
  | none => level.head?

/-- The slice after `last` in the round. -/
def nextSlice (ready : List Nat) (last : Nat) : Option Nat :=
  match ready.find? fun s => decide (last < s) with
  | some s => some s
  | none => ready.head?

/-- Deficit round robin (R102): the present slice while its deficit pays for its turn, else the next ready slice with its
weight added. Answers the slice that is served. -/
def drrPick (ready : List Nat) : Nat → Blk → Blk × Option Nat
  | 0, b => (b, none)
  | fuel + 1, b =>
    let cost (s : Nat) : Nat := match b.slices.get? s with
      | some x => ((pickSlot x (readySlots b s)).map fun e => readySize b (qkey s e.1) e.2).getD 0
      | none => 0
    let last := b.qfe.lastSlice
    let deficit (s : Nat) : Nat := ((b.slices.get? s).map (·.deficit)).getD 0
    if ready.contains last ∧ cost last ≤ deficit last then (b, some last)
    else match nextSlice ready last with
      | none => (b, none)
      | some s => drrPick ready fuel
          ((b.updSlice s fun x => { x with deficit := x.deficit + x.weight }).qfeU fun q => { q with lastSlice := s })

/-! ## Fetch (R99, R103) -/

/-- A fetched entry becomes an item with a ledger entry; one that the checks refuse ends at once (R71, R72, R77, R98). An entry
that could not be read has no bytes. -/
def receiveEntry (slice slot idx : Nat) (q : Queue) (e : Bytes) (b : Blk) : Nat × Blk :=
  let i := b.items.fresh
  let it : Item := {
    slice := slice, ctx := q.ctx, sq := slot, slot := idx, cq := q.cq, entry := e
    deadline := if field e 8 4 = 0 then none else some (b.ft + 16 * field e 8 4)
    fetchFt := b.ft, order := b.qfe.order }
  let b : Blk := { b with items := b.items.set i it }
  let b := b.qfeU fun f => { f with fetched := f.fetched.bump, order := f.order + 1 }
  let b := b.updContext q.ctx fun c => { c with lastSched := b.ft }
  (i, b.updQueue (qkey slice slot) fun q => { q with head := (idx + 1) % 2 ^ q.log2 })

/-- The first entry of a fetch is taken out of it. -/
def nextOfFetch (slice slot : Nat) (b : Blk) : Blk :=
  let rest (n : Nat) (f : Fetch) : Option Fetch :=
    if f.count ≤ 1 then none else some { f with first := (f.first + 1) % n, count := f.count - 1 }
  b.updQueue (qkey slice slot) fun q => { q with fetch := q.fetch.bind (rest (2 ^ q.log2)) }

/-- The first entry of a fetch cannot be read: its record, and its end with TAG 0 (R99). -/
def killEntry (slice slot dva cause : Nat) (b : Blk) : Blk :=
  match b.queues.get? (qkey slice slot) with
  | none => b
  | some q => match q.fetch with
    | none => b
    | some f =>
      let (i, b) := receiveEntry slice slot f.first q [] (nextOfFetch slice slot b)
      faultItem i dva cause 0x11 false (fieldResult (causeStatus cause) 0) b

/-- A fetch is cut to its first `n` entries; the CQ slots of the others return. -/
def cutFetch (slice slot n : Nat) (b : Blk) : Blk :=
  match b.queues.get? (qkey slice slot) with
  | none => b
  | some q => match q.fetch with
    | none => b
    | some f =>
      let b := b.updQueue (qkey slice q.cq) fun c => { c with reserved := c.reserved - (f.count - n) }
      b.updQueue (qkey slice slot) fun q => { q with fetch := if n = 0 then none else some { f with count := n } }

/-- Set where a fetch stands. -/
def fetchAt (slice slot : Nat) (st : FetchState) (b : Blk) : Blk :=
  b.updQueue (qkey slice slot) fun q => { q with fetch := q.fetch.map fun f => { f with state := st } }

/-- Issue the reads of the pieces of a fetch that lie outside this chip. -/
def issueFetch (slice slot : Nat) (segs : List Seg) (b : Blk) : Blk :=
  segs.foldl (fun b s => match s.dest with
    | .here _ _ => b
    | .away pa _ => sendReq 0x02 (paChip pa)
        (leBytes 8 (burgee slice (((b.queues.get? (qkey slice slot)).map (·.ctx)).getD 0) 6 0xFFFFFF 3) ++ leBytes 8 pa)
        (leBytes 4 s.len ++ List.replicate 12 0) (.fetch slice slot) (txnNs b) b
    | .host hpa page => issueHostRead slice hpa page s.len (.fetch slice slot) b) b

/-- A fetch goes on: its read is issued, or it waits for a translation, or its first entry ends (R99). -/
def fetchGo : Nat → Nat → Nat → Blk → Blk
  | 0, _, _, b => b
  | fuel + 1, slice, slot, b =>
    match b.queues.get? (qkey slice slot) with
    | none => b
    | some q => match q.fetch with
      | none => b
      | some f =>
        let at' := q.ring + 64 * f.first
        match planSpan b slice at' (64 * f.count) false with
        | .ok segs => issueFetch slice slot segs
            (holdSegs (.qfe (qkey slice slot)) slice segs (fetchAt slice slot .issued (touchSegs slice segs b)))
        | .error (.miss d _) => requestAts slice d false (.fetch slice slot) (fetchAt slice slot .translating b)
        | .error (.cause dva c) =>
          if at' < dva then fetchGo fuel slice slot (cutFetch slice slot ((dva - at') / 64) b)
          else if c = 0x07 ∧ priOn b (sliceFn b slice) then
            joinBatch slice dva false q.ctx slot 0 0x11 1 (.fetch slice slot) (fetchAt slice slot .stalled b)
          else fetchGo fuel slice slot (killEntry slice slot dva c b)
        | .error (.ring _) => b
        | .error (.lost _ _) => cutFetch slice slot 0 b

/-- ARBITRATION_TURN (R102, R103): the SQ that wins fetches its entries, with their CQ slots reserved (R67). -/
def execArbitrationTurn (s : State) : Host.Outcome State Fault Refusal :=
  act (fun b =>
    if unitsRun b = false ∨ b.pwr.ready = false ∨ b.pwr.graceFt.isSome ∨ frozenUnit b pgQFE then b
    else
      let ready := readySlices b
      let b : Blk := { b with slices := b.slices.mapVals fun k x => if ready.contains k then x else { x with deficit := 0 } }
      match drrPick ready (9 * ready.length + 1) b with
      | (b, none) => b
      | (b, some sl) => match b.slices.get? sl with
        | none => b
        | some x => match pickSlot x (readySlots b sl) with
          | none => b
          | some (slot, q) =>
            let n := readySize b (qkey sl slot) q
            let b := b.updSlice sl fun x => { x with deficit := x.deficit - n, lastSlot := x.lastSlot.set q.prio slot }
            let b := b.updQueue (qkey sl q.cq) fun c => { c with reserved := c.reserved + n }
            let b := b.updQueue (qkey sl slot) fun q => { q with fetch := some ⟨q.head, n, .issued⟩ }
            fetchGo 9 sl slot b) s

/-- One failed host read (R36): counted, with the cause in HLU. -/
def hostReadBad (b : Blk) : Blk := pageErr pgHLU 0x08 (b.hluU fun h => { h with readErrs := h.readErrs.bump })

/-- What one entry of a fetch reads as: its bytes, a fault cause, or uncorrectable. `k` counts the entries whose bytes came from
elsewhere. -/
inductive EntryRead where
  | bytes (e : Bytes)
  | fault (cause : Nat)
  | bad
deriving DecidableEq, Repr

/-- Read one entry; answers whether it took its bytes from `ext`. -/
def readEntry (b : Blk) (slice dva k : Nat) (ext : ExtRead) : EntryRead × Bool :=
  let fromExt : EntryRead × Bool := match ext with
    | .data bs => (.bytes (((bs.drop (64 * k)).take 64 ++ List.replicate 64 0).take 64), true)
    | _ => (.bad, true)
  match segOf b slice false dva 64 with
  | .ok seg => (match seg.dest with
    | .here key _ =>
      if !admits b .swedikin slice false key 64 then (.fault 0x06, false)
      else if uncorrectable b key 64 then (.bad, false)
      else (.bytes (loadLocal b key 64), false)
    | _ => fromExt)
  | .error (.cause _ c) => (.fault c, false)
  | .error _ => fromExt

/-- The entries of a fetch arrive in ring order (R77, R99). Every item of a held slice ends with FAIL_SECURITY, with no effect; a
malformed entry or a permission counts before that (R441, R100). -/
def takeEntries : Nat → Nat → Nat → Nat → ExtRead → Blk → Blk
  | 0, _, _, _, _, b => b
  | n + 1, slice, slot, k, ext, b =>
    match b.queues.get? (qkey slice slot) with
    | none => b
    | some q => match q.fetch with
      | none => b
      | some f =>
        let dva := q.ring + 64 * f.first
        match readEntry b slice dva k ext with
        | (.fault c, _) => takeEntries n slice slot k ext (killEntry slice slot dva c b)
        | (.bad, x) =>
          let (i, b) := receiveEntry slice slot f.first q [] (nextOfFetch slice slot b)
          takeEntries n slice slot (if x then k + 1 else k) ext (endItem i ⟨0x16, 0, 0⟩ b)
        | (.bytes e, x) =>
          let fault := entryFault b slice e
          let (i, b) := receiveEntry slice slot f.first q e (nextOfFetch slice slot b)
          let b := match fault with
            | some r => endItem i r b
            | none => if sliceHeld b slice then endItem i ⟨0x19, 0, 0⟩ b else b
          takeEntries n slice slot (if x then k + 1 else k) ext b

/-- The reads of a fetch are over. -/
def dropFetchReads (slice slot : Nat) (b : Blk) : Blk :=
  let b := dropHolds (.qfe (qkey slice slot)) b
  let b := b.hluU fun h => { h with reads := h.reads.filter fun r => r.why != .fetch slice slot }
  b.lmfU fun l => { l with outstanding := l.outstanding.filter fun r => r.why != .fetch slice slot }

/-- The entries of an issued fetch have arrived, or its read has failed. -/
def fetchArrived (slice slot : Nat) (ext : ExtRead) (b : Blk) : Blk :=
  match b.queues.get? (qkey slice slot) with
  | none => b
  | some q => match q.fetch with
    | none => b
    | some f =>
      if f.state ≠ .issued then b
      else
        let host := b.hlu.reads.any fun r => r.why == .fetch slice slot
        let b := match ext with
          | .data _ => b
          | _ => if host then hostReadBad b else b
        settle (takeEntries f.count slice slot 0 ext (dropFetchReads slice slot b))

/-- ENTRY_RECEIVED. -/
def execEntryReceived (slice slot : Nat) (ext : ExtRead) (s : State) : Host.Outcome State Fault Refusal :=
  actUnit pgQFE (fun b => fetchArrived slice slot ext b) s

/-! ## Starts, retries, deadlines (R79 to R83, R227, R503) -/

/-- Start an item (R79 to R83): its deadline first, then DEPEND, which reads and clears the failure flag. -/
def startItem (i : Nat) (it : Item) (b : Blk) : Blk :=
  if pastDeadline b.ft it.deadline then endItem i deadlineResult b
  else
    let key := qkey it.slice it.sq
    let flag := if bit it.flags 2 then (b.queues.get? key).bind (·.flag) else none
    let b := if bit it.flags 2 then b.updQueue key fun q => { q with flag := none } else b
    let b := b.updItem i fun x => { x with started := true, startFt := b.ft, st := .running }
    match flag with
    | some tag => endItem i ⟨0x12, 4, tag⟩ b
    | none => b

/-- ITEM_START. -/
def execItemStart (item : Nat) (s : State) : Host.Outcome State Fault Refusal :=
  actUnit pgQFE (fun b =>
    match b.items.get? item with
    | some it => if it.started = false ∧ it.result.isNone ∧ mayStart b it then settle (startItem item it b) else b
    | none => b) s

/-- COMPLETION_WRITE_RETRY (R227, R69). -/
def execCompletionWriteRetry (item : Nat) (s : State) : Host.Outcome State Fault Refusal :=
  actUnit pgQFE (fun b =>
    match b.items.get? item with
    | some it =>
      if it.complWait ∧ it.result.isSome ∧ (it.stall = none ∨ it.stall = some .dirtyRing) ∧ itemVisible b item it then
        settle (completeItem item (b.updItem item fun x => { x with stall := none }))
      else b
    | none => b) s

/-- Copies of a model load that are still to be issued, or a load that has not begun (Table 02.29). -/
def loadOpen (b : Blk) (i : Nat) : Bool :=
  b.mdl.models.any fun e => (e.2.waiters.contains i || e.2.pinNext.contains i) &&
    ((loadWorks b e.1).isEmpty || (loadWorks b e.1).any fun w => (b.tre.works.get? w).any fun x => !x.issuedAll)

/-- The deadline of a started item passes (Table 02.29). -/
def expireStarted (i : Nat) (it : Item) (b : Blk) : Blk :=
  let r := deadlineResult
  match it.opcode with
  | 0x01 =>
    let ls := launchesOf b (.item i)
    if ls.isEmpty then endItem i r b else ls.foldl (fun b l => stopLaunch l r b) b
  | 0x02 | 0x03 | 0x05 =>
    let ws := worksOf b i
    if ws.isEmpty ∨ ws.any fun w => (b.tre.works.get? w).any fun x => !x.issuedAll then
      endItem i r (ws.foldl (fun b w => closeWork w b) b)
    else b
  | 0x04 => (match collOf b i with
    | some c => drainStaging (failColl c r b)
    | none => endItem i r b)
  | 0x06 => if it.sig.any (·.txn.isSome) then b else endItem i r b
  | 0x07 => (match b.fen.table.find? fun w => w.item == i with
    | some w => finishAbandon w.fence (endWait w r (b.fenU fun x => { x with table := x.table.filter fun y => y.item != i }))
    -- a wait on the poll list ends at the next recheck (R159)
    | none => if b.fen.poll.any fun w => w.item == i then b else endItem i r b)
  | 0x08 => if b.sch.flush.any fun f => f.item == i && decide (field it.entry 0x18 8 ≤ f.bytes) then b else endItem i r b
  | 0x09 | 0x0A => if it.issued = false ∨ loadOpen b i then endItem i r (leaveLoad i b) else b
  | 0x0B => (match runOfItem b i with
    | some k => if (b.mar.runs.get? k).any fun x => x.mar.isNone then closeRun k 5 (fun _ => r) b else b
    | none => endItem i r b)
  | 0x0C => if b.mar.seqs.any fun e => e.2.item == i then b else endItem i r (dropSeqItem i b)
  | _ => b

/-- ITEM_DEADLINE_EXPIRY. -/
def execItemDeadlineExpiry (item : Nat) (s : State) : Host.Outcome State Fault Refusal :=
  actUnit pgQFE (fun b =>
    match b.items.get? item with
    | some it =>
      if pastDeadline b.ft it.deadline ∧ it.result.isNone then
        settle (if it.started then expireStarted item it b else endItem item deadlineResult b)
      else b
    | none => b) s

end Sys2Proof.Machine
end

