-- ==== Sys2Proof/Machine/Commands.lean ====
section
/-! DEFINITION. The fifteen commands of the submission entry, each run on a started item (R75, R85 to R97). -/

namespace Sys2Proof.Machine

/-- Commands that a passed deadline ends while they wait to run (Table 02.29). -/
def endsLate (op : Nat) : Bool := [0x01, 0x02, 0x03, 0x04, 0x05, 0x07, 0x08, 0x0B, 0x0C].contains op

/-- An item may run its command: started, not over, not issued, not stalled, no read of it awaited, its unit not frozen, and its deadline
not passed where that would end it (R24, R503). -/
def mayRun (b : Blk) (i op pg : Nat) (it : Item) : Bool :=
  it.opcode == op && it.started && !it.issued && it.result.isNone && it.stall.isNone && !readPending b i && !frozenUnit b pg &&
  !(endsLate op && pastDeadline b.ft it.deadline)

/-- Run a command on an item that may run it, and let what it frees go on. -/
def command (i op pg : Nat) (b : Blk) (k : Item → Blk → Blk) : Blk :=
  match b.items.get? i with
  | some it => if mayRun b i op pg it then settle (k it b) else b
  | none => b

/-- The item has been issued to its unit. -/
def markIssued (i : Nat) (b : Blk) : Blk := b.updItem i fun it => { it with issued := true, rbuf := [] }

/-! ## LAUNCH (R85, R115, R246 to R249) -/

/-- LAUNCH: the descriptor is read and checked, then the launch waits for cores. -/
def execLaunch (item : Nat) (s : State) : Host.Outcome State Fault Refusal :=
  actUnit pgSCH (fun b => command item 0x01 pgSCH b fun it b =>
    let e := it.entry
    let code := field e 0x10 8
    if (partCores b (slicePart b it.slice)).isEmpty then endItem item (fieldResult 0x11 0x10) b
    else if 2 ^ 56 ≤ code ∧ code < 2 ^ 57 then endItem item (fieldResult 0x17 0x10) b
    else withRead item 0x20 (some 0x10) (readDesc item it code b) b fun d b =>
      let dyn := field e 0x2C 4
      match descFault b d dyn with
      | some off => endItem item (fieldResult 0x17 off) b
      | none => markIssued item (addLaunch (.item item) it.slice it.ctx it.cls it.scope it.deadline (field e 0x20 4) (field e 0x24 2)
          (field e 0x26 2) (field e 0x30 2) (field e 0x32 2) d dyn (descPa b it.slice code) (field e 0x18 8) b)) s

/-! ## Transfers (R304, R307, R308, R311) -/

/-- COPY: work for one engine. -/
def execCopy (item : Nat) (s : State) : Host.Outcome State Fault Refusal :=
  actUnit pgTRE (fun b => command item 0x02 pgTRE b fun it b =>
    let e := it.entry
    let rb := field e 0x20 4
    let rows := field e 0x24 4
    markIssued item (addWork (.item item) (.copy (field e 0x10 8) (field e 0x18 8) rb rows (field e 0x28 8) (field e 0x30 8))
      it.slice it.ctx it.cls it.deadline (rb * rows) b)) s

/-- REDUCE: work for one engine. -/
def execReduce (item : Nat) (s : State) : Host.Outcome State Fault Refusal :=
  actUnit pgTRE (fun b => command item 0x03 pgTRE b fun it b =>
    let e := it.entry
    let n := field e 0x20 4
    let sf := field e 0x25 1
    let df := field e 0x26 1
    let bf := if field e 0x28 8 = 0 then df else sf
    markIssued item (addWork (.item item)
      (.reduce (field e 0x10 8) (field e 0x28 8) (field e 0x18 8) n (field e 0x24 1) sf df bf)
      it.slice it.ctx it.cls it.deadline (n * memSize df) b)) s

/-- A collective of an item, with its group's fields (Table 02.12). -/
def itemColl (item : Nat) (it : Item) (g : Group) : Coll :=
  let e := it.entry
  { owner := .item item, group := field e 0x28 2, size := g.size, rank := g.rank, ring := g.ring, members := g.members
    slice := it.slice, ctx := it.ctx, cls := it.cls, deadline := it.deadline, scope := it.scope, key := field e 0x2C 4, kcoll := false
    kind := field e 0x24 1, op := field e 0x25 1, memFmt := field e 0x26 1, wireFmt := field e 0x27 1, root := field e 0x2A 2
    count := field e 0x20 4, src := field e 0x10 8, dst := field e 0x18 8, timeout := it.timeoutNs 20, engines := [] }

/-- What R325 and R321 refuse of a collective: the offset of its field. -/
def collFault (b : Blk) (c : Coll) : Option Nat :=
  let n := memSize c.memFmt
  let src := (c.src, c.count * n)
  let dst := (c.dst, dstElems c * n)
  let same := (c.kind == 0 || c.kind == 3) && src == dst
  if spansMeet src dst ∧ !same then some 0x18
  else if c.kind = 1 ∧ c.count % (32 * c.size) ≠ 0 then some 0x20
  else if c.kind = 3 ∧ c.size ≤ c.root then some 0x2A
  else if b.tre.colls.any fun e => !e.2.ended && e.2.kcoll == c.kcoll && e.2.group == c.group && e.2.key == c.key then some 0x2C
  else none

/-- COLLECTIVE: its group, its checks, its start on every engine in service. -/
def execCollective (item : Nat) (s : State) : Host.Outcome State Fault Refusal :=
  actUnit pgTRE (fun b => command item 0x04 pgTRE b fun it b =>
    match b.tre.groups.get? (field it.entry 0x28 2) with
    | none => endItem item (fieldResult 0x11 0x28) b
    | some g =>
      if g.slice ≠ it.slice then endItem item (fieldResult 0x11 0x28) b
      else
        let c := itemColl item it g
        match collFault b c with
        | some off => endItem item (fieldResult 0x17 off) b
        | none => startColl c (markIssued item b)) s

/-- KV_MOVE: work for one engine. -/
def execKvMove (item : Nat) (s : State) : Host.Outcome State Fault Refusal :=
  actUnit pgTRE (fun b => command item 0x05 pgTRE b fun it b =>
    let e := it.entry
    let n := field e 0x20 4
    let k := field e 0x24 4
    markIssued item (addWork (.item item)
      (.kvmove (field e 0x10 8) (field e 0x18 8) n k (field e 0x28 8) (field e 0x30 8) false)
      it.slice it.ctx it.cls it.deadline (n * k) b)) s

/-! ## Fences (R81, R86 to R89, R155, R163) -/

/-- Every earlier write is visible at the item's scope: for SYSTEM, no host-bus write of its function is unconfirmed. -/
def signalVisible (b : Blk) (it : Item) : Bool :=
  it.scope != 5 || b.hlu.stores.all fun x => x.fn != sliceFn b it.slice

/-- The result of a local signal (R86, R87, R78). -/
def signalResult (b : Blk) (f code : Nat) : Result :=
  match code with
  | 0 => okResult
  | 1 => ⟨0x00, 1, 1⟩
  | 2 => fieldResult 0x11 0x10
  | _ => ⟨0x11, 5, fenceDetail b.chip f⟩

/-- FENCE_SIGNAL: local, applied in the fence's order; remote, an FSIG. -/
def execFenceSignal (item : Nat) (s : State) : Host.Outcome State Fault Refusal :=
  actUnit pgFEN (fun b => command item 0x06 pgFEN b fun it b =>
    let e := it.entry
    let f := field e 0x10 2
    let chip := field e 0x12 2
    if pastDeadline b.ft it.deadline then endItem item deadlineResult b
    else if signalVisible b it = false then b
    else if chip = b.chip then
      let (b, code) := signalFence it.slice it.ctx f (BitVec.ofNat 64 (field e 0x18 8)) (bit (field e 0x14 1) 0) b.chip false it.tag b
      endItem item (signalResult b f code) b
    else
      let applyBy := it.startFt + it.timeoutNs b.lmf.txnTimeoutUs / 2
      fsigSend item (b.updItem item fun it => { it with issued := true, st := .waiting, sig := some ⟨none, applyBy⟩ })) s

/-- FENCE_WAIT. -/
def execFenceWait (item : Nat) (s : State) : Host.Outcome State Fault Refusal :=
  actUnit pgFEN (fun b => command item 0x07 pgFEN b fun it b =>
    armWait item it (field it.entry 0x10 2) (BitVec.ofNat 64 (field it.entry 0x18 8)) b) s

/-! ## FLUSH_RANGE (R199, R252) -/

/-- What a page of the range needs: a run of physical lines, nothing, or a stop. -/
def flushPage (b : Blk) (slice dva len : Nat) : Except Stop (Option Nat) :=
  match segOf b slice false dva len with
  | .error e => .error e
  | .ok seg => match seg.dest with
    | .here k _ => .ok (if k / 2 ^ 46 = 0 then some (mkPa b 0 (k % 2 ^ 46)) else none)
    | .away _ _ => .ok none
    | .host hpa _ => .ok (some (mkPa b 2 hpa))

/-- The run of contiguous lines from a place of the range, up to 64 KiB: its physical address and bytes. -/
def flushRun (b : Blk) (slice : Nat) : Nat → Nat → Nat → Nat → Nat
  | 0, _, _, _ => 0
  | fuel + 1, dva, left, want =>
    if left = 0 then 0
    else
      let n := min left (4096 - dva % 4096)
      match flushPage b slice dva n with
      | .ok (some pa) => if pa = want then n + flushRun b slice fuel (dva + n) (left - n) (want + n) else 0
      | _ => 0

/-- A cache-maintenance word (R252). -/
def flushWord (b : Blk) (it : Item) (pa lines mode : Nat) : Nat :=
  burgee it.slice it.ctx it.cls (deadlineField b.ft it.deadline) it.scope + pa * 2 ^ 64 + lines * 2 ^ 122 + mode * 2 ^ 138 +
  ((b.partitions.get? (slicePart b it.slice)).map (·.mask.toNat)).getD 0 * 2 ^ 139 + 2 ^ 252

/-- Note where the walk of an item stands and which cores its word addressed. -/
def flushAt (i pos : Nat) (cores : List Nat) (pa span : Nat) (b : Blk) : Blk :=
  let w : FlushWord := { item := i, cores := cores, bytes := pos, pa := pa, span := span }
  b.schU fun s => { s with flush := (s.flush.filter fun f => f.item != i) ++ [w] }

/-- Walk the range from `pos` on to the next word, or to its end (R199, R200). -/
def flushWalk : Nat → Nat → Nat → Blk → Blk
  | 0, i, pos, b => flushAt i pos [] 0 0 b
  | fuel + 1, i, pos, b =>
    match b.items.get? i with
    | none => b
    | some it =>
      let addr := field it.entry 0x10 8
      let len := field it.entry 0x18 8
      if it.result.isSome then b
      else if len ≤ pos then
        endItem i okResult (markIssued i (b.schU fun s => { s with flush := s.flush.filter fun f => f.item != i }))
      else
        let dva := addr + pos
        let n := min (len - pos) (4096 - dva % 4096)
        if pastDeadline b.ft it.deadline then flushAt i pos [] 0 0 b
        else match flushPage b it.slice dva n with
        | .error e => stopItem i 0x23 (some 0x10) false e (flushAt i pos [] 0 0 b)
        | .ok none => flushWalk fuel i (pos + n) b
        | .ok (some pa) =>
          match upPort b with
          | none => flushAt i pos [] 0 0 b
          | some _ =>
            let run := flushRun b it.slice 17 dva (min (len - pos) 65536) pa
            let cores := (partCores b (slicePart b it.slice)).filter fun c => !(b.core c).out
            if cores.isEmpty then flushWalk fuel i (pos + run) b
            else issueWord 192 (flushWord b it pa (run / 64) (field it.entry 0x20 1)) (flushAt i (pos + run) cores pa run b)

/-- Pages of the longest walk that one command makes without a word. -/
def flushFuel : Nat := 4096

/-- Where the walk of an item stands: cores that still perform its word, and the next place. -/
def flushState (b : Blk) (i : Nat) : Option FlushWord := b.sch.flush.find? fun f => f.item == i

/-- FLUSH_RANGE: the walk begins, or goes on from where it stalled. -/
def execFlushRange (item : Nat) (s : State) : Host.Outcome State Fault Refusal :=
  actUnit pgSCH (fun b => command item 0x08 pgSCH b fun _ b =>
    match flushState b item with
    | some f => if f.cores.isEmpty then flushWalk flushFuel item f.bytes b else b
    | none => flushWalk flushFuel item 0 b) s

/-! ## Model slices (R90, R91, R294 to R296) -/

/-- An item waits for a model slice, which is loaded where it is only registered. -/
def awaitModel (i m : Nat) (it : Item) (pin : Bool) (x : Model) (b : Blk) : Blk :=
  if x.state = .registered ∧ !b.mdl.waiting.contains m ∧ overShare b m x then endItem i ⟨0x18, 0, 0⟩ b
  else
    let b := (markIssued i b).updItem i fun it => { it with st := .waiting }
    let b := b.updModel m fun x => if pin then { x with pinNext := x.pinNext ++ [i] } else { x with waiters := x.waiters ++ [i] }
    requestLoad m it.cls it.deadline b

/-- MODEL_LOAD: registration, then residence. A model slice on its way out is waited for. -/
def execModelLoad (item : Nat) (s : State) : Host.Outcome State Fault Refusal :=
  actUnit pgMDL (fun b => command item 0x09 pgMDL b fun it b =>
    let e := it.entry
    let src := field e 0x18 8
    let len := field e 0x20 8
    match modelOf b it.slice (field e 0x10 4) with
    | some (m, x) =>
      if x.src ≠ src ∨ x.len ≠ len then endItem item (fieldResult 0x17 0x18) b
      else if x.invalidating then b
      else if x.state = .resident then endItem item ⟨0, 1, m⟩ (touchModel m b)
      else awaitModel item m it false x b
    | none =>
      if 1024 ≤ b.mdl.models.length then endItem item ⟨0x18, 0, 0⟩ b
      else
        let m := b.mdl.models.fresh
        let x : Model := { slice := it.slice, ctx := it.ctx, modelId := field e 0x10 4, src := src, len := len, state := .registered }
        awaitModel item m it false x (b.mdlU fun d => { d with models := d.models.set m x })) s

/-- MODEL_PIN. -/
def execModelPin (item : Nat) (s : State) : Host.Outcome State Fault Refusal :=
  actUnit pgMDL (fun b => command item 0x0A pgMDL b fun it b =>
    match modelOf b it.slice (field it.entry 0x10 4) with
    | none => endItem item (fieldResult 0x11 0x10) b
    | some (m, x) =>
      if field it.entry 0x14 1 = 0 then endItem item okResult (serveAll (b.updModel m fun x => { x with pinned := false }))
      else if x.pinned then endItem item okResult b
      else if sliceShare b it.slice < slicePinned b it.slice + x.need then endItem item ⟨0x18, 0, 0⟩ b
      else if x.invalidating then b
      else if x.state = .resident then
        endItem item okResult (touchModel m (b.updModel m fun x => { x with pinned := true }))
      else awaitModel item m it true x b) s

/-! ## Runs and sequences (R92 to R95, R271, R278) -/

/-- STEP_RUN: the run waits for a Marionette (R92, R282). -/
def execStepRun (item : Nat) (s : State) : Host.Outcome State Fault Refusal :=
  actUnit pgMAR (fun b => command item 0x0B pgMAR b fun it b =>
    let e := it.entry
    let batch := field e 0x38 8
    let maxSeq := field e 0x1C 4
    if !inOneRange b it.slice batch (64 + 32 * maxSeq) 1 then endItem item (fieldResult 0x17 0x38) b
    else
      let r : Run := {
        item := item, slice := it.slice, ctx := it.ctx, runId := field e 0x30 4, cls := it.cls, scope := it.scope, maxSeq := maxSeq
        period := field e 0x20 8, steps := field e 0x28 4, idleNs := field e 0x2C 4 * 1000, timeout := it.timeoutNs 20
        batch := batch, progDva := field e 0x10 8, opsCount := field e 0x18 2, order := b.mar.order }
      let b := b.marU fun m => { m with runs := m.runs.set m.runs.fresh r, order := m.order + 1 }
      (markIssued item b).updItem item fun it => { it with st := .waiting }) s

/-- The sequence is in the run already: waiting or with an entry. -/
def seqInRun (b : Blk) (id : Nat) (r : Run) (seqId : Nat) : Bool :=
  (r.waiting.any fun w => w.seqId == seqId) || (runSeqs b id).any fun e => e.2.seqId == seqId

/-- The image of a sequence-table entry holds what R278 asks. -/
def imageOk (d : Bytes) : Bool :=
  zeroSpan d 0x30 16 && decide (field d 0x10 4 ≤ field d 0x14 4) && decide (4 ≤ field d 0x28 1) && decide (field d 0x28 1 ≤ 16) &&
  field d 8 8 % 64 == 0

/-- What a SEQ_JOIN or SEQ_LEAVE finds of its run: the run, that its STEP_RUN is still to start, or nothing. -/
inductive RunFound where
  | run (id : Nat) (r : Run)
  | soon
  | none

/-- The live run that an item names. -/
def findRun (b : Blk) (slice runId : Nat) : RunFound :=
  match runOf b slice runId with
  | some (id, r) => .run id r
  | none => if runIdLive b slice runId then .soon else .none

/-- SEQ_JOIN: the image is read and checked, then the sequence waits for admission. -/
def execSeqJoin (item : Nat) (s : State) : Host.Outcome State Fault Refusal :=
  actUnit pgMAR (fun b => command item 0x0C pgMAR b fun it b =>
    let e := it.entry
    let seqId := field e 0x14 4
    match findRun b it.slice (field e 0x10 4) with
    | .none => endItem item (fieldResult 0x11 0x10) b
    | .soon => b
    | .run id r =>
      if seqInRun b id r seqId then endItem item (fieldResult 0x17 0x14) b
      else withRead item 0x21 (some 0x18) (itemRead item it (field e 0x18 8) 64 b) b fun d b =>
        if !imageOk d then endItem item (fieldResult 0x17 0x18) b
        else
          let w : WaitingSeq := { item := item, seqId := seqId, image := d, deadline := it.deadline, order := b.mar.order }
          let b := b.marU fun m => { m with order := m.order + 1 }
          let b := (markIssued item b).updItem item fun it => { it with st := .waiting }
          applyPlan id (b.updRun id fun r => { r with waiting := r.waiting ++ [w], emptyFt := none })) s

/-- A LEAVE packet to the lead (Table 10.4). -/
def sendLeave (r : Run) (seqId : Nat) (b : Blk) : Blk :=
  sendReq 0x07 (leadChip b r) (leBytes 2 (r.group.getD 0) ++ leBytes 2 0 ++ leBytes 4 seqId ++ leBytes 8 0) [] .own (txnNs b) b

/-- A WAITING sequence is removed at once; its SEQ_JOIN completes with no token (R95). -/
def dropWaiting (id seqId : Nat) (b : Blk) : Blk :=
  match b.mar.runs.get? id with
  | none => b
  | some r =>
    let gone := r.waiting.filter fun w => w.seqId == seqId
    gone.foldl (fun b w => endItem w.item ⟨0, 1, 0⟩ b)
      (b.updRun id fun r => { r with waiting := r.waiting.filter fun w => w.seqId != seqId })

/-- SEQ_LEAVE: at once for a WAITING sequence, else at the lead's next boundary. -/
def execSeqLeave (item : Nat) (s : State) : Host.Outcome State Fault Refusal :=
  actUnit pgMAR (fun b => command item 0x0D pgMAR b fun it b =>
    let seqId := field it.entry 0x14 4
    match findRun b it.slice (field it.entry 0x10 4) with
    | .none => endItem item (fieldResult 0x11 0x10) b
    | .soon => b
    | .run id r =>
      if !seqInRun b id r seqId then endItem item (fieldResult 0x11 0x14) b
      else
        let b := if isLead b r then b else sendLeave r seqId b
        if r.waiting.any fun w => w.seqId == seqId then endItem item okResult (dropWaiting id seqId b)
        else
          let b := (markIssued item b).updItem item fun it => { it with st := .waiting }
          b.updRun id fun r => { r with leaves := r.leaves ++ [(item, seqId)] }) s

/-! ## ALLOC and FREE (R96, R97, R122, R123, R127, R143) -/

/-- A choice of ALLOC whose RESULT is written: the range of an index, or a fence. -/
def publishAlloc (i : Nat) (it : Item) (n : Nat) (b : Blk) : Blk :=
  if field it.entry 0x10 1 = 2 then
    let f : Fence := { value := BitVec.ofNat 64 (field it.entry 0x28 8), owner := it.slice, creator := it.ctx }
    endItem i ⟨0, 5, fenceDetail b.chip n⟩ (b.fenU fun x => { x with fences := x.fences.set n f })
  else
    let b := match (rangesOf b it.slice).get? n with
      | some r => setRange it.slice n (some { r with valid := true }) b
      | none => b
    endItem i ⟨0, 1, n⟩ b

/-- The choice of an ALLOC whose RESULT was not written is withdrawn (R96). -/
def withdrawAlloc (i : Nat) (b : Blk) : Blk :=
  match b.items.get? i with
  | none => b
  | some it => match it.wants with
    | none => b
    | some (n, _) =>
      let b := b.updItem i fun it => { it with wants := none }
      if field it.entry 0x10 1 = 2 then b.fenU fun x => { x with freeHead := n :: x.freeHead } else setRange it.slice n none b

/-- Write RESULT; the object is usable once that write is performed. -/
def writeResult (i : Nat) (it : Item) (n v : Nat) (b0 b : Blk) : Blk :=
  withWrite i 0x12 (some 0x20) (itemWrite i it (field it.entry 0x20 8) (leBytes 8 v) b) b0 fun b =>
    if b.lmf.outstanding.any fun r => r.why == .itemWrite i then b.updItem i fun it => { it with wants := some (n, 0) }
    else publishAlloc i it n b

/-- Choose pages and a place for a range (R122, R123). -/
def allocRange (i : Nat) (it : Item) (b : Blk) : Blk :=
  let e := it.entry
  let kind := field e 0x10 1
  let len := field e 0x18 8
  let hint := field e 0x28 8
  let t := rangesOf b it.slice
  if hint ≠ 0 ∧ (overlapsRange b it.slice hint len ∨ 2 ^ 56 < hint + len) then endItem i (fieldResult 0x17 0x28) b
  else if b.xlt.areaEn = false ∨ 1024 ≤ t.length then endItem i ⟨0x18, 0, 0⟩ b
  else
    let pages := freePages b it.slice kind
    let place := if hint = 0 then placeRange b it.slice len else some hint
    match firstFit pages (len / 65536), place with
    | some g, some dva =>
      let idx := t.fresh
      let r : Range := { start := dva, len := len, pa := mkPa b kind (g % 2 ^ 30 * 65536), creator := it.ctx, valid := false }
      writeResult i it idx dva b (setRange it.slice idx (some r) b)
    | none, _ => endItem i (if pages.length < len / 65536 then ⟨0x18, 0, 0⟩ else ⟨0x18, 1, longestRun pages⟩) b
    | _, none => endItem i ⟨0x18, 0, 0⟩ b

/-- Fences that a slice owns. -/
def sliceFences (b : Blk) (slice : Nat) : Nat := b.fen.fences.count fun _ f => f.owner == slice

/-- Choose a fence (R96, R143). -/
def allocFence (i : Nat) (it : Item) (b : Blk) : Blk :=
  if (b.slices.get? it.slice).any fun s => decide (s.maxFences ≤ sliceFences b it.slice) then endItem i ⟨0x18, 0, 0⟩ b
  else match takeFenceNumber b with
    | none => endItem i ⟨0x18, 0, 0⟩ b
    | some (f, b') => writeResult i it f f b b'

/-- ALLOC. -/
def execAlloc (item : Nat) (s : State) : Host.Outcome State Fault Refusal :=
  actUnit pgCTX (fun b => command item 0x0E pgCTX b fun it b =>
    match it.wants with
    | some (n, _) => if b.lmf.outstanding.any fun r => r.why == .itemWrite item then b else publishAlloc item it n b
    | none => if field it.entry 0x10 1 = 2 then allocFence item it b else allocRange item it b) s

/-- A live context names the range as its save area (R127), or a live run its batch descriptor or journal (R97). -/
def rangeNamed (b : Blk) (slice : Nat) (r : Range) : Bool :=
  let inside (dva : Nat) : Bool := decide (r.start ≤ dva) && decide (dva < r.start + r.len)
  (b.contexts.any fun e => e.2.slice == slice && inside e.2.saveArea) ||
  b.mar.runs.any fun e => e.2.slice == slice && (inside e.2.batch || (e.2.mar.isSome && inside e.2.journal))

/-- FREE. -/
def execFree (item : Nat) (s : State) : Host.Outcome State Fault Refusal :=
  actUnit pgCTX (fun b => command item 0x0F pgCTX b fun it b =>
    let kind := field it.entry 0x10 1
    let handle := field it.entry 0x18 8
    if kind = 2 then
      if ownsFence b it.slice handle then
        abandonFence handle (finishAbandon handle ((markIssued item b).fenU fun x => { x with freeing := x.freeing.set item handle }))
      else endItem item (fieldResult 0x11 0x18) b
    else match (rangesOf b it.slice).find? fun r => r.2.start == handle && r.2.valid && !r.2.peer && paSpace r.2.pa == kind with
      | none => endItem item (fieldResult 0x11 0x18) b
      | some (idx, r) =>
        if rangeNamed b it.slice r then endItem item (fieldResult 0x17 0x18) b
        else startInval it.slice [.range it.slice idx] false (.free item) (markIssued item b)) s

end Sys2Proof.Machine
end

