-- ==== Sys2Proof/Machine/Cores.lean ====
section
/-! DEFINITION. Work groups on cores: placement, pre-emption, save and restore, cache maintenance, and the registers of SCH (R244
to R269, R504). -/

namespace Sys2Proof.Machine

/-! ## Placement (R249 to R251) -/

/-- Place the next work group of a launch on a core: its dispatch word, and its part of the core. -/
def placeGroup (id core : Nat) (l : Launch) (b : Blk) : Blk :=
  let g : WorkGroup := { launch := id, index := l.next, lgs := l.lgs, regs := l.regs, lwa := l.lwa }
  let b := issueWord core (launchWord b l l.next) b
  let b := b.updCore core fun k => { k with
    ctx := some l.ctx
    groups := k.groups ++ [g]
    placedFt := b.ft }
  let b := b.schU fun s => { s with launches := s.launches.set id { l with
    next := l.next + 1
    used := if l.used.contains core then l.used else l.used ++ [core] } }
  b.updView l.slice fun v => { v with wgStarted := v.wgStarted.bump }

/-- SCH can issue words. -/
def schReady (b : Blk) : Bool := (upPort b).isSome && !frozenUnit b pgSCH && b.pwr.pstate == 0

/-- A class-7 launch, of an item or of a run of class 7 (Table 07.4). -/
def urgent (l : Launch) : Bool := l.cls == 7

/-- A core whose work groups a class-7 launch may pre-empt (R254). -/
def isVictim (b : Blk) (c : Nat) : Bool :=
  let k := b.core c
  !k.out && !k.faultLine && k.stop.isNone && k.restoring.isNone && !k.groups.isEmpty && decide (k.placedFt + 20000 ≤ b.ft) &&
  (launchesOn k).all fun id => (b.sch.launches.get? id).any fun l => !l.isOp && l.cls != 7

/-- Work groups of a launch that an empty core holds. -/
def perCore (b : Blk) (l : Launch) : Nat :=
  let by' (need room : Nat) : Nat := if need = 0 then 2 ^ 40 else room / need
  min (by' l.lgs 64) (min (by' l.regs 262144) (by' l.lwa (lwaBytes b)))

/-- Cores of a partition that save stops are freeing. -/
def freeing (b : Blk) (p : Nat) : Nat := ((partCores b p).filter fun c => (b.core c).stop.any fun s => s.save).length

/-- Cores that a launch's unplaced work groups need, within its MAX_CORES. -/
def wantedCores (b : Blk) (l : Launch) : Nat :=
  min ((l.total - l.next + perCore b l - 1) / perCore b l) (l.maxCores - l.used.length)

/-- Take victims in descending core number until the freed cores are as many as the class-7 launches need. -/
def takeVictims (p want : Nat) : List Nat → Blk → Blk
  | [], b => b
  | c :: rest, b =>
    if want ≤ freeing b p then b
    else takeVictims p want rest (if isVictim b c then stopCore c true none b else b)

/-- The class-7 launches that wait and find no free core take victims (R254, R255). -/
def startPreempt (p : Nat) (b : Blk) : Blk :=
  let want := b.sch.launches.foldl (fun n e =>
    if launchWaits b p e.2 ∧ urgent e.2 ∧ coreFor b e.1 e.2 = none then n + wantedCores b e.2 else n) 0
  takeVictims p want (partCores b p).reverse b

/-- WORK_GROUP_PLACE: the first waiting thing in service order that finds a core is placed, where it is a work group; a saved
record in that place waits for its RESTORE_DISPATCH. -/
def execWorkGroupPlace (part : Nat) (s : State) : Host.Outcome State Fault Refusal :=
  actUnit pgSCH (fun b =>
    if !schReady b then b
    else
      let b := startPreempt part b
      match nextPlacing b part with
      | some (.launch id, core) => (match b.sch.launches.get? id with
        | some l => placeGroup id core l b
        | none => b)
      | _ => b) s

/-- A core that hosts nothing belongs to no context. -/
def idleCore (k : Core) : Core := if k.groups.isEmpty ∧ k.stop.isNone ∧ k.restoring.isNone then { k with ctx := none } else k

/-- Remove the first work group of a launch from a list. -/
def dropGroup (id : Nat) : List WorkGroup → List WorkGroup
  | [] => []
  | g :: gs => if g.launch = id then gs else g :: dropGroup id gs

/-- WORK_GROUP_END. -/
def execWorkGroupEnd (core launch : Nat) (s : State) : Host.Outcome State Fault Refusal :=
  actUnit pgSCH (fun b =>
    if (b.core core).groups.any fun g => g.launch == launch then
      let b := b.updCore core fun k => idleCore { k with groups := dropGroup launch k.groups }
      let b := b.schU fun s => { s with launches := s.launches.upd launch fun l => { l with ended := l.ended + 1 } }
      settle (checkLaunch launch b)
    else b) s

/-! ## Stops (R256 to R260, R504) -/

/-- Change the stop of a core. -/
def Blk.updStop (b : Blk) (c : Nat) (f : CoreStop → CoreStop) : Blk := b.updCore c fun k => { k with stop := k.stop.map f }

/-- CHEAP_POINT_ACK. -/
def execCheapPointAck (core : Nat) (s : State) : Host.Outcome State Fault Refusal :=
  actUnit pgSCH (fun b => b.updStop core fun st => if st.forced then st else { st with ack := true }) s

/-- GRACE_EXPIRY: a forced stop at the end of the grace (R256), or at once where the core cannot read its cheap-point map
(R260). -/
def execGraceExpiry (core : Nat) (mapUnreadable : Bool) (s : State) : Host.Outcome State Fault Refusal :=
  actUnit pgSCH (fun b =>
    match (b.core core).stop with
    | none => b
    | some st =>
      if st.ack ∨ st.forced then b
      else
        let force (b : Blk) : Blk := b.updStop core fun st => { st with forced := true, forcedFt := b.ft }
        if mapUnreadable then force (pageErr pgSCH 0x11 b)
        else if st.graceFt ≤ b.ft then
          (force (b.schU fun s => { s with forced := s.forced.bump })).emit (.forcedStop core)
        else b) s

/-- A core has stopped: its request line falls and it hosts nothing of what the stop took. -/
def freeCore (core : Nat) (groups : List WorkGroup) (b : Blk) : Blk :=
  (b.updCore core fun k => idleCore { k with groups := groups, stop := none }).emit (.preemptLine core false)

/-- The position of a core in its context's save area, or the lowest free one. -/
def savePos (b : Blk) (core : Nat) (e : Context) : Nat :=
  let own := (partCores b (slicePart b e.slice)).idxOf core
  if e.records.has own then e.records.fresh else own

/-- The fault record that gives a save area's address (R504): the item it names is the first LAUNCH item among the launches. -/
def saveFault (c : Nat) (e : Context) (dva cause : Nat) (write : Bool) (ids : List Nat) (b : Blk) : Blk :=
  let it := ids.findSome? fun id => (b.sch.launches.get? id).bind fun l => match l.owner with
    | .item i => b.items.get? i
    | .op _ _ => none
  let f : FaultInfo := { dva := dva, ctx := c, sq := (it.map fun x => x.sq).getD 0, tag := (it.map Item.tag).getD 0, cause := cause,
                         write := write, source := 0x20, outcome := 0 }
  (recordFault e.slice f none none b).1

/-- A free value for the cause of a record that no translation fault stands behind. -/
def drawCause (b : Blk) : Blk × Nat := ({ b with free := b.free + 1 }, (Config.recordCause b.free).toNat)

/-- A save stop that cannot write its record ends as a discard stop; every launch on the core ends with a status (R504). -/
def saveFailed (core status dva cause : Nat) (b : Blk) : Blk :=
  let k := b.core core
  match k.ctx with
  | none => b
  | some c => match b.contexts.get? c with
    | none => freeCore core [] b
    | some e =>
      let ids := launchesOn k
      let b := saveFault c e dva cause true ids b
      let b := freeCore core [] b
      settle (ids.foldl (fun b id => stopLaunch id ⟨status, 0, 0⟩ b) b)

/-- The write of a core's record: the context's traffic at class 7, with a deadline of 60 µs (R265). -/
def recordWrite (slice ctx dva : Nat) (bs : Bytes) (b : Blk) : WRes :=
  match planSpan b slice dva bs.length true with
  | .error e => .stop e
  | .ok segs =>
    match putSegs slice ctx 7 3 (some (b.ft + 60000)) none .own (txnNs b) segs bs (touchSegs slice segs b) with
    | some b => .done b
    | none => .refused dva

/-- The core has written its record: the record joins the save area with the work groups whose launches go on; a launch that has
been stopped keeps no LAUNCH entry in it (R256 step 5, R262, R268). -/
def coreSaved (core c pos : Nat) (e : Context) (st : CoreStop) (b : Blk) : Blk :=
  let gs := (b.core core).groups
  let r : SaveRec := {
    recState := if st.forced then 2 else 1
    groups := liveGroups b gs
    savedAt := b.ft
    order := b.sch.saveOrder }
  let dead := (gs.map (·.launch)).dedup.filter fun id => (b.sch.launches.get? id).any fun l => l.stop.isSome
  let b := dead.foldl (fun b id => match b.sch.launches.get? id with
    | some l => clearLaunchEntry c pos l.owner b
    | none => b) b
  let b := b.schU fun s => { s with
    saveOrder := s.saveOrder + 1
    preempts := s.preempts.bump }
  settle (settleLaunches (syncSaveArea c (freeCore core [] (b.updContext c fun x => { x with records := x.records.set pos r }))))

/-- CORE_IDLE: a stop ends. A save stop's record is in the save area; a discard stop's work groups are gone. -/
def execCoreIdle (core : Nat) (image : Bytes) (s : State) : Host.Outcome State Fault Refusal :=
  actUnit pgSCH (fun b =>
    let k := b.core core
    match k.stop, k.ctx with
    | some st, some c =>
      if !(st.ack || st.forced || k.groups.isEmpty) then b
      else match b.contexts.get? c with
        | none => settle (freeCore core [] b)
        | some e =>
          if st.save && !(liveGroups b k.groups).isEmpty then
            let pos := savePos b core e
            let dva := recordDva b e pos
            let bytes := image.take (recordBytes b)
            match recordWrite e.slice c dva bytes b with
            | .done b => coreSaved core c pos e st b
            | .refused d => saveFailed core 0x11 d 0x06 b
            | .stop (.cause d cause) => saveFailed core (causeStatus cause) d cause b
            | .stop _ => coreSaved core c pos e st (ctlWriteLater e.slice c dva bytes b)
          else
            let kept := if st.only.isSome then liveGroups b k.groups else []
            settle (settleLaunches (freeCore core kept b))
    | _, _ => b) s

/-- The cause that keeps a span from translating, where one does; a save does not wait on the fault path, so a host page without
a translation is HOST_NO_ACCESS. -/
def spanCause (b : Blk) (slice dva len : Nat) (write : Bool) : Option (Nat × Nat) :=
  match planSpan b slice dva len write with
  | .error (.cause d c) => some (d, c)
  | .error (.miss d _) => some (d, 0x07)
  | .error (.lost d _) => some (d, 0x03)
  | _ => none

/-- SAVE_STOP_FAILURE. -/
def execSaveStopFailure (core : Nat) (cause : StopCause) (s : State) : Host.Outcome State Fault Refusal :=
  actUnit pgSCH (fun b =>
    let k := b.core core
    match k.stop, k.ctx with
    | some st, some c => if !st.save then b else match b.contexts.get? c with
      | none => b
      | some e =>
        let dva := recordDva b e (savePos b core e)
        match cause with
        | .untranslated => (match spanCause b e.slice dva (recordBytes b) true with
          | some (d, code) => saveFailed core (causeStatus code) d code b
          | none => b)
        | .refused => saveFailed core 0x11 dva 0x06 b
        | .lost => let (b, code) := drawCause b
                   saveFailed core 0x13 dva code b
    | _, _ => b) s

/-! ## Restore (R266, R504) -/

/-- The dispatch word of a restore (Table 07.2, R265). -/
def restoreWord (e : Context) (c pos : Nat) : Nat :=
  burgee e.slice c 7 3750 3 + 2 ^ 243 + pos * 2 ^ 244

/-- RESTORE_DISPATCH: the record that is first in service order goes to its core. -/
def execRestoreDispatch (ctx : Nat) (s : State) : Host.Outcome State Fault Refusal :=
  actUnit pgSCH (fun b =>
    if !schReady b then b
    else match b.contexts.get? ctx with
      | none => b
      | some e => match nextPlacing b (slicePart b e.slice) with
        | some (.record c pos, core) =>
          if c ≠ ctx then b
          else
            let b := issueWord core (restoreWord e ctx pos) b
            let b := b.updContext ctx fun x => { x with records := x.records.upd pos fun r => { r with recState := 3 } }
            syncSaveArea ctx (b.updCore core fun k => { k with ctx := some ctx, restoring := some (ctx, pos) })
        | _ => b) s

/-- A record leaves the save area. -/
def freeRecord (c pos : Nat) (b : Blk) : Blk := syncSaveArea c (b.updContext c fun x => { x with records := x.records.del pos })

/-- RECORD_RESTORED: the work groups of launches that still run are on the core. A PREEMPT in progress that holds the context stops
them again. -/
def execRecordRestored (core : Nat) (s : State) : Host.Outcome State Fault Refusal :=
  actUnit pgSCH (fun b =>
    match (b.core core).restoring with
    | none => b
    | some (c, pos) =>
      let groups := (((b.contexts.get? c).bind fun e => e.records.get? pos).map fun r => r.groups).getD []
      let live := liveGroups b groups
      let b := freeRecord c pos (b.updCore core fun k => idleCore { k with restoring := none, groups := live, placedFt := b.ft })
      let b := if b.sch.pbusy = some c ∧ ctxHeld b c then stopCore core true none b else b
      settle (settleLaunches b)) s

/-- RESTORE_FAILURE: the record is freed and its launches end (R504). -/
def execRestoreFailure (core : Nat) (uncorrectable : Bool) (s : State) : Host.Outcome State Fault Refusal :=
  actUnit pgSCH (fun b =>
    match (b.core core).restoring with
    | none => b
    | some (c, pos) => match b.contexts.get? c with
      | none => b.updCore core fun k => idleCore { k with restoring := none }
      | some e =>
        let groups := ((e.records.get? pos).map fun r => r.groups).getD []
        let ids := (groups.map fun g => g.launch).dedup
        let dva := recordDva b e pos
        let (b, d, cause) := match uncorrectable, spanCause b e.slice dva (recordBytes b) false with
          | false, some (d, code) => (b, d, code)
          | _, _ => let (b, code) := drawCause b
                    (b, dva, code)
        let b := saveFault c e d cause false ids b
        let b := freeRecord c pos (b.updCore core fun k => idleCore { k with restoring := none })
        let status := if uncorrectable then 0x16 else 0x10
        settle (ids.foldl (fun b id => stopLaunch id ⟨status, 0, 0⟩ b) b)) s

/-! ## Cache maintenance (R199, R252) -/

/-- A line that a core writes back for a word: local memory, or the host window. -/
def writeBack (i : Nat) (it : Item) (f : FlushWord) (line : Nat × Bytes) (b : Blk) : Blk :=
  let pa := line.1
  let bs := line.2.take 64
  if f.pa ≤ pa ∧ pa + bs.length ≤ f.pa + f.span then
    if paSpace pa = 2 then
      match b.xlt.hostCache.find? fun h => h.slice == it.slice && h.hpa == paOff pa / 4096 * 4096 with
      | some h => hostWrite it.slice (paOff pa) (h.hva / 4096) bs (some i) b
      | none => b
    else if admits b .core it.slice true (paKey pa) bs.length then storeLocal (paKey pa) bs b else b
  else b

/-- CACHE_MAINTENANCE_ACK: the core's write-backs of the word are performed; after the last core the walk goes on. -/
def execCacheMaintenanceAck (core : Nat) (lines : FlushLines) (s : State) : Host.Outcome State Fault Refusal :=
  actUnit pgSCH (fun b =>
    match b.sch.flush.find? fun f => f.cores.contains core with
    | none => b
    | some f => match b.items.get? f.item with
      | none => b
      | some it =>
        let b := lines.foldl (fun b l => writeBack f.item it f l b) b
        let rest := f.cores.filter (· ≠ core)
        let b := flushAt f.item f.bytes rest f.pa f.span b
        if rest.isEmpty then settle (flushWalk flushFuel f.item f.bytes b) else b) s

/-! ## Registers (R244, R269, Table 07.8) -/

/-- A write of PCMD. -/
def pcmd (who : Who) (w : W32) (b : Blk) : Blk :=
  onUnit who pgSCH b fun b =>
    if b.sch.pbusy.isSome then pageErr pgSCH 0x04 b
    else
      let c := bits w.toNat 16 16
      match b.contexts.get? c with
      | none => b.schU fun s => { s with presult := 0x11 }
      | some e =>
        if e.state = .destroying then b.schU fun s => { s with presult := 0x11 }
        else if bit w.toNat 0 then
          syncSaveArea c ((b.updContext c fun x => { x with held := false }).schU fun s => { s with presult := 0 })
        else
          let b := syncSaveArea c (b.updContext c fun x => { x with held := bit w.toNat 1 })
          let cores := (b.sch.cores.filter fun k => k.2.ctx == some c).map fun k => k.1
          let b := cores.foldl (fun b k => stopCore k true none b) (b.schU fun s => { s with pbusy := some c })
          settlePreempt b

/-- PREEMPT. -/
def execPreempt (who : Who) (w : W32) (s : State) : Host.Outcome State Fault Refusal := act (fun b => pcmd who w b) s

/-- RESUME. -/
def execResume (who : Who) (w : W32) (s : State) : Host.Outcome State Fault Refusal := act (fun b => pcmd who w b) s

/-- No scratchpad page has been granted. -/
def noScratchpad (b : Blk) : Bool :=
  (b.own.owner.all fun e => e.1 / 2 ^ 30 != 1) && (b.own.grant.all fun g => g.2.1 != 1)

/-- SCH_LWA_WRITE. -/
def execSchLwaWrite (who : Who) (w : W32) (s : State) : Host.Outcome State Fault Refusal :=
  act (fun b => onUnit who pgSCH b fun b =>
    let v := bits w.toNat 0 5
    if (b.hdr pgSCH).locked then pageErr pgSCH 0x03 b
    else if v < 1 ∨ 16 < v then pageErr pgSCH 0x05 b
    else if !noScratchpad b ∨ b.mdl.storeEn ∨ !b.contexts.isEmpty then pageErr pgSCH 0x06 b
    else b.schU fun s => { s with lwa := v }) s

/-! ## Dispatch ports (R428, Table 13.6) -/

/-- DISPATCH_PORT_FAILURE: the port leaves service, and the words it may have lost are issued on another. -/
def execDispatchPortFailure (port : Nat) (s : State) : Host.Outcome State Fault Refusal :=
  actUnit pgSCH (fun b => if port < 4 ∧ b.sch.portsUp.getLsbD port then absorb (portLeaves port b) else b) s

end Sys2Proof.Machine
end

