-- ==== Sys2Proof/Machine/Fences.lean ====
section
/-! DEFINITION. Fences: the signal port, the poll list, expiry, remote signals, and the query registers (R152 to R171), with the
latched pairs that reads share (R491). -/

namespace Sys2Proof.Machine

/-! ## Reads and latches (R480, R490, R491) -/

/-- Whose latch a requester uses: each function, the management processor and the debug port have one. Another chip's access acts as
one by slice 0, through the physical function (R480); a core's has none. -/
def latcherOf : Who → Option Latcher
  | .pf _ _ => some (.fn 0)
  | .vf fn _ => some (.fn fn)
  | .mp _ => some .mp
  | .debug => some .debug
  | .remote _ => some (.fn 0)
  | .core _ _ => none

/-- Latch a word at an offset of the window for a requester. -/
def latchWord (who : Who) (off : Nat) (w : W32) (b : Blk) : Blk :=
  match latcherOf who with
  | none => b
  | some l => { b with latches := (b.latches.filter fun x => !(x.whose == l && x.off == off)) ++ [⟨l, off, w⟩] }

/-- The word a requester has latched at an offset, or 0. -/
def latched (b : Blk) (who : Who) (off : Nat) : W32 :=
  match latcherOf who with
  | none => 0
  | some l => ((b.latches.find? fun x => x.whose == l && x.off == off).map fun x => x.word).getD 0

/-- What a register read returns. -/
def readWord (v : Nat) (b : Blk) : Blk := { b with readOut := BitVec.ofNat 64 v }

/-- A read of a latched pair at its X_LO: the value, its upper half latched for X_HI and, at `also`, the word that latches with
it. An access of four bytes returns the lower half, one of eight both. -/
def readPair (who : Who) (off size v : Nat) (also : Option (Nat × W32)) (b : Blk) : Blk :=
  let b := latchWord who (off + 4) (BitVec.ofNat 32 (v / 2 ^ 32)) b
  let b := match also with
    | some (o, w) => latchWord who o w b
    | none => b
  readWord (if size = 8 then v else v % 2 ^ 32) b

/-- A read that no path carries, or of a refused size, reads as zero (R490, R459). -/
def onRead (who : Who) (pg size : Nat) (b : Blk) (k : Blk → Blk) : Blk :=
  match gatePower who pg false b with
  | (b, false) => readWord 0 b
  | (b, true) => if sizeIs size then k b else readWord 0 b

/-- Offset of a view page in the window. -/
def viewOff (slice : Nat) : Nat := pgView slice * 4096

/-! ## The signal port (R152, R153) -/

/-- The write is one the signal port takes: its slice, or none with the code that counts it. -/
def portWriter (b : Blk) (who : Who) (slice : Nat) : Bool :=
  match who with
  | .core s _ => s == slice
  | _ => ownAccess b who slice

/-- The context that a signal-port write carries. -/
def portCtx : Who → Nat
  | .core _ ctx => ctx
  | _ => noOne

/-- SIGNAL_PORT_WRITE. -/
def execSignalPortWrite (who : Who) (page off : Nat) (bytes : Bytes) (s : State) : Host.Outcome State Fault Refusal :=
  act (fun b =>
    match gatePower who (pgView page) true b with
    | (b, false) => b
    | (b, true) => match pageSlice b who page with
      | none => pageErr pgQFE 0x07 b
      | some sl =>
        let mine := portWriter b who sl
        let err (code : Nat) (b : Blk) : Blk := if mine then viewErr sl pgFEN code b else pageErr pgFEN code b
        if off ≠ 0x200 ∨ bytes.length ≠ 16 then err 0x01 b
        else if !mine then err 0x02 b
        else if field bytes 0x0A 2 ≠ 0 ∨ field bytes 0x0C 4 ≠ 0 then err 0x05 b
        else if !ownsFence b sl (field bytes 8 2) then err 0x02 b
        else settle (signalFence sl (portCtx who) (field bytes 8 2) (BitVec.ofNat 64 (field bytes 0 8)) false b.chip false 0 b).1) s

/-! ## The poll list and deadlines (R159, R160) -/

/-- What a recheck finds of a polled wait: its result, or none while it still waits. -/
def pollResult (b : Blk) (w : Wait) : Option Result :=
  if satisfied b w.fence w.value then some okResult
  else if (b.fen.fences.get? w.fence).any fun f => f.abandoning then some ⟨0x15, 5, fenceDetail b.chip w.fence⟩
  else if pastDeadline b.ft w.deadline then some deadlineResult
  else none

/-- One recheck of the whole list (R159): waits end, fences whose last waiter has gone become FREE, and the oldest of the others
move into the table. -/
def recheck (b : Blk) : Blk :=
  let gone := b.fen.poll.filter fun w => (pollResult b w).isSome
  let stay := b.fen.poll.filter fun w => (pollResult b w).isNone
  let ends := gone.filterMap fun w => (pollResult b w).map fun r => (w, r)
  let room := 16384 - b.fen.table.length
  let b := b.fenU fun x => { x with table := x.table ++ stay.take room, poll := stay.drop room }
  let b := ends.foldl (fun b e => endWait e.1 e.2 b) b
  gone.foldl (fun b w => finishAbandon w.fence b) b

/-- POLL_RECHECK. -/
def execPollRecheck (s : State) : Host.Outcome State Fault Refusal :=
  actUnit pgFEN (fun b => settle (recheck b)) s

/-- A table wait whose deadline has passed ends (R160). -/
def expireWait (w : Wait) (b : Blk) : Blk :=
  let b := b.fenU fun x => { x with table := x.table.filter fun y => y.item != w.item }
  finishAbandon w.fence (endWait w deadlineResult b)

/-- The Marionette wait slots of a run whose deadline has passed are released with that status (R161). -/
def expireSlots (run : Nat) (b : Blk) : Blk :=
  b.fenU fun x => { x with marWaits := x.marWaits.map fun w =>
    if w.run = run ∧ w.outcome = none ∧ pastDeadline b.ft w.deadline then { w with outcome := some 0x1A } else w }

/-- WAIT_DEADLINE_EXPIRY: the wait of a FENCE_WAIT item in the table, or the wait slots of a STEP_RUN item's run. -/
def execWaitDeadlineExpiry (item : Nat) (s : State) : Host.Outcome State Fault Refusal :=
  actUnit pgFEN (fun b =>
    match b.fen.table.find? fun w => w.item == item && pastDeadline b.ft w.deadline with
    | some w => settle (expireWait w b)
    | none => match runOfItem b item with
      | some run => expireSlots run b
      | none => b) s

/-! ## Remote signals (R163 to R167) -/

/-- Keep the answer to an FSIG: the 64 most recent of its source (R166). -/
def keepAnswer (src txn result : Nat) (after : BitVec 64) (b : Blk) : Blk :=
  let k : KeptFsig := { txn := txn, result := result, valueAfter := after }
  b.fenU fun x => { x with kept := x.kept.set src ((k :: x.kept.getD src []).take 64) }

/-- Apply an FSIG in the fence order and answer it (R164). -/
def applyFsig (p : Pkt) (b : Blk) : Blk :=
  let burg := field p.payload 0 8
  let f := field p.payload 0x20 2
  let slice := bits burg 0 12
  let (b, result) :=
    if field p.payload 0x18 8 < b.ft then (b, 4)
    else signalFence slice (bits burg 12 16) f (BitVec.ofNat 64 (field p.payload 0x10 8)) (bit (field p.payload 0x24 1) 0)
      (field p.payload 0x22 2 % 1024) true p.txn b
  let after : BitVec 64 := if result ≤ 1 then ((b.fen.fences.get? f).map fun e => e.value).getD 0 else 0
  let b := keepAnswer p.src p.txn result after b
  sendPkt { typ := 0x13, vc := 1, resent := false, classB := false, ttl := 15, dest := p.src, src := b.chip, txn := p.txn,
            spec := List.replicate 16 0, payload := fackPayload p.txn result after f, rsvd := true } b

/-- The result of a remote signal by its FACK (Table 04.7); none while only the timeout ends it. -/
def fackResult (chip f result : Nat) : Option Result :=
  match result with
  | 0 => some okResult
  | 1 => some ⟨0x00, 1, 1⟩
  | 2 => some (fieldResult 0x11 0x10)
  | 3 => some ⟨0x11, 5, fenceDetail chip f⟩
  | _ => none

/-- The outcome of a signal that a committed step staged (R286, R290). -/
def stagedResult (chip f result : Nat) : Result :=
  match result with
  | 0 => okResult
  | 1 => okResult
  | 4 => ⟨0x14, 6, chip⟩
  | _ => ⟨0x11, 5, fenceDetail chip f⟩

/-- A FACK at the source of its FSIG (R164). -/
def applyFack (p : Pkt) (b : Blk) : Blk :=
  let txn := field p.payload 0 8
  let f := field p.payload 0x10 2
  let result := field p.payload 0x12 1
  match answered b p.src txn with
  | none => lateResp p.src txn b
  | some q => match q.why with
    | .fsig i =>
      let b := dropRequest p.src txn b
      (match fackResult p.src f result with
      | some r => endItem i r b
      | none => b)
    | .commitSig run op => setOutcome run op (stagedResult p.src f result) (dropRequest p.src txn b)
    | _ => b

/-- A FACK has come or a signal has timed out: FSIGs that waited for fewer outstanding ones go (R166). -/
def sendWaiting (b : Blk) : Blk :=
  let b := b.items.foldl (fun b e => if e.2.sig.any fun g => g.txn.isNone then fsigSend e.1 b else b) b
  b.mar.runs.foldl (fun b e => if e.2.phase = .committing then issueStaged e.1 b else b) b

/-- REMOTE_SIGNAL_TIMEOUT (R165). -/
def execRemoteSignalTimeout (item : Nat) (s : State) : Host.Outcome State Fault Refusal :=
  actUnit pgFEN (fun b =>
    match b.items.get? item with
    | none => b
    | some it =>
      if it.sig.isSome ∧ it.result.isNone ∧ it.startFt + it.timeoutNs b.lmf.txnTimeoutUs ≤ b.ft then
        let late := b.lmf.outstanding.filter fun q => q.why == .fsig item
        let b := late.foldl (fun b q => forgetRequest q.dest q.txn b) b
        settle (sendWaiting (endItem item ⟨0x14, 6, field it.entry 0x12 2 % 1024⟩ b))
      else b) s

/-- FSIG_SEND: an FSIG that waited leaves. -/
def execFsigSend (item : Nat) (s : State) : Host.Outcome State Fault Refusal :=
  actUnit pgFEN (fun b => fsigSend item b) s

/-! ## Queries (R170, R171) -/

/-- FENCE_QUERY_READ: FQ_VALUE_LO, with FQ_VALUE_HI and FQ_STATUS latched. A page of no slice reads as zero (R497). -/
def execFenceQueryRead (who : Who) (page size : Nat) (s : State) : Host.Outcome State Fault Refusal :=
  act (fun b => onRead who (pgView page) size b fun b =>
    match pageSlice b who page with
    | none => readWord 0 b
    | some sl =>
      let q := queryFence b sl (b.view sl).fqSel
      readPair who (viewOff sl + 0x218) size q.2 (some (viewOff sl + 0x214, q.1)) b) s

/-- FENCE_STALE_CLEAR: writing 1 to FQ_STALE_SAT clears it and STALE of a fence the slice owns. -/
def execFenceStaleClear (who : Who) (page : Nat) (w : W32) (s : State) : Host.Outcome State Fault Refusal :=
  act (fun b => onView who page pgFEN b fun sl b =>
    let f := (b.view sl).fqSel
    if bit w.toNat 16 && ownsFence b sl f then
      b.fenU fun x => { x with fences := x.fences.upd f fun e => { e with stale := 0, staleSat := false } }
    else b) s

/-- MANAGER_FENCE_QUERY_READ: MQ_VALUE_LO, with MQ_VALUE_HI and the word at 0x064 latched. -/
def execManagerFenceQueryRead (who : Who) (size : Nat) (s : State) : Host.Outcome State Fault Refusal :=
  act (fun b => onRead who pgFEN size b fun b =>
    let q := managerFence b b.fen.mqSel
    readPair who (pgFEN * 4096 + 0x068) size q.2 (some (pgFEN * 4096 + 0x064, q.1)) b) s

end Sys2Proof.Machine
end

