-- ==== Sys2Proof/Machine/Traffic.lean ====
section
/-! DEFINITION. Reads and writes that have left the block: streams that go on or fault, lost and unanswered requests, host reads
and flushing reads, and ownership pushes (R36, R37, R42, R191 to R194, R226, R347, R354). -/

namespace Sys2Proof.Machine

/-! ## Which field an access belongs to -/

/-- The unit that issues an item's own accesses (Table 01.1). -/
def itemSource (it : Item) : Nat :=
  match it.opcode with
  | 0x01 => 0x20
  | 0x08 => 0x23
  | 0x0B => 0x21
  | 0x0C => 0x21
  | 0x0E => 0x12
  | _ => 0x24

/-- The field of an entry that an item's own access uses. -/
def itemField (it : Item) : Nat :=
  match it.opcode with
  | 0x0C => 0x18
  | 0x0E => 0x20
  | _ => 0x10

/-- The field of an entry that an access of a piece of work uses (Table 09.9). -/
def workField (w : Work) (dva : Nat) (write : Bool) : Nat :=
  if write then 0x18
  else match w.kind with
    | .reduce srcA srcB _ count _ srcFmt _ _ =>
      if srcA ≤ dva ∧ dva < srcA + count * memSize srcFmt then 0x10 else if srcB = 0 then 0x18 else 0x28
    | .kvmove _ _ _ blocks srcIndex dstIndex _ =>
      if srcIndex ≤ dva ∧ dva < srcIndex + 4 * blocks then 0x28
      else if dstIndex ≤ dva ∧ dva < dstIndex + 4 * blocks then 0x30 else 0x10
    | .load _ _ _ => 0x18
    | _ => 0x10

/-! ## Kernel exceptions (R192, R427) -/

/-- Fields of a fault record that a core's launch gives. -/
def coreInfo (b : Blk) (launch dva cause : Nat) (write : Bool) : Nat × FaultInfo :=
  match b.sch.launches.get? launch with
  | none => (0, { dva := dva, ctx := noOne, sq := 0, tag := 0, cause := cause, write := write, source := 0x20, outcome := 0 })
  | some l =>
    let it := match l.owner with
      | .item i => b.items.get? i
      | .op run _ => (b.mar.runs.get? run).bind fun r => b.items.get? r.item
    (l.slice, { dva := dva, ctx := l.ctx, sq := (it.map fun x => x.sq).getD 0, tag := (it.map Item.tag).getD 0, cause := cause,
                write := write, source := 0x20, outcome := 0 })

/-- A work group takes the exception path: its launch ends with a status once its other work groups have been stopped. -/
def coreException (launch : Nat) (r : Result) (b : Blk) : Blk := stopLaunch launch r b

/-- A final translation fault of a core's access: its record, the fault to the core, the end of its launch. -/
def coreFault (core launch dva cause : Nat) (write : Bool) (b : Blk) : Blk :=
  let (slice, f) := coreInfo b launch dva cause write
  let b := (recordFault slice f none none b).1
  let b := b.emit (.coreData core [] (some cause))
  coreException launch ⟨causeStatus cause, 0, 0⟩ b

/-! ## Streams (R223, R226, R230) -/

/-- A piece of work goes on where it stalled, and its item with it. -/
def wakeItem (i : Nat) (b : Blk) : Blk :=
  b.updItem i fun it => if it.st = .stalled then { it with st := .running, stall := none } else it

/-- A stream whose page is there goes on. What a unit does next is its own step. -/
def resumeStream (s : Stream) (b : Blk) : Blk :=
  match s with
  | .work w => (match (b.tre.works.get? w).bind workItem with
    | some i => wakeItem i (b.updWork w fun x => { x with stall := none })
    | none => b.updWork w fun x => { x with stall := none })
  | .item i => wakeItem i b
  | .completion i => tryComplete i (b.updItem i fun it => { it with stall := none })
  | .fetch slice slot => fetchGo 9 slice slot b
  | .queueDesc slice => createGo slice b
  | .core _ _ _ => b
  | .pennant _ => b
  | .write slice dva bytes => ctlWriteLater slice noOne dva bytes b
  | .coll c => (match b.tre.colls.get? c with
    | some x => (match x.owner with
      | .item i => wakeItem i (b.updColl c fun x => { x with stall := none })
      | _ => b.updColl c fun x => { x with stall := none })
    | none => b)

/-- A record's write meets a final fault: the fault is recorded once, and the record waits (R401). -/
def pennantFault (slice dva cause : Nat) (b : Blk) : Blk :=
  if b.evc.faulted.any fun f => f.1 == slice && f.2.1 != 1 then
    let f : FaultInfo := { dva := dva, ctx := noOne, sq := 0, tag := 0, cause := cause, write := true, source := 0x14, outcome := 2 }
    (recordFault slice f none none b).1.evcU fun v => { v with
      faulted := v.faulted.map fun f => if f.1 = slice then (f.1, 1, f.2.2) else f }
  else b

/-- A stream meets a final fault (R226). -/
def failStream (dva cause : Nat) (write : Bool) (s : Stream) (b : Blk) : Blk :=
  let st := causeStatus cause
  match s with
  | .work w => (match b.tre.works.get? w with
    | some x => faultWork w dva cause write (fieldResult st (workField x dva write)) b
    | none => b)
  | .item i => (match b.items.get? i with
    | some it => faultItem i dva cause (itemSource it) write (fieldResult st (itemField it)) (withdrawAlloc i b)
    | none => b)
  | .completion i => (match b.items.get? i with
    | some it => completionFault i it dva cause (b.updItem i fun it => { it with stall := none })
    | none => b)
  | .fetch slice slot => fetchGo 9 slice slot (killEntry slice slot dva cause b)
  | .queueDesc slice => createFault slice dva cause b
  | .core c launch _ => coreFault c launch dva cause write b
  | .pennant slice => pennantFault slice dva cause b
  | .write _ _ _ => b
  | .coll c => faultColl c dva cause write (fieldResult st (if write then 0x18 else 0x10)) b

/-- What a fault record tells of a stream: context, SQ, TAG, SOURCE and OUTCOME. -/
def streamInfo (b : Blk) (s : Stream) : Nat × Nat × Nat × Nat × Nat :=
  let ofItem (i source outcome : Nat) : Nat × Nat × Nat × Nat × Nat := match b.items.get? i with
    | some it => (it.ctx, it.sq, it.tag, source, outcome)
    | none => (noOne, 0, 0, source, outcome)
  match s with
  | .work w => (match b.tre.works.get? w with
    | some x => (match workItem x with
      | some i => ofItem i 0x24 1
      | none => (x.ctx, 0, 0, 0x24, 1))
    | none => (noOne, 0, 0, 0x24, 1))
  | .item i => ofItem i (((b.items.get? i).map itemSource).getD 0x24) 1
  | .completion i => ofItem i 0x11 (if (b.items.get? i).any fun it => it.complWait then 255 else 2)
  | .fetch slice slot => (((b.queues.get? (qkey slice slot)).map fun q => q.ctx).getD noOne, slot, 0, 0x11, 1)
  | .queueDesc _ => (noOne, 0, 0, 0x11, 1)
  | .core _ launch dva => let f := (coreInfo b launch dva 0x07 false).2
                          (f.ctx, f.sq, f.tag, 0x20, 1)
  | .pennant _ => (noOne, 0, 0, 0x14, 1)
  | .write _ _ _ => (noOne, 0, 0, 0x12, 1)
  | .coll c => (match b.tre.colls.get? c with
    | some x => (match x.owner with
      | .item i => ofItem i 0x24 1
      | _ => (x.ctx, 0, 0, 0x24, 1))
    | none => (noOne, 0, 0, 0x24, 1))

/-- A stream stalls on a page request group. -/
def stallStream (page : Nat) (s : Stream) (b : Blk) : Blk :=
  match s with
  | .work w => (match (b.tre.works.get? w).bind workItem with
    | some i => stallItem i (.group page) (b.updWork w fun x => { x with stall := some (.group page) })
    | none => b.updWork w fun x => { x with stall := some (.group page) })
  | .item i => stallItem i (.group page) b
  | .completion i => b.updItem i fun it => { it with stall := some (.group page), complWait := true }
  | .fetch slice slot => fetchAt slice slot .stalled b
  | .coll c => b.updColl c fun x => { x with stall := some (.group page) }
  | _ => b

/-- A host page does not allow an access: a page request where the function has PRI, else a final fault (R216, R230). -/
def hostNoAccess (slice dva : Nat) (write : Bool) (s : Stream) (b : Blk) : Blk :=
  if priOn b (sliceFn b slice) then
    let (ctx, sq, tag, source, outcome) := streamInfo b s
    stallStream (dva % 2 ^ 56 / 4096) s (joinBatch slice dva write ctx sq tag source outcome s b)
  else failStream dva 0x07 write s b

/-! ## Lost and refused requests (R191 to R194, R347, R354) -/

/-- An item in flight ends with a failure that came from outside; one that has ended well and waits for its writes fails now. -/
def loseItem (i : Nat) (r : Result) (b : Blk) : Blk :=
  match b.items.get? i with
  | none => b
  | some it => match it.result with
    | some r0 => if r0.fails then b else b.updItem i fun it => { it with result := some r }
    | none => if it.opcode = 0x0E then endItem i r (withdrawAlloc i b) else abortItem i r b

/-- A remote write is lost: whoever issued it ends with FAIL_STORE_LOST naming the chip (R192). -/
def lostWrite (q : Request') (b : Blk) : Blk :=
  let r : Result := ⟨0x13, 3, q.dest⟩
  match q.why with
  | .itemWrite i => loseItem i r b
  | .workWrite w => failWork w r b
  | .collWrite c => failColl c r b
  | .coreWrite _ launch => coreException launch r b
  | _ => b

/-- A remote read or atomic is unanswered: FAIL_PEER_TIMEOUT naming the chip (R194). A fetch that is unanswered cannot be read. -/
def lostRead (q : Request') (b : Blk) : Blk :=
  let r : Result := ⟨0x14, 6, q.dest⟩
  match q.why with
  | .itemRead i _ _ => loseItem i r b
  | .workRead w _ _ => failWork w r b
  | .collRead c _ _ => failColl c r b
  | .coreRead core launch => coreException launch r (b.emit (.coreData core [] (some 0)))
  | .fetch slice slot => fetchArrived slice slot .timedOut b
  | .queueDesc slice => createGot slice .timedOut b
  | _ => b

/-- What a request is: a write, a read or atomic, or a signal. -/
def ReqFor.isWrite : ReqFor → Bool
  | .itemWrite _ => true
  | .workWrite _ => true
  | .collWrite _ => true
  | .coreWrite _ _ => true
  | _ => false

/-- A read or an atomic. -/
def ReqFor.isRead : ReqFor → Bool
  | .itemRead _ _ _ => true
  | .workRead _ _ _ => true
  | .collRead _ _ _ => true
  | .coreRead _ _ => true
  | .fetch _ _ => true
  | .queueDesc _ => true
  | _ => false

/-- A request whose response has not come by its limit is lost. -/
def loseRequest (test : ReqFor → Bool) (dest txn : Nat) (b : Blk) : Blk :=
  match answered b dest txn with
  | none => b
  | some q =>
    if q.limitFt ≤ b.ft ∧ test q.why then
      let b := forgetRequest dest txn b
      settle (if q.why.isWrite then lostWrite q b else if q.why.isRead then lostRead q b else b)
    else b

/-- REMOTE_WRITE_LOST. -/
def execRemoteWriteLost (dest txn : Nat) (s : State) : Host.Outcome State Fault Refusal :=
  actUnit pgLMF (fun b => loseRequest ReqFor.isWrite dest txn b) s

/-- REMOTE_READ_TIMEOUT. -/
def execRemoteReadTimeout (dest txn : Nat) (s : State) : Host.Outcome State Fault Refusal :=
  actUnit pgLMF (fun b => loseRequest ReqFor.isRead dest txn b) s

/-- The fault cause that a response's STATUS stands for: owner mismatch, or beyond the implemented space (R347). -/
def statusCause (status : Nat) : Nat := if status = 1 then 0x06 else 0x05

/-- A write that its home refused (R218, R347). -/
def refusedWrite (q : Request') (status : Nat) (b : Blk) : Blk :=
  let c := statusCause status
  match q.why with
  | .itemWrite i => (match b.items.get? i with
    | none => b
    | some it =>
      let work := (worksOf b i).head?.bind fun w => b.tre.works.get? w
      let off := (work.map fun w => workField w q.dva true).getD (if it.opcode = 0x0E then 0x20 else 0x18)
      let f : FaultInfo := { dva := q.dva, ctx := it.ctx, sq := it.sq, tag := it.tag, cause := c, write := true,
                             source := itemSource it, outcome := 0 }
      loseItem i (fieldResult (causeStatus c) off) (recordFault it.slice f none none b).1)
  | .workWrite w => failStream q.dva c true (.work w) b
  | .collWrite k => failStream q.dva c true (.coll k) b
  | .coreWrite core launch => coreFault core launch q.dva c true b
  | _ => b

/-- A read that its home refused, or whose data are uncorrectable there. -/
def refusedRead (q : Request') (status : Nat) (b : Blk) : Blk :=
  let c := statusCause status
  if status = 3 then
    match q.why with
    | .itemRead i _ _ => (match b.items.get? i with
      | some it => loseItem i (fieldResult 0x16 (itemField it)) b
      | none => b)
    | .workRead w _ _ => (match b.tre.works.get? w with
      | some x => failWork w (fieldResult 0x16 (workField x q.dva false)) b
      | none => b)
    | .collRead k _ _ => b.updColl k fun x => { x with rbuf := x.rbuf ++ [(q.dva, [])] }
    | .coreRead core launch => coreException launch ⟨0x16, 0, 0⟩ (b.emit (.coreData core [] (some 0)))
    | .fetch slice slot => fetchArrived slice slot .poisoned b
    | .queueDesc slice => createGot slice .poisoned b
    | _ => b
  else match q.why with
    | .itemRead i _ _ => failStream q.dva c false (.item i) b
    | .workRead w _ _ => failStream q.dva c false (.work w) b
    | .collRead k _ _ => failStream q.dva c false (.coll k) b
    | .coreRead core launch => coreFault core launch q.dva c false b
    | .fetch slice slot => failStream q.dva c false (.fetch slice slot) b
    | .queueDesc slice => createFault slice q.dva c b
    | _ => b

/-- Data that a read of another home returned. -/
def gotData (why : ReqFor) (dva len : Nat) (bs : Bytes) (b : Blk) : Blk :=
  let data := (bs ++ List.replicate len 0).take len
  match why with
  | .itemRead i _ _ => b.updItem i fun it => { it with rbuf := it.rbuf ++ [(dva, data)] }
  | .workRead w _ _ => b.updWork w fun x => { x with rbuf := x.rbuf ++ [(dva, data)] }
  | .collRead c _ _ => b.updColl c fun x => { x with rbuf := x.rbuf ++ [(dva, data)] }
  | .coreRead core _ => b.emit (.coreData core bs none)
  | .fetch slice slot => fetchArrived slice slot (.data bs) b
  | .queueDesc slice => createGot slice (.data bs) b
  | _ => b

/-- The length that a read asked for. -/
def ReqFor.len : ReqFor → Nat
  | .itemRead _ _ n => n
  | .workRead _ _ n => n
  | .collRead _ _ n => n
  | _ => 0

/-- A response (WACK, RDR or ATR) at its source (R347, R354, R355). -/
def applyResp (p : Pkt) (b : Blk) : Blk :=
  match answered b p.src p.txn with
  | none => lateResp p.src p.txn b
  | some q =>
    let b := dropRequest p.src p.txn b
    let status := field p.spec 0 1
    if q.why.isWrite then (if status = 0 then b else refusedWrite q status b)
    else if q.why.isRead then
      (if status = 0 then gotData q.why q.dva q.why.len p.payload b else refusedRead q status b)
    else b

/-! ## Host reads and flushing reads (R36, R37, R193) -/

/-- HOST_FLUSH_READ_ISSUE: one flushing read covers every write of the function that none covers yet. -/
def execHostFlushReadIssue (fn : Nat) (s : State) : Host.Outcome State Fault Refusal :=
  actUnit pgHLU (fun b =>
    if b.hlu.stores.any fun x => x.fn == fn && x.flush.isNone then
      let tag := b.hlu.tagNext
      let r : HostRead := { tag := tag, why := .flush fn, fn := fn, limitFt := b.ft + b.hlu.cplToMs * 1000000 }
      let b := b.hluU fun h => { h with
        tagNext := (tag + 1) % 4096
        flushReads := h.flushReads.bump
        reads := h.reads ++ [r]
        stores := h.stores.map fun x => if x.fn = fn ∧ x.flush = none then { x with flush := some tag } else x }
      b.emit (.flushRead fn tag)
    else b) s

/-- The outstanding host read of a tag. -/
def hostReadOf (b : Blk) (tag : Nat) : Option HostRead := b.hlu.reads.find? fun r => r.tag == tag

/-- A host read is over. -/
def dropHostRead (tag : Nat) (b : Blk) : Blk := b.hluU fun h => { h with reads := h.reads.filter fun r => r.tag != tag }

/-- The writes that a flushing read covers are confirmed. -/
def confirmStores (tag : Nat) (b : Blk) : Blk := b.hluU fun h => { h with stores := h.stores.filter fun x => x.flush != some tag }

/-- A flushing read has timed out: items with unconfirmed writes and releases that wait end with FAIL_STORE_LOST; writes of items
that are over are reported to the manager (R37, R193). -/
def flushLost (fn tag : Nat) (b : Blk) : Blk :=
  let mine := b.hlu.stores.filter fun x => x.flush == some tag
  let ids := (mine.filterMap fun x => x.item).dedup
  let orphans := (mine.filter fun x => x.item.isNone).length
  let r : Result := ⟨0x13, 3, 2 ^ 31 + fn⟩
  let b := confirmStores tag b
  let b := ids.foldl (fun b i => loseItem i r b) b
  let waits := b.items.filter fun e => e.2.opcode == 0x06 && e.2.started && !e.2.issued && e.2.result.isNone && e.2.scope == 5 &&
    sliceFn b e.2.slice == fn
  let b := waits.foldl (fun b e => endItem e.1 r b) b
  let b := b.hluU fun h => { h with
    storesLost := h.storesLost.add orphans
    lostFn := if orphans = 0 then h.lostFn else fn }
  if orphans = 0 then b else fire 65 noOne (BitVec.ofNat 32 fn) (pageErrs pgHLU 0x09 orphans b)

/-- A host read has failed: poisoned, or timed out (R36). -/
def hostReadFailed (r : HostRead) (b : Blk) : Blk :=
  let b := hostReadBad b
  match r.why with
  | .item i dva len => refusedRead { dest := 0, txn := 0, why := .itemRead i dva len, limitFt := 0, dva := dva } 3 b
  | .work w dva len => refusedRead { dest := 0, txn := 0, why := .workRead w dva len, limitFt := 0, dva := dva } 3 b
  | .coll c dva len => refusedRead { dest := 0, txn := 0, why := .collRead c dva len, limitFt := 0, dva := dva } 3 b
  | .core core launch => coreException launch ⟨0x16, 0, 0⟩ (dropHolds (.hlu core) (b.emit (.coreData core [] (some 0))))
  | .queueDesc slice => createGot slice .poisoned b
  | .inbound src txn _ => sendResp 0x11 src txn 3 [] b
  | _ => b

/-- The other reads of a fetch that are still outstanding. -/
def fetchReads (b : Blk) (slice slot : Nat) : Nat := (b.hlu.reads.filter fun r => r.why == .fetch slice slot).length

/-- The data of a host read have come. -/
def hostReadData (r : HostRead) (bs : Bytes) (b : Blk) : Blk :=
  match r.why with
  | .item i dva len => gotData (.itemRead i dva len) dva len bs b
  | .work w dva len => gotData (.workRead w dva len) dva len bs b
  | .coll c dva len => gotData (.collRead c dva len) dva len bs b
  | .core core launch => gotData (.coreRead core launch) 0 0 bs (dropHolds (.hlu core) b)
  | .queueDesc slice => createGot slice (.data bs) b
  | .flush _ => confirmStores r.tag b
  | .inbound src txn len => sendResp 0x11 src txn 0 ((bs ++ List.replicate len 0).take len) b
  | .fetch _ _ => b

/-- A host read ends with data, or with poison. A fetch of several reads takes its entries with ENTRY_RECEIVED. -/
def hostReadEnds (r : HostRead) (ext : ExtRead) (b : Blk) : Blk :=
  match r.why with
  | .fetch slice slot => if fetchReads b slice slot = 1 then fetchArrived slice slot ext b else b
  | _ =>
    let b := dropHostRead r.tag b
    match ext, r.why with
    | .data bs, _ => settle (hostReadData r bs b)
    | _, .flush _ => settle (confirmStores r.tag (hostReadBad b))
    | _, _ => settle (hostReadFailed r b)

/-- HOST_READ_COMPLETION. -/
def execHostReadCompletion (tag : Nat) (ext : ExtRead) (s : State) : Host.Outcome State Fault Refusal :=
  actUnit pgHLU (fun b => match hostReadOf b tag with
    | some r => hostReadEnds r ext b
    | none => b) s

/-- HOST_READ_TIMEOUT. -/
def execHostReadTimeout (tag : Nat) (s : State) : Host.Outcome State Fault Refusal :=
  actUnit pgHLU (fun b => match hostReadOf b tag with
    | none => b
    | some r =>
      if b.ft < r.limitFt then b
      else match r.why with
        | .flush fn => settle (flushLost fn tag (hostReadBad (dropHostRead tag b)))
        | .fetch slice slot => fetchArrived slice slot .timedOut b
        | _ => settle (hostReadFailed r (dropHostRead tag b))) s

/-! ## Ownership pushes (R42) -/

/-- A push takes effect. -/
def applyPush (p : Push) (b : Blk) : Blk :=
  b.ownU fun o => { o with
    owner := p.granules.foldl (fun t g => match p.owner with
      | some s => t.set g s
      | none => t.del g) o.owner
    pushes := o.pushes.filter fun x => x.id != p.id }

/-- OWNERSHIP_PUSH_ACK: every checker has acknowledged the push, and with it the earlier ones, since each checker handles them in
order. -/
def execOwnershipPushAck (push : Nat) (s : State) : Host.Outcome State Fault Refusal :=
  act (fun b =>
    if b.pwr.supplies && decide (b.pwr.pstate < 2) && b.own.pushes.any fun p => p.id == push then
      settle ((b.own.pushes.filter fun p => decide (p.id ≤ push)).foldl (fun b p => applyPush p b) b)
    else b) s

end Sys2Proof.Machine
end

