-- ==== Sys2Proof/Machine/Translation.lean ====
section
/-! DEFINITION. Translation: ATS answers, invalidations, page requests, the fault queue, access counters, dirty logging, and the
commands and registers of XLT (R207 to R243). -/

namespace Sys2Proof.Machine

/-! ## ATS (R214 to R216, R223) -/

/-- The set of a host page: 1,024 sets (R214). -/
def setOf (page : Nat) : Nat := page % 1024

/-- A cache entry that some agent holds. -/
def entryHeld (b : Blk) (e : HostEntry) : Bool := b.xlt.holds.any fun h => h.target == .page e.slice e.hva

/-- Make a way of a page's set free: one of 16 that is unused, else the least recently used that nobody holds; none when all are
held. The cache is listed most recently used first. -/
def freeWay (b : Blk) (slice page : Nat) : Option (List HostEntry) :=
  let others := b.xlt.hostCache.filter fun e => !(e.slice == slice && e.hva == page * 4096)
  let set := others.filter fun e => setOf (e.hva / 4096) == setOf page
  if set.length < 16 then some others
  else match set.reverse.find? fun e => !entryHeld b e with
    | some v => some (others.filter fun e => e != v)
    | none => none

/-- The waits of a page leave the list. -/
def takeWaits (slice page : Nat) (b : Blk) : Blk × List AtsWait :=
  let mine (w : AtsWait) : Bool := w.slice == slice && w.page == page
  (b.xltU fun x => { x with atsWaits := x.atsWaits.filter fun w => !mine w }, b.xlt.atsWaits.filter mine)

/-- An ATS answer for a page: the cache entry, then each stream that waited goes on or faults (R215, R216). -/
def atsArrived (a : ParkedAts) (b : Blk) : Blk :=
  let none' := a.read == false && a.write == false
  let far := decide (2 ^ 46 ≤ a.hpa)
  if none' || far then
    let (b, ws) := takeWaits a.slice a.page b
    ws.foldl (fun b w => if none' then hostNoAccess a.slice w.dva w.write w.stream b else failStream w.dva 0x08 w.write w.stream b) b
  else match freeWay b a.slice a.page with
    | none => b.xltU fun x => { x with parked := x.parked ++ [a] }
    | some others =>
      let e : HostEntry := { slice := a.slice, fn := sliceFn b a.slice, pasid := slicePasid b a.slice, hva := a.page * 4096
                             hpa := a.hpa / 4096 * 4096, epoch := b.xlt.epoch, read := a.read, write := a.write, logged := false }
      let (b, ws) := takeWaits a.slice a.page (b.xltU fun x => { x with hostCache := e :: others })
      ws.foldl (fun b w =>
        if (if w.write then a.write else a.read) then resumeStream w.stream b
        else hostNoAccess a.slice w.dva w.write w.stream b) b

/-- ATS_COMPLETION: the answer to a request that is outstanding. -/
def execAtsCompletion (slice page hpa : Nat) (read write : Bool) (s : State) : Host.Outcome State Fault Refusal :=
  actUnit pgXLT (fun b =>
    if b.xlt.atsWaits.any fun w => w.slice == slice && w.page == page then
      settle (atsArrived { slice := slice, page := page, hpa := hpa, read := read, write := write } b)
    else b) s

/-- Answers that found their set held try again. -/
def retryParked (b : Blk) : Blk :=
  b.xlt.parked.foldl (fun b a => atsArrived a b) (b.xltU fun x => { x with parked := [] })

/-! ## Range-cache misses (R213) -/

/-- A core's window takes an entry; the window has 64 (R213). -/
def fillWindow (core slice index : Nat) (model : Bool) (b : Blk) : Blk :=
  let e : WindowEntry := { slice := slice, index := index, model := model, epoch := b.xlt.epoch }
  b.updCore core fun k => { k with
    window := (e :: k.window.filter fun w => !(w.slice == slice && w.index == index && w.model == model)).take 64 }

/-- Answer a core's window fill (R213, R294): the range or the model slice that holds the DVA, or its fault. -/
def answerWindow (core launch slice dva : Nat) (write : Bool) (b : Blk) : Blk :=
  match xlate b slice dva write with
  | .dev pa (.range _ i) =>
    let r := (rangesOf b slice).get? i
    let start := (r.map fun r => r.start).getD dva
    fillWindow core slice i false ((touchRange slice i b).emit
      (.windowFill core dva (pa - (dva - start)) ((r.map fun r => r.len).getD 0) none))
  | .dev pa (.model m) =>
    fillWindow core slice m true (b.emit (.windowFill core dva (pa - pa % 65536) 65536 none))
  | .dev _ _ => b
  | .host _ => b
  | .lost _ => b
  | .fault c => coreFault core launch dva c write (b.emit (.windowFill core dva 0 0 (some c)))

/-- RANGE_CACHE_MISS_DONE. -/
def execRangeCacheMissDone (miss : Nat) (s : State) : Host.Outcome State Fault Refusal :=
  actUnit pgXLT (fun b =>
    match b.xlt.misses.find? fun m => m.id == miss with
    | none => b
    | some m =>
      let b := b.xltU fun x => { x with misses := x.misses.filter fun y => y.id != miss }
      let b := match m.work with
        | some w => resumeStream (.work w) b
        | none => b
      settle (match m.core with
        | some c => answerWindow c m.launch m.slice m.dva m.write b
        | none => b)) s

/-! ## Invalidation (R217, R220 to R225) -/

/-- The host pages of a function and PASID that lie in a span and that the cache or a hold knows. -/
def pagesIn (b : Blk) (fn pasid hva pages : Nat) : List Target :=
  let inside (h : Nat) : Bool := decide (hva / 4096 * 4096 ≤ h) && decide (h < hva / 4096 * 4096 + pages * 4096)
  let cached := (b.xlt.hostCache.filter fun e => e.fn == fn && e.pasid == pasid && inside e.hva).map fun e => Target.page e.slice e.hva
  let held := b.xlt.holds.filterMap fun h => match h.target with
    | .page s p => if sliceFn b s = fn ∧ slicePasid b s = pasid ∧ inside p then some (Target.page s p) else none
    | _ => none
  (cached ++ held).dedup

/-- ATS_INVALIDATION_REQUEST: at most 32 at once (R217). -/
def execAtsInvalidationRequest (fn pasid hva pages itag : Nat) (s : State) : Host.Outcome State Fault Refusal :=
  actUnit pgXLT (fun b =>
    if 32 ≤ b.hlu.invalRequests then b
    else
      let slice := ((b.slices.find? fun e => e.2.fn == fn && e.2.pasid == pasid).map fun e => e.1).getD 0
      settle (startInval slice (pagesIn b fn pasid hva pages) true (.hostRequest fn itag)
        (b.hluU fun h => { h with invalRequests := h.invalRequests + 1 }))) s

/-- Writes of a piece of work that no acknowledgement has come for. -/
def workWritesOut (b : Blk) (id : Nat) (w : Work) : Bool := b.lmf.outstanding.any fun r => r.why == workReq id w

/-- A holder is at a boundary of Table 06.4: every request issued under its holds is finished (R221). -/
def atBoundary (b : Blk) : Holder → Bool
  | .tre id => (match b.tre.works.get? id with
    | some w => !workPending b id && !workWritesOut b id w
    | none => true)
  | .mdl id => (match b.tre.works.get? id with
    | some w => !workPending b id && (w.next % 2097152 == 0 || decide (w.total ≤ w.next))
    | none => true)
  | .coll id => !collPending b id && b.lmf.outstanding.all fun r => r.why != .collWrite id
  | .qfe key => b.lmf.outstanding.all (fun r => r.why != .fetch (key / 512) (key % 512)) &&
      b.hlu.reads.all fun r => r.why != .fetch (key / 512) (key % 512)
  | .mar id => (b.mar.runs.get? id).all fun r => r.liveOps.isEmpty
  | .core _ => true
  | .hlu core => b.hlu.reads.all fun r => match r.why with
    | .core c _ => c != core
    | _ => true

/-- Let go of the holds of a holder that an invalidation affects (R223, R225). -/
def releaseAffected (h : Holder) (b : Blk) : Blk :=
  let gone (x : Hold) : Bool := x.holder == h && b.xlt.invals.any fun v => affected v x
  if b.xlt.holds.any gone then settleInvals (b.xltU fun x => { x with holds := x.holds.filter fun y => !gone y }) else b

/-- HOLD_RELEASE. -/
def execHoldRelease (holder : Holder) (s : State) : Host.Outcome State Fault Refusal :=
  actUnit pgXLT (fun b => if atBoundary b holder then settle (retryParked (releaseAffected holder b)) else b) s

/-- A core's window entries that an invalidation concerns. -/
def windowHit (v : Inval) (e : WindowEntry) : Bool :=
  v.targets.contains (if e.model then .model e.index else .range e.slice e.index) && decide (e.epoch ≤ v.epoch)

/-- SHOOTDOWN_ACK: the core's entries go, once its requests through them are performed. -/
def execShootdownAck (core : Nat) (s : State) : Host.Outcome State Fault Refusal :=
  actUnit pgXLT (fun b =>
    let busy := b.lmf.outstanding.any fun r => match r.why with
      | .coreWrite c _ => c == core
      | .coreRead c _ => c == core
      | _ => false
    match b.xlt.invals.find? fun v => v.cores.contains core with
    | none => b
    | some v =>
      if busy then b
      else
        let b := b.updCore core fun k => { k with window := k.window.filter fun e => !windowHit v e }
        let b := b.xltU fun x => { x with
          invals := x.invals.map fun y => if y = v then { y with cores := y.cores.filter (· ≠ core) } else y }
        settle (settleInvals b)) s

/-- Abort the holder of an affected hold: its item ends with FAIL_ABORTED and a record INVAL_ABORT (R224). -/
def abortHolder (h : Hold) (b : Blk) : Blk :=
  let b := b.xltU fun x => { x with invalAborts := x.invalAborts.bump }
  let dva := match h.target with
    | .page _ p => p + 2 ^ 56
    | .range s i => (((rangesOf b s).get? i).map fun r => r.start).getD 0
    | .model m => modelBase + m * modelSpan
  match h.holder with
  | .tre w => dropHolds (.tre w) (failStream dva 0x0B false (.work w) b)
  | .mdl w => dropHolds (.mdl w) (failStream dva 0x0B false (.work w) b)
  | .coll c => dropHolds (.coll c) (failStream dva 0x0B false (.coll c) b)
  | .qfe key => dropHolds (.qfe key) (failStream dva 0x0B false (.fetch (key / 512) (key % 512)) b)
  | .mar r => dropHolds (.mar r) (failRun r ⟨0x12, 0, 0⟩ b)
  | .core c => dropHolds (.core c) ((launchesOn (b.core c)).foldl (fun b id => stopLaunch id abortResult b) b)
  | .hlu c => dropHolds (.hlu c) ((launchesOn (b.core c)).foldl (fun b id => coreFault c id dva 0x0B false b) b)

/-- A core still holds a window entry that an invalidation concerns: its launches of the slice end with FAIL_ABORTED and a record
INVAL_ABORT each, and their work groups are stopped (R224). -/
def abortWindow (v : Inval) (c : Nat) (b : Blk) : Blk :=
  if (b.core c).window.any (windowHit v) then
    ((launchesOn (b.core c)).filter fun id => (b.sch.launches.get? id).any fun l => l.slice == v.slice).foldl (fun b id =>
      let dva := match v.targets with
        | .range s i :: _ => (((rangesOf b s).get? i).map fun r => r.start).getD 0
        | .model m :: _ => modelBase + m * modelSpan
        | _ => 0
      let b := (recordFault v.slice (coreInfo b id dva 0x0B false).2 none none b).1
      stopLaunch id abortResult (b.xltU fun x => { x with invalAborts := x.invalAborts.bump })) b
  else b

/-- Abort what still holds an affected translation; the invalidation waits for no core any longer (R224). -/
def abortAffected (v : Inval) (b : Blk) : Blk :=
  let hs := b.xlt.holds.filter fun h => affected v h
  let b := hs.foldl (fun b h => if b.xlt.holds.contains h then abortHolder h b else b) b
  let b := v.cores.foldl (fun b c => abortWindow v c b) b
  let b := v.cores.foldl (fun b c => b.updCore c fun k => { k with window := k.window.filter fun e => !windowHit v e }) b
  b.xltU fun x => { x with
    invals := x.invals.map fun y => if y = v then { y with cores := [], aborted := true } else y
    aborted := x.aborted ++ [(v.epoch, v.startFt)] }

/-- INVALIDATION_ABORT: eight microseconds after its start. -/
def execInvalidationAbort (epoch : Nat) (s : State) : Host.Outcome State Fault Refusal :=
  actUnit pgXLT (fun b =>
    match b.xlt.invals.find? fun v => v.epoch == epoch && !v.aborted with
    | none => b
    | some v => if v.startFt + 8000 ≤ b.ft then settle (settleInvals (abortAffected v b)) else b) s

/-- ABORT_DRAIN_EXPIRY: two microseconds after the abort the stores that have not drained are discarded and counted. -/
def execAbortDrainExpiry (epoch lines : Nat) (s : State) : Host.Outcome State Fault Refusal :=
  actUnit pgXLT (fun b =>
    match b.xlt.aborted.find? fun a => a.1 == epoch with
    | none => b
    | some a =>
      if a.2 + 10000 ≤ b.ft then
        pageErrs pgXLT 0x10 lines (b.xltU fun x => { x with aborted := x.aborted.filter fun y => y != a })
      else b) s

/-! ## Page requests (R229 to R231) -/

/-- Pages of a function that outstanding groups ask for. -/
def pagesAsked (b : Blk) (fn : Nat) : Nat :=
  b.xlt.batches.foldl (fun n t => if t.fn = fn ∧ t.prg.isSome then n + t.pages.length else n) 0

/-- Records that the pages of a batch need. -/
def batchRecords (t : Batch) : List FaultPage := t.pages.filter fun p => p.outcome != 255

/-- Free slots of a slice's fault queue. -/
def fqSlots (v : View) : Nat := 4095 - (v.fqTail + 4096 - v.fqHead) % 4096

/-- The record of a page of a batch. -/
def pageRecord (prg : Nat) (slice : Nat) (p : FaultPage) (b : Blk) : Blk :=
  let f : FaultInfo := { dva := p.dva, ctx := p.ctx, sq := p.sq, tag := p.tag, cause := 0x07, write := p.write, source := p.source,
                         outcome := p.outcome, prg := prg, count := p.count }
  if (b.view slice).fqEn then putFault slice (faultBytes p.time f) p.ctx b else pageErr pgXLT 0x06 b

/-- Send the page requests of a group; the last has the Last bit. -/
def askPages (fn pasid prg : Nat) : List FaultPage → Blk → Blk
  | [], b => b
  | p :: rest, b => askPages fn pasid prg rest (b.emit (.pageRequest fn pasid p.page prg rest.isEmpty))

/-- The fault queue has no room: streams stall, with the overflow bit and event (R232). -/
def fqOverflow (slice : Nat) (b : Blk) : Blk :=
  fireBanked slice 2 noOne 0 none (b.updView slice fun v => { v with fqOverflow := true })

/-- Close an open batch: its records, then its requests under one PRG index (R229). -/
def closeBatch (t : Batch) (b : Blk) : Blk :=
  let prg := b.xlt.prgNext
  let b := b.xltU fun x => { x with
    prgNext := (prg + 1) % 512
    batches := x.batches.map fun y => if y = t then { y with prg := some prg } else y }
  let b := (batchRecords t).foldl (fun b p => pageRecord prg t.slice p b) b
  askPages t.fn t.pasid prg t.pages b

/-- FAULT_BATCH_CLOSE. -/
def execFaultBatchClose (slice : Nat) (s : State) : Host.Outcome State Fault Refusal :=
  actUnit pgXLT (fun b =>
    match b.xlt.batches.find? fun t => t.slice == slice && t.prg.isNone && (decide (64 ≤ t.pages.length) || decide (t.openFt + 1000 ≤ b.ft)) with
    | none => b
    | some t =>
      if b.xlt.priAlloc < pagesAsked b t.fn + t.pages.length then b
      else if (b.view slice).fqEn ∧ fqSlots (b.view slice) < (batchRecords t).length then fqOverflow slice b
      else closeBatch t b) s

/-- A stream of a group that failed: a completion write waits for its next request, every other stream ends with PRI_FAILED (R227,
R230). -/
def groupFailed (p : FaultPage) (s : Stream) (b : Blk) : Blk :=
  match s with
  | .completion i => b.updItem i fun it => { it with stall := none }
  | _ => failStream p.dva 0x0A p.write s b

/-- A stream of a group that succeeded waits for its page to be translated again. -/
def groupServed (slice : Nat) (p : FaultPage) (s : Stream) (b : Blk) : Blk :=
  let on : Option StallOn := some (.ats p.page)
  let b := match s with
    | .work w => (match (b.tre.works.get? w).bind workItem with
      | some i => (b.updWork w fun x => { x with stall := on }).updItem i fun it => { it with stall := on }
      | none => b.updWork w fun x => { x with stall := on })
    | .item i => b.updItem i fun it => { it with stall := on }
    | .completion i => b.updItem i fun it => { it with stall := on }
    | .coll c => b.updColl c fun x => { x with stall := on }
    | _ => b
  requestAts slice p.dva p.write s b

/-- PRG_RESPONSE: 0 success, 1 invalid request, 15 response failure (R230). -/
def execPrgResponse (fn prg code : Nat) (s : State) : Host.Outcome State Fault Refusal :=
  actUnit pgXLT (fun b =>
    match b.xlt.batches.find? fun t => t.fn == fn && t.prg == some prg with
    | none => b
    | some t =>
      let b := b.xltU fun x => { x with
        batches := x.batches.filter fun y => y != t
        priStopped := if code = 15 ∧ !x.priStopped.contains fn then x.priStopped ++ [fn] else x.priStopped }
      settle (t.pages.foldl (fun b p => p.streams.foldl (fun b s =>
        if code = 0 then groupServed t.slice p s b else groupFailed p s b) b) b)) s

/-! ## The fault queue (R228, R232, R233, R243) -/

/-- What waited for a record's slot goes on: the item's end, or the end of a queue command. -/
def recordWritten (w : WaitRecord) (b : Blk) : Blk :=
  match w.item, w.result with
  | some i, some r => endItem i r (b.updItem i fun it => { it with stall := none })
  | none, some r => qDone w.slice r.status b
  | _, none => b

/-- Write the records that wait while there is room. -/
def putWaiting (slice : Nat) : Nat → Blk → Blk
  | 0, b => b
  | fuel + 1, b =>
    match b.xlt.recordWaits.find? fun w => w.slice == slice with
    | none => b
    | some w =>
      if (b.view slice).fqRoom then
        let b := b.xltU fun x => { x with recordWaits := x.recordWaits.erase w }
        putWaiting slice fuel (recordWritten w (putFault slice w.bytes (field w.bytes 0x10 2) b))
      else b

/-- FQ_HEAD_WRITE. -/
def execFqHeadWrite (who : Who) (page : Nat) (w : W32) (s : State) : Host.Outcome State Fault Refusal :=
  act (fun b => onView who page pgXLT b fun sl b =>
    let v := b.view sl
    let h := bits w.toNat 0 12
    if (v.fqTail + 4096 - v.fqHead) % 4096 < (h + 4096 - v.fqHead) % 4096 then errFrom who sl pgXLT 0x05 b
    else settle (putWaiting sl (b.xlt.recordWaits.length) (b.updView sl fun v => { v with fqHead := h }))) s

/-- The 128 KiB fault queue lies in the host window or in one range of the slice. -/
def fqPlaced (b : Blk) (slice base : Nat) : Bool :=
  (decide (2 ^ 56 ≤ base) && decide (base + 131072 ≤ 2 ^ 57)) ||
  (match findRange b slice base with
   | some (_, r) => decide (base + 131072 ≤ r.start + r.len)
   | none => false)

/-- With the queue out of service nothing stalls: records that waited are counted (R233). -/
def dropWaitingRecords (slice : Nat) (b : Blk) : Blk :=
  let mine := b.xlt.recordWaits.filter fun w => w.slice == slice
  let b := b.xltU fun x => { x with recordWaits := x.recordWaits.filter fun w => w.slice != slice }
  mine.foldl (fun b w => recordWritten w (pageErr pgXLT 0x06 b)) b

/-- FQ_EN_WRITE: FQ_EN, and the clear of FQ_OVERFLOW. -/
def execFqEnWrite (who : Who) (page : Nat) (w : W32) (s : State) : Host.Outcome State Fault Refusal :=
  act (fun b => onView who page pgXLT b fun sl b =>
    let v := b.view sl
    let b := if bit w.toNat 1 then b.updView sl fun v => { v with fqOverflow := false } else b
    if bit w.toNat 0 = false then settle (dropWaitingRecords sl (b.updView sl fun v => { v with fqEn := false }))
    else if v.fqEn then b
    else if fqPlaced b sl v.fqBase then b.updView sl fun v => { v with fqEn := true, fqHead := 0, fqTail := 0, fqPhase := true }
    else errFrom who sl pgXLT 0x05 b) s

/-! ## Access counters (R238, R239) -/

/-- HOT_NOTICE: the record of a counter that has reached the threshold. SOURCE is XLT and no item is named. -/
def execHotNotice (slice granule : Nat) (s : State) : Host.Outcome State Fault Refusal :=
  actUnit pgXLT (fun b =>
    let v := b.view slice
    match b.xlt.acc.find? fun a => a.slice == slice && a.granule == granule with
    | none => b
    | some a =>
      if v.hotThresh = 0 ∨ a.value < v.hotThresh ∨ a.noticed ∨ (v.fqEn ∧ !v.fqRoom) then b
      else
        let f : FaultInfo := { dva := 2 ^ 56 + granule * 65536, ctx := noOne, sq := 0, tag := 0, cause := 0x10, write := false
                               source := 0x23, outcome := 3, count := a.value }
        let b := if v.fqEn then putFault slice (faultBytes b.ft f) noOne b else pageErr pgXLT 0x06 b
        b.xltU fun x => { x with acc := x.acc.map fun y =>
          if y.slice = slice ∧ y.granule = granule then { y with noticed := true } else y }) s

/-- ACC_CLEAR. -/
def execAccClear (who : Who) (page : Nat) (w : W32) (s : State) : Host.Outcome State Fault Refusal :=
  act (fun b => onView who page pgXLT b fun sl b =>
    if bit w.toNat 0 then b.xltU fun x => { x with acc := x.acc.filter fun a => a.slice != sl } else b) s

/-! ## Dirty logging (R234 to R237) -/

/-- Set the bit of a granule in its slice's bitmap. A bit that is set already needs no write. -/
def setDirtyBit (slice g : Nat) (b : Blk) : Blk :=
  match b.xlt.dirty.get? slice with
  | none => b
  | some d =>
    let page := g % 2 ^ 30
    let k := paKey (if g / 2 ^ 30 = 0 then d.hbmMap else d.spMap) + page / 8
    let b := b.xltU fun x => { x with dirty := x.dirty.upd slice fun d => { d with pendingBits := d.pendingBits.filter (· ≠ g) } }
    if (memGet b.mem k).getLsbD (page % 8) then b else storeLocal k [memGet b.mem k ||| BitVec.ofNat 8 (2 ^ (page % 8))] b

/-- What waits for a slot of a slice's dirty ring tries again. -/
def resumeRing (slice : Nat) (b : Blk) : Blk :=
  let its := b.items.filter fun e => e.2.slice == slice && e.2.stall == some .dirtyRing
  let ws := b.tre.works.filter fun e => e.2.slice == slice && e.2.stall == some .dirtyRing
  let cs := b.tre.colls.filter fun e => e.2.slice == slice && e.2.stall == some .dirtyRing
  let kept := b.xlt.atsWaits.filter fun w => w.slice == slice && (match w.stream with
    | .write s d _ => (match planSpan b s d 1 true with
      | .error (.ring _) => true
      | _ => false)
    | _ => false)
  let b := ws.foldl (fun b e => resumeStream (.work e.1) b) b
  let b := cs.foldl (fun b e => resumeStream (.coll e.1) b) b
  let b := its.foldl (fun b e => if e.2.result.isSome then b.updItem e.1 fun it => { it with stall := none } else wakeItem e.1 b) b
  let b := b.xltU fun x => { x with atsWaits := x.atsWaits.filter fun w => !kept.contains w }
  kept.foldl (fun b w => resumeStream w.stream b) b

/-- DIRTY_STOP completes once every bit is set and TAIL is written (R237). What waited for a slot of the ring goes on. -/
def finishDirty (slice : Nat) (b : Blk) : Blk :=
  match b.xlt.dirty.get? slice with
  | none => b
  | some d =>
    if d.stopping ∧ d.pendingBits.isEmpty then
      resumeRing slice ((storeLocal (paKey d.ring + 8) (leBytes 8 d.tail) b).xltU fun x => { x with
        dirty := x.dirty.del slice
        xbusy := false
        xresult := 0
        xresultId := 0 })
    else b

/-- DIRTY_RECORD: a granule's bit is set, or a host page's record is written; a full ring is reported (R234 to R236). -/
def execDirtyRecord (slice addr : Nat) (host : Bool) (s : State) : Host.Outcome State Fault Refusal :=
  actUnit pgXLT (fun b =>
    match b.xlt.dirty.get? slice with
    | none => b
    | some d =>
      if host then
        match hostEntry b slice addr with
        | none => b
        | some e =>
          if e.logged then b
          else if ringRoom d then logHostPage slice addr b
          else fire 66 noOne (BitVec.ofNat 32 slice) b
      else if d.pendingBits.contains addr then finishDirty slice (setDirtyBit slice addr b)
      else b) s

/-- DIRTY_RING_HEAD_ADVANCE: the manager has written HEAD of the ring (R236). A HEAD beyond what is written is not taken. -/
def execDirtyRingHeadAdvance (slice head : Nat) (s : State) : Host.Outcome State Fault Refusal :=
  actUnit pgXLT (fun b =>
    match b.xlt.dirty.get? slice with
    | none => b
    | some d =>
      let n := 2 ^ d.ringLog2
      if n ≤ head ∨ (d.tail + n - d.head) % n < (head + n - d.head) % n then b
      else settle (resumeRing slice (b.xltU fun x => { x with dirty := x.dirty.upd slice fun d => { d with head := head } }))) s

/-! ## Commands (R241, R242, Tables 06.10, 06.11) -/

/-- An XLT command ends. -/
def xDone (code id : Nat) (b : Blk) : Blk := b.xltU fun x => { x with xbusy := false, xresult := code, xresultId := id }

/-- An ACTIVE slice. -/
def sliceActive (b : Blk) (s : Nat) : Bool := (b.slices.get? s).any fun e => !e.draining

/-- Every granule of a local span is owned by slice 0. -/
def managerOwns (b : Blk) (pa len : Nat) : Bool :=
  isLocal b pa && paSpace pa == 0 && paInside pa len && (granulesOf (paKey pa) len).all fun g => b.own.owner.get? g == some 0

/-- The fields of a descriptor that a command uses are in range and the others zero. -/
def xFieldsOk (b : Blk) (op : Nat) (d : Bytes) : Bool :=
  let dva := field d 8 8
  let pa := field d 0x10 8
  let len := field d 0x18 8
  zeroSpan d 3 5 && zeroSpan d 0x39 7 && decide (field d 0 2 < 4096) && sliceActive b (field d 0 2) &&
  (if op = 0 then
     decide (field d 2 1 < 2) && dva % 65536 == 0 && pa % 65536 == 0 && decide (pa < 2 ^ 58) && decide (paSpace pa ≤ 1) &&
     len % 65536 == 0 && decide (65536 ≤ len) && decide (paOff pa + len ≤ 2 ^ 46) && zeroSpan d 0x20 25
   else field d 2 1 == 0 && (if op = 1 then zeroSpan d 0x10 41
     else zeroSpan d 8 24 && (if op = 2 then
       field d 0x20 8 % 4096 == 0 && managerOwns b (field d 0x20 8) 524288 &&
       field d 0x28 8 % 64 == 0 && managerOwns b (field d 0x28 8) 1536 &&
       field d 0x30 8 % 64 == 0 && decide (8 ≤ field d 0x38 1) && decide (field d 0x38 1 ≤ 20) &&
       managerOwns b (field d 0x30 8) (64 + 8 * 2 ^ field d 0x38 1)
     else zeroSpan d 0x20 25)))

/-- MAP_PEER (R212). -/
def mapPeer (s : Nat) (d : Bytes) (b : Blk) : Blk :=
  let dva := field d 8 8
  let pa := field d 0x10 8
  let len := field d 0x18 8
  let t := rangesOf b s
  if b.xlt.areaEn = false ∨ 1024 ≤ t.length then xDone 0x18 0 b
  else if paChip pa = b.chip ∨ (dva ≠ 0 ∧ (dva < 0x10000 ∨ overlapsRange b s dva len ∨ 2 ^ 56 < dva + len)) then xDone 0x17 0 b
  else match (if dva = 0 then placeRange b s len else some dva) with
    | none => xDone 0x17 0 b
    | some start =>
      let r : Range := { start := start, len := len, pa := pa, creator := 0xFFFF, readOnly := bit (field d 2 1) 0, peer := true }
      xDone 0 t.fresh (setRange s t.fresh (some r) b)

/-- UNMAP_PEER. -/
def unmapPeer (s : Nat) (d : Bytes) (b : Blk) : Blk :=
  match (rangesOf b s).find? fun r => r.2.start == field d 8 8 && r.2.peer && r.2.valid with
  | none => xDone 0x17 0 b
  | some (i, _) => startInval s [.range s i] false (.unmapPeer s i) b

/-- DIRTY_START (R234). -/
def dirtyStart (s : Nat) (d : Bytes) (b : Blk) : Blk :=
  if b.xlt.dirty.has s then xDone 0x17 0 b
  else
    let x : Dirty := { hbmMap := field d 0x20 8, spMap := field d 0x28 8, ring := field d 0x30 8, ringLog2 := field d 0x38 1 }
    xDone 0 0 (b.xltU fun t => { t with
      dirty := t.dirty.set s x
      hostCache := t.hostCache.map fun e => if e.slice = s then { e with logged := false } else e })

/-- DIRTY_STOP (R237). -/
def dirtyStop (s : Nat) (b : Blk) : Blk :=
  if b.xlt.dirty.has s then finishDirty s (b.xltU fun t => { t with dirty := t.dirty.upd s fun d => { d with stopping := true } })
  else xDone 0x17 0 b

/-- DIRTY_REARM (R237). -/
def dirtyRearm (s : Nat) (b : Blk) : Blk :=
  if b.xlt.dirty.has s then
    xDone 0 0 (b.xltU fun t => { t with hostCache := t.hostCache.map fun e => if e.slice = s then { e with logged := false } else e })
  else xDone 0x17 0 b

/-- INVAL_SLICE: every host translation and range-cache entry of a slice. -/
def invalSlice (s : Nat) (b : Blk) : Blk :=
  let pages := (b.xlt.hostCache.filter fun h => h.slice == s).map fun h => Target.page s h.hva
  let held := b.xlt.holds.filterMap fun h => match h.target with
    | .page x p => if x = s then some (Target.page x p) else none
    | _ => none
  let ranges := ((rangesOf b s).filter fun r => r.2.valid).map fun r => Target.range s r.1
  startInval s (ranges ++ (pages ++ held).dedup) true .invalSlice b

/-- Run the command that XOP names on its descriptor. -/
def xRun (op : Nat) (d : Bytes) (b : Blk) : Blk :=
  if !xFieldsOk b op d then xDone 0x17 0 b
  else
    let s := field d 0 2
    match op with
    | 0 => mapPeer s d b
    | 1 => unmapPeer s d b
    | 2 => dirtyStart s d b
    | 3 => dirtyStop s b
    | 4 => dirtyRearm s b
    | _ => invalSlice s b

/-- A write of XOP (R241): busy, an unknown operation, an unreadable descriptor, else the command. -/
def xcmd (who : Who) (w : W32) (ext : ExtRead) (b : Blk) : Blk :=
  onUnit who pgXLT b fun b =>
    let op := bits w.toNat 0 4
    if b.xlt.xbusy then pageErr pgXLT 0x04 b
    else if 6 ≤ op then xDone 0x17 0 b
    else
      let b := b.xltU fun x => { x with xbusy := true }
      match paRead b b.xlt.xcmd 64 ext with
      | .data d => settle (xRun op d b)
      | _ => xDone 0x16 0 b

/-- MAP_PEER. -/
def execMapPeer (who : Who) (w : W32) (ext : ExtRead) (s : State) : Host.Outcome State Fault Refusal :=
  act (fun b => xcmd who w ext b) s
/-- UNMAP_PEER. -/
def execUnmapPeer (who : Who) (w : W32) (ext : ExtRead) (s : State) : Host.Outcome State Fault Refusal :=
  act (fun b => xcmd who w ext b) s
/-- DIRTY_START. -/
def execDirtyStart (who : Who) (w : W32) (ext : ExtRead) (s : State) : Host.Outcome State Fault Refusal :=
  act (fun b => xcmd who w ext b) s
/-- DIRTY_STOP. -/
def execDirtyStop (who : Who) (w : W32) (ext : ExtRead) (s : State) : Host.Outcome State Fault Refusal :=
  act (fun b => xcmd who w ext b) s
/-- DIRTY_REARM. -/
def execDirtyRearm (who : Who) (w : W32) (ext : ExtRead) (s : State) : Host.Outcome State Fault Refusal :=
  act (fun b => xcmd who w ext b) s
/-- INVAL_SLICE. -/
def execInvalSlice (who : Who) (w : W32) (ext : ExtRead) (s : State) : Host.Outcome State Fault Refusal :=
  act (fun b => xcmd who w ext b) s

/-! ## The area registers (R240) -/

/-- A retained field is locked: its write is ignored and counted (R488). -/
def unlessLocked (pg : Nat) (b : Blk) (k : Blk → Blk) : Blk := if (b.hdr pg).locked then pageErr pg 0x03 b else k b

/-- XLT_AREA_WRITE: AREA_LO, AREA_HI and AREA_EN. -/
def execXltAreaWrite (who : Who) (off : Nat) (w : W32) (s : State) : Host.Outcome State Fault Refusal :=
  act (fun b => onUnit who pgXLT b fun b => unlessLocked pgXLT b fun b =>
    match off with
    | 0x40 => if b.xlt.areaEn then pageErr pgXLT 0x06 b
        else b.xltU fun x => { x with area := bits x.area 32 14 * 2 ^ 32 + bits w.toNat 21 11 * 2 ^ 21 }
    | 0x44 => if b.xlt.areaEn then pageErr pgXLT 0x06 b
        else b.xltU fun x => { x with area := bits x.area 0 32 + bits w.toNat 0 14 * 2 ^ 32 }
    | 0x48 =>
      if bit w.toNat 0 then b.xltU fun x => { x with areaEn := true }
      else if b.xlt.areaEn ∧ !b.slices.isEmpty then pageErr pgXLT 0x06 b
      else b.xltU fun x => { x with areaEn := false }
    | _ => b) s

end Sys2Proof.Machine
end

