-- ==== Sys2Proof/Machine/Contexts.lean ====
section
/-! DEFINITION. The manager commands of CTX, contexts through the view page, the CTX registers, and residency (R110 to R140). -/

namespace Sys2Proof.Machine

/-! ## The command descriptor (Table 03.3) -/

/-- A manager command ends: RESULT and RESULT_ID. -/
def cDone (code id : Nat) (b : Blk) : Blk := b.ctxU fun x => { x with busy := false, result := code, resultId := id }

/-- The TARGET of a creation is in range, or AUTO chooses the number. -/
def targetOk (d : Bytes) (n : Nat) : Bool := bit (field d 2 1) 0 || decide (field d 0 2 < n)

/-- The fields that every command shares are in range (R111): reserved fields zero, SLICE and SPACE only where used, a TARGET in the
range of its object. A creation checks its TARGET itself, once its table is known not to be full (R113). -/
def cFieldsOk (op : Nat) (d : Bytes) : Bool :=
  let target := field d 0 2
  decide (field d 2 1 < 2) && zeroSpan d 6 2 && zeroSpan d 0x14 12 &&
  (if op = 5 ∨ op = 6 then decide (field d 3 1 < 2) else field d 3 1 == 0) &&
  (if op = 5 ∨ op = 6 ∨ op = 7 then decide (field d 4 2 < 4096) else field d 4 2 == 0) &&
  (if op = 5 ∨ op = 6 then field d 8 8 % 65536 == 0 && decide (1 ≤ field d 0x10 4) else true) &&
  (match op with
   | 1 => decide (target < 64)
   | 3 | 4 => decide (target < 4096)
   | _ => true)

/-- The number that a creation takes. -/
def cNumber {α : Type} (t : Tab α) (d : Bytes) : Nat := if bit (field d 2 1) 0 then t.fresh else field d 0 2

/-! ## Partitions (R113 to R116, R140) -/

/-- HBM pages outside the carve-out and the XLT area. -/
def hbmTotal : Nat := 4194304 - 2 * 2176
/-- Scratchpad pages outside the model store and the LWA. -/
def spTotal (b : Blk) : Nat := 192 * (64 - (if b.mdl.storeEn then b.mdl.rows else 0) - 4 * b.sch.lwa)
/-- Blocks of the model store that is carved out. -/
def blockTotal (b : Blk) : Nat := if b.mdl.storeEn then b.mdl.storeBlocks else 0

/-- A share over all partitions. -/
def shareSum (b : Blk) (f : Partition → Nat) : Nat := b.partitions.foldl (fun n e => n + f e.2) 0

/-- CREATE_PARTITION. -/
def createPartition (d : Bytes) (b : Blk) : Blk :=
  let p : Partition := { mask := BitVec.ofNat 64 (field d 0x20 8), hbmShare := field d 0x28 4, spShare := field d 0x2C 2,
                         storeBlocks := field d 0x2E 2 }
  let n := cNumber b.partitions d
  if !zeroSpan d 0x30 16 ∨ 12288 < p.spShare ∨ 320 < p.storeBlocks ∨ (b.partitions.length < 64 ∧ targetOk d 64 = false) then cDone 0x17 0 b
  else if 64 ≤ b.partitions.length then cDone 0x18 0 b
  else if hbmTotal < shareSum b (·.hbmShare) + p.hbmShare ∨ spTotal b < shareSum b (·.spShare) + p.spShare ∨
    blockTotal b < shareSum b (·.storeBlocks) + p.storeBlocks then cDone 0x18 0 b
  else if b.partitions.has n ∨ b.partitions.any fun e => e.2.mask &&& p.mask != 0 then cDone 0x17 0 b
  else cDone 0 n (syncPartition n { b with partitions := b.partitions.set n p })

/-- DESTROY_PARTITION. -/
def destroyPartition (d : Bytes) (b : Blk) : Blk :=
  let n := field d 0 2
  if b.partitions.has n = false ∨ b.slices.any fun e => e.2.part == n then cDone 0x17 0 b
  else cDone 0 0 (syncPartition n { b with partitions := b.partitions.del n })

/-! ## Slices (R117 to R119, R139) -/

/-- The slice entry that an image gives. -/
def sliceOf (d : Bytes) : Slice :=
  { pasid := field d 0x20 4, fn := field d 0x24 2, localIdx := field d 0x26 1, part := field d 0x27 1, weight := field d 0x29 1,
    clsMax := field d 0x2A 1, maxQueues := field d 0x2C 2, inflight := field d 0x2E 2, maxContexts := field d 0x30 2,
    maxFences := field d 0x32 2, storeBlocks := field d 0x34 2 }

/-- The image of a slice is in range (Table 03.6). -/
def sliceImageOk (b : Blk) (d : Bytes) : Bool :=
  let s := sliceOf d
  decide (s.pasid < 2 ^ 20) && decide (s.fn < 512) && (s.fn != 0 || s.localIdx == 0) && b.partitions.has s.part &&
  field d 0x28 1 == 0 && decide (1 ≤ s.weight) && decide (s.clsMax < 8) && field d 0x2B 1 == 0 &&
  decide (1 ≤ s.maxQueues) && decide (s.maxQueues ≤ 512) && decide (1 ≤ s.inflight) && decide (s.inflight ≤ 32768) &&
  decide (1 ≤ s.maxContexts) && decide (s.storeBlocks ≤ ((b.partitions.get? s.part).map (·.storeBlocks)).getD 0) && zeroSpan d 0x36 10

/-- The identity of a new slice is valid and not in use (R118, R437). -/
def identityOk (b : Blk) (n : Nat) (s : Slice) : Bool :=
  (s.fn == 0 || b.hlu.vfEnable && decide (s.fn ≤ b.hlu.numVfs)) &&
  (b.slices.all fun e => !(e.2.fn == s.fn && e.2.pasid == s.pasid)) &&
  (s.fn == 0 || b.slices.all fun e => !(e.2.fn == s.fn && e.2.localIdx == s.localIdx)) &&
  (n != 0 || s.fn == 0) &&
  !(s.fn == 0 && b.sec.identOk && s.pasid == b.sec.securePasid)

/-- CREATE_SLICE. -/
def createSlice (d : Bytes) (b : Blk) : Blk :=
  let s := sliceOf d
  let n := cNumber b.slices d
  if !sliceImageOk b d ∨ (b.slices.length < 4096 ∧ targetOk d 4096 = false) then cDone 0x17 0 b
  else if 4096 ≤ b.slices.length then cDone 0x18 0 b
  else if s.fn ≠ 0 ∧ 256 ≤ b.slices.count fun _ e => e.fn == s.fn then cDone 0x18 0 b
  else if b.slices.has 0 = false ∧ n ≠ 0 then cDone 0x11 0 b
  else if b.slices.has n ∨ identityOk b n s = false then cDone 0x17 0 b
  else
    let b : Blk := { b with slices := b.slices.set n s, views := b.views.set n {} }
    cDone 0 n (syncPartition s.part (syncSlice n b))

/-- MODIFY_SLICE. -/
def modifySlice (d : Bytes) (b : Blk) : Blk :=
  let s := sliceOf d
  let n := field d 0 2
  if !sliceImageOk b d then cDone 0x17 0 b
  else match b.slices.get? n with
    | none => cDone 0x11 0 b
    | some e =>
      if e.draining then cDone 0x11 0 b
      else if e.fn ≠ s.fn ∨ e.pasid ≠ s.pasid ∨ e.localIdx ≠ s.localIdx ∨ e.part ≠ s.part then cDone 0x17 0 b
      else
        let b := b.updSlice n fun x => { x with
          weight := s.weight, clsMax := s.clsMax, maxQueues := s.maxQueues, inflight := s.inflight
          maxContexts := s.maxContexts, maxFences := s.maxFences, storeBlocks := s.storeBlocks }
        cDone 0 0 (syncSlice n b)

/-- DESTROY_SLICE: the slice drains; the command ends when its entry is FREE. -/
def destroySlice (d : Bytes) (b : Blk) : Blk :=
  let n := field d 0 2
  match b.slices.get? n with
  | none => cDone 0x17 0 b
  | some e =>
    if e.draining then cDone 0x17 0 b
    else if n = 0 ∧ b.slices.length ≠ 1 then cDone 0x11 0 b
    else
      let ft := b.ft
      syncSlice n (b.updSlice n fun x => { x with draining := true, drainPhase := 1, drainFt := ft })

/-! ## GRANT and RECLAIM (R120, R121, R457) -/

/-- The pages of a space that no GRANT may name, as runs: first page and pages. -/
def blockedRuns (b : Blk) (space : Nat) : List (Nat × Nat) :=
  let owned := (b.own.owner.filter fun e => e.1 / 2 ^ 30 == space).map fun e => (e.1 % 2 ^ 30, 1)
  owned ++
  (if space = 0 then
     (if b.ctx.tablesEn then [(b.ctx.base / 65536, 2176)] else []) ++ (if b.xlt.areaEn then [(b.xlt.area / 65536, 2176)] else [])
   else ((List.range 192).map fun k =>
     (if b.mdl.storeEn ∧ 0 < b.mdl.rows then [(64 * k, b.mdl.rows)] else []) ++ [(64 * k + 64 - 4 * b.sch.lwa, 4 * b.sch.lwa)]).flatten)

/-- Pages of a space. -/
def spacePages (space : Nat) : Nat := spaceSize space / 65536

/-- The longest run of pages that a GRANT may name. -/
def longestFree (b : Blk) (space : Nat) : Nat :=
  let go (s : Nat × Nat) (r : Nat × Nat) : Nat × Nat := (max s.1 (r.1 + r.2), max s.2 (r.1 - s.1))
  ((sortOn (fun r : Nat × Nat => r.1) (blockedRuns b space) ++ [(spacePages space, 0)]).foldl go (0, 0)).2

/-- The named pages may be granted. -/
def pagesFree (b : Blk) (space page n : Nat) : Bool :=
  decide (page + n ≤ spacePages space) &&
  (blockedRuns b space).all fun r => decide (page + n ≤ r.1) || decide (r.1 + r.2 ≤ page)

/-- One fill for each run of pages. -/
def fillRuns (owner : WorkOwner) (slice : Nat) (runs : List (Nat × Nat)) (b : Blk) : Blk :=
  runs.foldl (fun b r => addWork owner (.fill (granulePa b r.1) (r.2 * 65536)) slice noOne 6 none (r.2 * 65536) b) b

/-- GRANT. -/
def grantPages (d : Bytes) (b : Blk) : Blk :=
  let s := field d 4 2
  let space := field d 3 1
  let page := field d 8 8 / 65536
  let n := field d 0x10 4
  match b.partitions.get? (slicePart b s) with
  | none => cDone 0x17 0 b
  | some p =>
    if !sliceActive b s then cDone 0x17 0 b
    else if (if space = 0 then p.hbmShare < p.hbmGranted + n else p.spShare < p.spGranted + n) then cDone 0x18 0 b
    else if !pagesFree b space page n then cDone 0x17 (min 0xFFFF (longestFree b space)) b
    else
      let dirty := (pageSpan space page n).filter fun g => !b.own.scrubbed.has g
      fillRuns .grantFill 0 (runsOf dirty) (b.ownU fun o => { o with grant := some (s, space, page, n) })

/-- RECLAIM. -/
def reclaimPages (d : Bytes) (b : Blk) : Blk :=
  let s := field d 4 2
  let space := field d 3 1
  let page := field d 8 8 / 65536
  let n := field d 0x10 4
  if !sliceActive b s ∨ b.own.owner.length < n then cDone 0x17 0 b
  else if (pageSpan space page n).all fun g => b.own.owner.get? g == some s && !coveredBy b s g then
    fillRuns .reclaimFill s [(space * 2 ^ 30 + page, n)] (b.ownU fun o => { o with reclaim := some (s, space, page, n) })
  else cDone 0x17 0 b

/-! ## Contexts (R124 to R127, R132, R134) -/

/-- A save area: aligned, wholly in the host window or in one range of the slice, and large enough (R127, R261). -/
def saveAreaOk (b : Blk) (slice dva : Nat) : Bool :=
  let n := saveAreaBytes b (slicePart b slice)
  dva % 4096 == 0 &&
  (decide (2 ^ 56 ≤ dva) && decide (dva + n ≤ 2 ^ 57) ||
   (findRange b slice dva).any fun r => decide (dva + n ≤ r.2.start + r.2.len))

/-- What keeps a context of a slice from being created at all, whatever its number (R113). -/
def contextRefused (b : Blk) (slice : Nat) : Option Nat :=
  if 65536 ≤ b.contexts.length then some 0x18
  else match b.slices.get? slice with
    | none => some 0x11
    | some s =>
      if s.maxContexts ≤ b.contexts.count fun _ c => c.slice == slice then some 0x18
      else if s.draining then some 0x11 else none

/-- A new context: DEFINED, with an empty spill record. -/
def newContext (n slice save : Nat) (b : Blk) : Blk :=
  let c : Context := { slice := slice, state := .defined, saveArea := save, created := b.ft }
  syncContext n (putSpill n { b with contexts := b.contexts.set n c })

/-- CREATE_CONTEXT. -/
def createContext (d : Bytes) (b : Blk) : Blk :=
  let s := field d 4 2
  let n := cNumber b.contexts d
  match contextRefused b s with
  | some code => cDone code 0 b
  | none =>
    if b.contexts.has n ∨ saveAreaOk b s (field d 8 8) = false then cDone 0x17 0 b
    else cDone 0 n (newContext n s (field d 8 8) b)

/-- DESTROY_CONTEXT. -/
def destroyContext (d : Bytes) (b : Blk) : Blk :=
  let c := field d 0 2
  match b.contexts.get? c with
  | none => cDone 0x17 0 b
  | some e => if e.state = .destroying ∨ e.destroyNext.isSome then cDone 0x17 0 b else beginDestroy c .manager b

/-- Pinned contexts. -/
def pinnedCount (b : Blk) : Nat := b.contexts.count fun _ c => c.pinned

/-- PIN_CONTEXT. -/
def pinContext (d : Bytes) (b : Blk) : Blk :=
  let c := field d 0 2
  match b.contexts.get? c with
  | none => cDone 0x11 0 b
  | some e =>
    if e.state = .destroying then cDone 0x11 0 b
    else if e.pinned = false ∧ 2048 ≤ pinnedCount b then cDone 0x18 0 b
    else
      let b := b.updContext c fun x => { x with pinned := true }
      syncContext c (seekSlot c (b.ctxU fun x => { x with pinWait := some c }))

/-- UNPIN_CONTEXT. -/
def unpinContext (d : Bytes) (b : Blk) : Blk :=
  let c := field d 0 2
  match b.contexts.get? c with
  | none => cDone 0x11 0 b
  | some e => if e.state = .destroying then cDone 0x11 0 b else cDone 0 0 (syncContext c (b.updContext c fun x => { x with pinned := false }))

/-! ## Running a command (R110 to R112) -/

/-- Run the command that OP names on its descriptor. -/
def cRun (op : Nat) (d : Bytes) (b : Blk) : Blk :=
  if !cFieldsOk op d then cDone 0x17 0 b
  else match op with
    | 0 => createPartition d b
    | 1 => destroyPartition d b
    | 2 => createSlice d b
    | 3 => modifySlice d b
    | 4 => destroySlice d b
    | 5 => grantPages d b
    | 6 => reclaimPages d b
    | 7 => createContext d b
    | 8 => destroyContext d b
    | 9 => pinContext d b
    | _ => unpinContext d b

/-- A write of OP: busy, tables not in service, an unknown operation, an unreadable descriptor, else the command. -/
def ccmd (who : Who) (w : W32) (ext : ExtRead) (b : Blk) : Blk :=
  onUnit who pgCTX b fun b =>
    let op := bits w.toNat 0 4
    if b.ctx.busy then pageErr pgCTX 0x04 b
    else if b.ctx.tablesEn = false ∨ 11 ≤ op then cDone 0x17 0 b
    else
      let b := b.ctxU fun x => { x with busy := true }
      match paRead b b.ctx.cmd 64 ext with
      | .data d => settle (cRun op d b)
      | _ => cDone 0x16 0 b

/-- CREATE_PARTITION. -/
def execCreatePartition (who : Who) (w : W32) (ext : ExtRead) (s : State) : Host.Outcome State Fault Refusal :=
  act (fun b => ccmd who w ext b) s
/-- DESTROY_PARTITION. -/
def execDestroyPartition (who : Who) (w : W32) (ext : ExtRead) (s : State) : Host.Outcome State Fault Refusal :=
  act (fun b => ccmd who w ext b) s
/-- CREATE_SLICE. -/
def execCreateSlice (who : Who) (w : W32) (ext : ExtRead) (s : State) : Host.Outcome State Fault Refusal :=
  act (fun b => ccmd who w ext b) s
/-- MODIFY_SLICE. -/
def execModifySlice (who : Who) (w : W32) (ext : ExtRead) (s : State) : Host.Outcome State Fault Refusal :=
  act (fun b => ccmd who w ext b) s
/-- DESTROY_SLICE. -/
def execDestroySlice (who : Who) (w : W32) (ext : ExtRead) (s : State) : Host.Outcome State Fault Refusal :=
  act (fun b => ccmd who w ext b) s
/-- GRANT. -/
def execGrant (who : Who) (w : W32) (ext : ExtRead) (s : State) : Host.Outcome State Fault Refusal :=
  act (fun b => ccmd who w ext b) s
/-- RECLAIM. -/
def execReclaim (who : Who) (w : W32) (ext : ExtRead) (s : State) : Host.Outcome State Fault Refusal :=
  act (fun b => ccmd who w ext b) s
/-- CREATE_CONTEXT. -/
def execCreateContext (who : Who) (w : W32) (ext : ExtRead) (s : State) : Host.Outcome State Fault Refusal :=
  act (fun b => ccmd who w ext b) s
/-- DESTROY_CONTEXT. -/
def execDestroyContext (who : Who) (w : W32) (ext : ExtRead) (s : State) : Host.Outcome State Fault Refusal :=
  act (fun b => ccmd who w ext b) s
/-- PIN_CONTEXT. -/
def execPinContext (who : Who) (w : W32) (ext : ExtRead) (s : State) : Host.Outcome State Fault Refusal :=
  act (fun b => ccmd who w ext b) s
/-- UNPIN_CONTEXT. -/
def execUnpinContext (who : Who) (w : W32) (ext : ExtRead) (s : State) : Host.Outcome State Fault Refusal :=
  act (fun b => ccmd who w ext b) s

/-! ## Contexts through the view page (R126) -/

/-- VOP ends. -/
def vDone (slice code out : Nat) (b : Blk) : Blk := b.updView slice fun v => { v with vBusy := false, vResult := code, vCtxOut := out }

/-- A create through the view page takes the lowest free number. -/
def viewCreate (slice : Nat) (b : Blk) : Blk :=
  match contextRefused b slice with
  | some code => vDone slice code 0 b
  | none =>
    let n := b.contexts.fresh
    let save := (b.view slice).save
    if saveAreaOk b slice save then vDone slice 0 n (newContext n slice save b) else vDone slice 0x17 0 b

/-- A destroy through the view page, of the slice's own contexts only. -/
def viewDestroy (slice c : Nat) (b : Blk) : Blk :=
  match b.contexts.get? c with
  | none => vDone slice 0x11 0 b
  | some e =>
    if e.slice ≠ slice then vDone slice 0x11 0 b
    else if e.state = .destroying ∨ e.destroyNext.isSome then vDone slice 0x17 0 b
    else beginDestroy c .view (b.updView slice fun v => { v with vBusy := true })

/-- A write of VOP. -/
def vcmd (who : Who) (page : Nat) (w : W32) (b : Blk) : Blk :=
  onView who page pgCTX b fun slice b =>
    if (b.view slice).vBusy then errFrom who slice pgCTX 0x04 b
    else settle (if bit w.toNat 0 then viewDestroy slice (bits w.toNat 16 16) b else viewCreate slice b)

/-- VIEW_CONTEXT_CREATE. -/
def execViewContextCreate (who : Who) (page : Nat) (w : W32) (s : State) : Host.Outcome State Fault Refusal :=
  act (fun b => vcmd who page w b) s
/-- VIEW_CONTEXT_DESTROY. -/
def execViewContextDestroy (who : Who) (page : Nat) (w : W32) (s : State) : Host.Outcome State Fault Refusal :=
  act (fun b => vcmd who page w b) s

/-! ## Registers (R110, R136) -/

/-- CTX_TABLES_WRITE: BASE_LO, BASE_HI and TABLES_EN. -/
def execCtxTablesWrite (who : Who) (off : Nat) (w : W32) (s : State) : Host.Outcome State Fault Refusal :=
  act (fun b => onUnit who pgCTX b fun b => unlessLocked pgCTX b fun b =>
    match off with
    | 0x40 => if b.ctx.tablesEn then pageErr pgCTX 0x06 b
        else b.ctxU fun x => { x with base := bits x.base 32 14 * 2 ^ 32 + bits w.toNat 21 11 * 2 ^ 21 }
    | 0x44 => if b.ctx.tablesEn then pageErr pgCTX 0x06 b
        else b.ctxU fun x => { x with base := bits x.base 0 32 + bits w.toNat 0 14 * 2 ^ 32 }
    | 0x48 =>
      if bit w.toNat 0 then
        (if 6 ≤ b.ctx.tdLog2 ∧ b.ctx.tdLog2 ≤ 16 then b.ctxU fun x => { x with tablesEn := true } else pageErr pgCTX 0x06 b)
      else if b.ctx.tablesEn ∧ !b.slices.isEmpty then pageErr pgCTX 0x06 b
      else b.ctxU fun x => { x with tablesEn := false, spilled := [] }
    | _ => b) s

/-- TD_HEAD_WRITE (R136): teardown that waited goes on. -/
def execTdHeadWrite (who : Who) (w : W32) (s : State) : Host.Outcome State Fault Refusal :=
  act (fun b => onUnit who pgCTX b fun b =>
    let h := bits w.toNat 0 16
    let n := 2 ^ b.ctx.tdLog2
    if n ≤ h ∨ (b.ctx.tdTail + n - b.ctx.tdHead % n) % n < (h + n - b.ctx.tdHead % n) % n then pageErr pgCTX 0x05 b
    else
      let b := b.ctxU fun x => { x with tdHead := h }
      settle (b.items.foldl (fun b e => if e.2.complWait ∧ ctxDestroying b e.2.ctx ∧ e.2.stall.isNone then completeItem e.1 b else b) b)) s

/-! ## Residency (R125, R129 to R131) -/

/-- The pair of a newcomer is over; the head of the restore queue starts (R131). -/
def endPair (c : Nat) (b : Blk) : Blk :=
  let b := b.ctxU fun x => { x with pairs := x.pairs.filter fun p => p.1 != c }
  match b.ctx.restoreQueue with
  | d :: rest => seekSlot d (b.ctxU fun x => { x with restoreQueue := rest })
  | [] => b

/-- A context that is DEFINED again and is wanted joins the admission queue (R131, R132). -/
def rejoin (c : Nat) (b : Blk) : Blk :=
  match b.contexts.get? c with
  | some e =>
    if e.state = .defined ∧ (runnable b c ∨ b.ctx.pinWait = some c) ∧ waitsResidency b c = false then
      syncContext c ((b.updContext c fun x => { x with admitting := true }).ctxU fun x => { x with admitQ := x.admitQ ++ [c] })
    else b
  | none => b

/-- SPILL_DONE: the victim is DEFINED, and its slot goes to the newcomer of its pair. -/
def execSpillDone (ctx : Nat) (s : State) : Host.Outcome State Fault Refusal :=
  actUnit pgCTX (fun b =>
    match b.contexts.get? ctx with
    | none => b
    | some e =>
      if e.state ≠ .spilling then b
      else
        let b := putSpill ctx (b.updContext ctx fun x => { x with state := .defined, slot := none })
        let b := match b.ctx.pairs.find? fun p => p.2 == ctx + 1, e.slot with
          | some (c, _), some slot => startRestore c slot b
          | _, _ => endPair ctx b
        settle (rejoin ctx (syncContext ctx (transitionEnded ctx b)))) s

/-- RESTORE_DONE: the context is RESIDENT. -/
def execRestoreDone (ctx : Nat) (s : State) : Host.Outcome State Fault Refusal :=
  actUnit pgCTX (fun b =>
    match b.contexts.get? ctx with
    | none => b
    | some e =>
      if e.state ≠ .restoring then b
      else
        let b := b.updContext ctx fun x => { x with state := .resident }
        settle (syncContext ctx (transitionEnded ctx (endPair ctx b)))) s

/-- ADMISSION_SERVE: the head of the admission queue takes a free slot or a victim's, within the four pairs. -/
def execAdmissionServe (s : State) : Host.Outcome State Fault Refusal :=
  actUnit pgCTX (fun b =>
    match b.ctx.admitQ with
    | [] => b
    | c :: rest =>
      if (freeSlot b).isNone ∧ (victim b).isNone then b
      else
        let b := b.ctxU fun x => { x with admitQ := rest }
        let b := b.updContext c fun x => { x with admitting := false }
        settle (syncContext c (seekSlot c b))) s

end Sys2Proof.Machine
end

