-- ==== Sys2Proof/Machine/Marionettes.lean ====
section
/-! DEFINITION. Runs on Marionettes: assignment, plans, steps and their operations, commit, rollback, and the end of a run (R270 to
R291). -/

namespace Sys2Proof.Machine

/-! ## Reads that a Marionette makes for a run -/

/-- A fault of a run's own access ends the run with its status (R290), with a record whose source is MAR. -/
def marFault (id dva cause : Nat) (b : Blk) : Blk :=
  match b.mar.runs.get? id with
  | none => b
  | some r =>
    let it := b.items.get? r.item
    let f : FaultInfo := { dva := dva, ctx := r.ctx, sq := (it.map (·.sq)).getD 0, tag := (it.map Item.tag).getD 0, cause := cause,
                           write := false, source := 0x21, outcome := 0 }
    failRun id ⟨causeStatus cause, 0, 0⟩ (recordFault r.slice f none none b).1

/-- Go on with a read of a run, or wait, or end the run. -/
def withMar (id : Nat) (r : RRes) (b : Blk) (k : Bytes → Blk → Blk) : Blk :=
  match b.mar.runs.get? id with
  | none => b
  | some run =>
    match r with
    | .data bs b => k bs b
    | .wait b => b
    | .refused d => marFault id d 0x06 b
    | .poisoned _ => failRun id ⟨0x16, 0, 0⟩ b
    | .stop (.miss dva page) => stallItem run.item (.ats page) (requestAts run.slice dva false (.item run.item) b)
    | .stop (.ring _) => b
    | .stop (.lost _ stuck) => if stuck then failRun id ⟨0x16, 0, 0⟩ b else stallItem run.item .miss b
    | .stop (.cause dva c) =>
      if c = 0x07 ∧ priOn b (sliceFn b run.slice) then
        let page := dva % 2 ^ 56 / 4096
        let it := b.items.get? run.item
        stallItem run.item (.group page)
          (joinBatch run.slice dva false run.ctx ((it.map (·.sq)).getD 0) ((it.map Item.tag).getD 0) 0x21 1 (.item run.item) b)
      else marFault id dva c (if c = 0x05 then pageErr pgXLT 0x0B b else b)

/-- Read bytes at a DVA for a run. -/
def marRead (b : Blk) (r : Run) (dva len : Nat) : RRes :=
  match b.items.get? r.item with
  | some it => itemRead r.item it dva len b
  | none => .wait b

/-- The run's item neither stalls nor awaits a read. -/
def runIdle (b : Blk) (r : Run) : Bool :=
  !readPending b r.item && (b.items.get? r.item).any fun it => it.stall.isNone && it.result.isNone

/-- Returned data that a run used is dropped. -/
def clearRead (r : Run) (b : Blk) : Blk := b.updItem r.item fun it => { it with rbuf := [] }

/-! ## Assignment (R270 to R273, R297, R320) -/

/-- The lowest in-service Marionette that hosts no run. -/
def freeMarionette (b : Blk) : Option Nat :=
  (List.range 16).find? fun m => b.mar.up.getLsbD m && b.mar.runs.all fun e => e.2.mar != some m

/-- The lowest free run slot. -/
def freeRunSlot (b : Blk) : Option Nat := (List.range 16).find? fun s => b.mar.runs.all fun e => e.2.slot != some s

/-- A live run other than `id` that holds a Marionette names one of the groups (R320). -/
def groupTaken (b : Blk) (id : Nat) (p : List Bytes) : Bool :=
  b.mar.runs.any fun e => e.1 != id && e.2.phase != .waiting && (programGroups e.2.program).any fun g => (programGroups p).contains g

/-- The run that an assignment concerns: one whose program is being read, else the longest-waiting one that no live run of a group
of its program holds up. -/
def assignNext (b : Blk) : Option (Nat × Run) :=
  match b.mar.runs.find? fun e => e.2.phase == .waiting && e.2.mar.isSome && runIdle b e.2 with
  | some e => some e
  | none => (sortOn (fun e : Nat × Run => e.2.order) (b.mar.runs.filter fun e =>
      e.2.phase == .waiting && e.2.mar.isNone && runIdle b e.2 && !groupTaken b e.1 e.2.program)).head?

/-- What a program names that is missing or not the slice's: a group or a model slice (R273). -/
def programFault (b : Blk) (r : Run) (p : List Bytes) : Option Result :=
  if (programGroups p).any fun g => (b.tre.groups.get? g).all fun x => x.slice != r.slice then some (fieldResult 0x11 0x10)
  else if (programModels p).any fun m => (modelOf b r.slice m).isNone then some (fieldResult 0x11 0x10)
  else none

/-- The first invalid operation of a program, with what depends on the run: JOURNAL in one HBM range, LEAD below the group's size,
the root of a broadcast below the size (R273, Table 02.12). -/
def programInvalid (b : Blk) (r : Run) (p : List Bytes) : Option Nat :=
  let h := p.getD 0 []
  let hg := field h 4 2
  let size (g : Nat) : Nat := ((b.tre.groups.get? g).map (·.size)).getD 65536
  let badRoot (o : Bytes) : Bool := opCode o == 3 && field o 0x18 1 == 3 &&
    decide (size (if field o 0x1E 2 = 0xFFFF then hg else field o 0x1E 2) ≤ field o 0x1C 2)
  let bad0 := !inOneRange b r.slice (field h 8 8) 65536 0 || (hg != 0xFFFF && decide (size hg ≤ field h 6 2))
  match firstInvalid p with
  | some 0 => some 0
  | first =>
    if bad0 then some 0
    else match first, (List.range p.length).find? fun i => badRoot (p.getD i []) with
      | some i, some j => some (min i j)
      | some i, none => some i
      | none, j => j

/-- The model slices of a run's program: marked in use, and loaded where they are not resident (R295, R297). -/
def takeModels (id : Nat) (r : Run) (p : List Bytes) (b : Blk) : Blk :=
  (programModels p).foldl (fun b m => match modelOf b r.slice m with
    | some (k, x) =>
      let b := (touchModel k b).updModel k fun y => { y with runs := if y.runs.contains id then y.runs else y.runs ++ [id] }
      if x.state = .registered then
        (if !b.mdl.waiting.contains k ∧ overShare b k x then b.updRun id fun r => { r with opFail := r.opFail.set 0 ⟨0x18, 0, 0⟩ }
         else requestLoad k r.cls none b)
      else b
    | none => b) b

/-- The run has its Marionette: header fields, models, READY (R271, R275, R287). -/
def startRun (id m slot : Nat) (r : Run) (p : List Bytes) (b : Blk) : Blk :=
  let h := p.getD 0 []
  let g := field h 4 2
  let r' : Run := { r with
    mar := some m
    slot := some slot
    program := p
    group := if g = 0xFFFF then none else some g
    lead := field h 6 2
    journal := field h 8 8
    retries := if field h 0x10 1 = 0 then 3 else field h 0x10 1
    ready := if g = 0xFFFF then [] else (b.mar.readyHeld.filter fun x => x.1 == g).map (·.2)
    phase := .loading }
  let b := b.updRun id fun _ => r'
  let b := b.marU fun x => { x with readyHeld := if isLead b r' then x.readyHeld.filter fun y => some y.1 != r'.group else x.readyHeld }
  let b := b.fenU fun x => { x with commits := x.commits.del slot }
  let b := if isLead b r' then b
    else sendReq 0x06 (leadChip b r') (leBytes 2 g ++ List.replicate 14 0) [] .own (txnNs b) b
  runReady id (takeModels id r' p b)

/-- Read and check the program of a run that has been given a Marionette. -/
def loadProgram (id m slot : Nat) (r : Run) (b : Blk) : Blk :=
  withMar id (marRead b r r.progDva (32 * r.opsCount)) b fun bs b =>
    let b := clearRead r b
    let p := opsOf r.opsCount bs
    match programInvalid b r p with
    | some i => endItem r.item (fieldResult 0x17 0x10) (b.marU fun x => { x with errOp := i })
    | none =>
      match programFault b r p with
      | some res => endItem r.item res b
      | none =>
        if groupTaken b id p then b.updRun id fun r => { r with program := p, mar := none, slot := none }
        else if (programModels p).any fun k => (modelOf b r.slice k).any fun x => x.2.invalidating then
          b.updRun id fun r => { r with program := p, mar := none, slot := none }
        else startRun id m slot r p b

/-- MARIONETTE_ASSIGN. -/
def execMarionetteAssign (s : State) : Host.Outcome State Fault Refusal :=
  actUnit pgMAR (fun b =>
    match assignNext b with
    | none => b
    | some (id, r) =>
      match r.mar, r.slot, freeMarionette b, freeRunSlot b with
      | some m, some slot, _, _ => settle (loadProgram id m slot r b)
      | _, _, some m, some slot => settle (loadProgram id m slot r (b.updRun id fun r => { r with mar := some m, slot := some slot }))
      | _, _, _, _ => b) s

/-! ## Group packets (R271, R272) -/

/-- The run on this chip that names a collective group in its header. -/
def groupRun (b : Blk) (g : Nat) : Option (Nat × Run) := b.mar.runs.find? fun e => e.2.group == some g

/-- READY at the lead; one that comes before the lead's own run is kept. -/
def applyReady (p : Pkt) (b : Blk) : Blk :=
  let g := field p.spec 0 2
  match groupRun b g with
  | some (id, r) =>
    if isLead b r then
      settle (runReady id (b.updRun id fun r => { r with ready := if r.ready.contains p.src then r.ready else r.ready ++ [p.src] }))
    else b
  | none => b.marU fun m => { m with readyHeld := if m.readyHeld.contains (g, p.src) then m.readyHeld else m.readyHeld ++ [(g, p.src)] }

/-- PLAN at a follower. -/
def applyPlanPkt (p : Pkt) (b : Blk) : Blk :=
  match groupRun b (field p.spec 0 2) with
  | some (id, r) =>
    if isLead b r then b
    else settle (applyPlan id (b.updRun id fun r => { r with heldPlans := r.heldPlans ++ [(b.ft, p)] }))
  | none => b

/-- LEAVE at the lead: at the next boundary, or at once while the sequence waits. -/
def applyLeave (p : Pkt) (b : Blk) : Blk :=
  let seqId := field p.spec 4 4
  match groupRun b (field p.spec 0 2) with
  | some (id, r) =>
    if isLead b r = false then b
    else if r.waiting.any fun w => w.seqId == seqId then settle (dropWaiting id seqId b)
    else b.updRun id fun r => { r with leaves := r.leaves ++ [(noItem, seqId)] }
  | none => b

/-- PLAN_TIMEOUT: the follower's run ends with FAIL_PEER_TIMEOUT, naming the lead's chip. -/
def execPlanTimeout (run : Nat) (s : State) : Host.Outcome State Fault Refusal :=
  actUnit pgMAR (fun b =>
    match b.mar.runs.get? run with
    | none => b
    | some r =>
      match r.planWaitFt with
      | none => b
      | some t =>
        if isLead b r = false ∧ (feedPlan r.heldPlans r).planDone = false ∧ t + r.timeout ≤ b.ft then
          settle (closeRun run 5 (fun _ => ⟨0x14, 6, leadChip b r⟩) b)
        else b) s

/-- ADMITTED_JOIN_TIMEOUT: the SEQ_JOIN that a plan admits has not come in time. -/
def execAdmittedJoinTimeout (run seq : Nat) (s : State) : Host.Outcome State Fault Refusal :=
  actUnit pgMAR (fun b =>
    match b.mar.runs.get? run with
    | none => b
    | some r0 =>
      let r := feedPlan r0.heldPlans r0
      if isLead b r = false ∧ r.planDone ∧ (r.plan.any fun c => c.seqId == seq && !c.depart) ∧
        (r.waiting.all fun w => w.seqId != seq) ∧ r.planRecv + r.timeout ≤ b.ft then
        settle (failRun run abortResult b)
      else b) s

/-! ## Steps (R275, R276, R282, R283) -/

/-- Operation indices of a program but the header. -/
def opIndices (r : Run) : List Nat := rangeFrom 1 (r.program.length - 1)

/-- Every operation of the step has completed. -/
def stepDone (r : Run) : Bool := (opIndices r).all fun k => r.doneOps.contains k

/-- A KCOLL of the step two before the one that starts is no longer kept (R332). -/
def dropOldColls (id : Nat) (r : Run) (b : Blk) : Blk :=
  if r.step < 2 then b
  else ((runColls b id).filter fun e => e.2.key / 1024 == (r.step - 2) % 2 ^ 22).foldl (fun b e => dropColl e.1 b) b

/-- A follower's wait for the next plan begins when its step's last operation completes (R271). -/
def notePlanWait (id : Nat) (b : Blk) : Blk :=
  match b.mar.runs.get? id with
  | none => b
  | some r => if stepDone r ∧ isLead b r = false then b.updRun id fun r => { r with planWaitFt := some b.ft } else b

/-- STEP_START: at START_FT the batch descriptor and the journal record are written. -/
def execStepStart (run : Nat) (s : State) : Host.Outcome State Fault Refusal :=
  actUnit pgMAR (fun b =>
    match b.mar.runs.get? run with
    | none => b
    | some r =>
      if r.phase ≠ .planned ∨ b.ft < r.startFt ∨ runIdle b r = false ∨ (r.steps ≠ 0 ∧ r.steps ≤ r.committed) then b
      else
        let b := dropOldColls run r b
        let r : Run := { r with phase := .running, startedOps := 1, doneOps := [], liveOps := [], staged := [], attempt := 0,
                                planWaitFt := none }
        let b := b.updRun run fun _ => r
        let b := runWrite r (batchDesc b r) (batchBytes b r) b
        let b := runWrite r (journalAt r + 0x2100) ((r.rows.map fun i => leBytes 2 i).flatten) (writeJournal r 0 b)
        settle (notePlanWait run b)) s

/-- Counts that PER_SEQ multiplies (Table 08.1). -/
def opCount (r : Run) (o : Bytes) : Nat := field o 4 4 * (if bit (opFlags o) 1 then r.rows.length else 1)

/-- VALUE + n × VALUE_STEP, saturating. -/
def opValue (r : Run) (o : Bytes) : BitVec 64 := BitVec.ofNat 64 (min (2 ^ 64 - 1) (field o 8 8 + r.step * field o 0x10 8))

/-- An operation has started. -/
def opStarted (id k : Nat) (b : Blk) : Blk :=
  b.updRun id fun r => { r with startedOps := k + 1, liveOps := r.liveOps ++ [k] }

/-- An operation that is complete as it starts. -/
def opSkipped (id k : Nat) (b : Blk) : Blk :=
  notePlanWait id (b.updRun id fun r => { r with startedOps := k + 1, doneOps := r.doneOps ++ [k] })

/-- KLAUNCH (R274). -/
def startKlaunch (id k : Nat) (r : Run) (o : Bytes) (b : Blk) : Blk :=
  let code := field o 8 8
  if (partCores b (slicePart b r.slice)).isEmpty then failRun id ⟨0x11, 0, 0⟩ b
  else if 2 ^ 56 ≤ code ∧ code < 2 ^ 57 then failRun id ⟨0x17, 0, 0⟩ b
  else match b.items.get? r.item with
    | none => b
    | some it =>
      withMar id (readDesc r.item it code b) b fun d b =>
        let b := clearRead r b
        let dyn := field d 0x2C 2 * 256
        match descFault b d dyn with
        | some _ => failRun id ⟨0x17, 0, 0⟩ b
        | none => opStarted id k (addLaunch (.op id k) r.slice r.ctx r.cls r.scope (stepDeadline r) (opCount r o) (field o 0x18 2)
            (field o 0x1A 2) (field o 0x1C 2) (field o 0x1E 2) d dyn (descPa b r.slice code) (field o 0x10 8) b)

/-- KCOPY: SRC and DST may not overlap (R307). -/
def startKcopy (id k : Nat) (r : Run) (o : Bytes) (b : Blk) : Blk :=
  let n := opCount r o
  let src := field o 8 8
  let dst := field o 0x10 8
  if n = 0 then opStarted id k b
  else if spansMeet (src, n) (dst, n) then failRun id ⟨0x17, 0, 0⟩ b
  else opStarted id k (addWork (.op id k) (.copy src dst n 1 0 0) r.slice r.ctx r.cls (stepDeadline r) n b)

/-- KVMOVE: the count of the list is read first (Table 08.5). -/
def startKvmove (id k : Nat) (r : Run) (o : Bytes) (b : Blk) : Blk :=
  let list := field o 0x18 8
  let n := field o 4 4
  withMar id (marRead b r list 4) b fun bs b =>
    let b := clearRead r b
    let blocks := leNat bs
    if 65536 < blocks then failRun id ⟨0x17, 0, 0⟩ b
    else if blocks = 0 then opStarted id k b
    else opStarted id k (addWork (.op id k) (.kvmove (field o 8 8) (field o 0x10 8) n blocks list 0 true) r.slice r.ctx r.cls
      (stepDeadline r) (n * blocks) b)

/-- The collective of a KCOLL: its key is the operation index and the step (R275). -/
def opColl (id k : Nat) (r : Run) (o : Bytes) (gi : Nat) (g : Group) : Coll :=
  { owner := .op id k, group := gi, size := g.size, rank := g.rank, ring := g.ring, members := g.members, slice := r.slice
    ctx := r.ctx, cls := r.cls, deadline := stepDeadline r, scope := r.scope, key := k + r.step % 2 ^ 22 * 1024, kcoll := true
    kind := field o 0x18 1, op := field o 0x19 1, memFmt := field o 0x1A 1 % 16, wireFmt := field o 0x1A 1 / 16
    root := field o 0x1C 2, count := opCount r o, src := field o 8 8, dst := field o 0x10 8, timeout := r.timeout, engines := [] }

/-- KCOLL: it starts, or starts again after a rollback (R289, R333). -/
def startKcoll (id k : Nat) (r : Run) (o : Bytes) (b : Blk) : Blk :=
  let gi := if field o 0x1E 2 = 0xFFFF then field (r.program.getD 0 []) 4 2 else field o 0x1E 2
  match b.tre.groups.get? gi with
  | none => failRun id ⟨0x11, 0, 0⟩ b
  | some g =>
    let c := opColl id k r o gi g
    match (runColls b id).find? fun e => e.2.key == c.key && e.2.owner == .op id k with
    | some (old, _) => opStarted id k (replayColl old b)
    | none =>
      match collFault b c with
      | some _ => failRun id ⟨0x17, 0, 0⟩ b
      | none => startColl c (opStarted id k b)

/-- FWAIT slots that the Marionette of a run has armed. -/
def marArmed (b : Blk) (r : Run) : Nat :=
  (b.fen.marWaits.filter fun w => w.outcome.isNone && (b.mar.runs.get? w.run).any fun x => x.mar == r.mar).length

/-- FWAIT: at most four armed at a time (R161, R275). -/
def startFwait (id k : Nat) (r : Run) (o : Bytes) (b : Blk) : Blk :=
  let f := field o 4 2
  let v := opValue r o
  match b.fen.fences.get? f with
  | none => failRun id ⟨0x11, 0, 0⟩ b
  | some e =>
    let put (out : Option Nat) (b : Blk) : Blk :=
      opStarted id k (b.fenU fun x => { x with marWaits := x.marWaits ++ [{ run := id, op := k, fence := f, value := v, outcome := out }] })
    if e.owner ≠ r.slice then failRun id ⟨0x11, 0, 0⟩ b
    else if e.abandoning then put (some 0x15) b
    else if v ≤ e.value then put (some 0) b
    else if 4 ≤ marArmed b r then b
    else
      let it := b.items.get? r.item
      put none (traceRec 0x01 r.slice r.ctx v.toNat
        (f + ((it.map (·.sq)).getD 0) * 2 ^ 16 + 2 * 2 ^ 25 + ((it.map Item.tag).getD 0) * 2 ^ 32) false b)

/-- Launches of the run that are still being stopped: a rollback's discard stops. -/
def runStopping (b : Blk) (id : Nat) : Bool :=
  b.sch.launches.any fun e => e.2.stop.isSome && match e.2.owner with
    | .op r _ => r == id
    | .item _ => false

/-- The next operation of a run may start (R275). -/
def opReady (b : Blk) (id : Nat) (r : Run) (k : Nat) (o : Bytes) : Bool :=
  (opAfter o == 0 || r.doneOps.contains (opAfter o)) &&
  (!bit (opFlags o) 0 || (rangeFrom 1 (k - 1)).all fun j => r.doneOps.contains j) && !runStopping b id

/-- Start operation `k`. -/
def startOp (id k : Nat) (r : Run) (o : Bytes) (b : Blk) : Blk :=
  if bit (opFlags o) 2 ∧ isLead b r = false then opSkipped id k b
  else match opCode o with
    | 1 => startKlaunch id k r o b
    | 2 => startKcopy id k r o b
    | 3 => startKcoll id k r o b
    | 4 => startKvmove id k r o b
    | 5 => startFwait id k r o b
    | _ => opStarted id k b

/-- A Marionette holds the translations of its batch descriptor and journal (Table 06.4). -/
def holdMar (id : Nat) (r : Run) (b : Blk) : Blk :=
  let hold (dva : Nat) (b : Blk) : Blk := match planSpan b r.slice dva 1 false with
    | .ok segs => holdSegs (.mar id) r.slice segs b
    | .error _ => b
  hold (batchDesc b r) (hold r.journal b)

/-- OPERATION_START. -/
def execOperationStart (run : Nat) (s : State) : Host.Outcome State Fault Refusal :=
  actUnit pgMAR (fun b =>
    match b.mar.runs.get? run with
    | none => b
    | some r =>
      let k := r.startedOps
      match r.program[k]? with
      | none => b
      | some o =>
        if r.phase = .running ∧ 1 ≤ k ∧ runIdle b r ∧ r.opFail.isEmpty ∧ opReady b run r k o then settle (startOp run k r o (holdMar run r b))
        else b) s

/-- An operation's own writes have all been performed. -/
def opWritesOut (b : Blk) (id k : Nat) : Bool :=
  b.lmf.outstanding.any fun q => match q.why with
    | .workWrite w => (b.tre.works.get? w).any fun x => x.owner == .op id k
    | .collWrite c => (b.tre.colls.get? c).any fun x => x.owner == .op id k
    | _ => false

/-- Whether a started operation is over, and with what (R274, R275, R290): none while it still works. -/
def opOver (b : Blk) (id k : Nat) (r : Run) (o : Bytes) : Option Result :=
  match opCode o with
  | 1 => if (launchesOf b (.op id k)).isEmpty then some okResult else none
  | 2 | 4 =>
    let mine := b.tre.works.filter fun e => e.2.owner == .op id k
    if (mine.all fun e => decide (e.2.total ≤ e.2.next)) ∧ opWritesOut b id k = false then some okResult else none
  | 3 => if ((runColls b id).all fun e => e.2.owner != .op id k || e.2.key / 1024 != r.step % 2 ^ 22 || e.2.ended) ∧
      opWritesOut b id k = false then some okResult else none
  | 5 => match b.fen.marWaits.find? fun w => w.run == id && w.op == k with
    | some w => w.outcome.map fun st => if st = 0 then okResult else ⟨st, 5, fenceDetail b.chip w.fence⟩
    | none => none
  | _ => some okResult

/-- A completed operation: its DONE bit, its staged signal, what it used is free (R275, R285). -/
def completeOp (id k : Nat) (r : Run) (o : Bytes) (b : Blk) : Blk :=
  let b := (b.tre.works.filter fun e => e.2.owner == .op id k).foldl (fun b e => dropWork e.1 b) b
  let waits := b.fen.marWaits.filter fun w => w.run == id && w.op == k
  let b := b.fenU fun x => { x with marWaits := x.marWaits.filter fun w => !(w.run == id && w.op == k) }
  let b := waits.foldl (fun b w => finishAbandon w.fence b) b
  let sig : List Staged := if opCode o = 6 then [{ op := k, fence := field o 4 2, chip := field o 6 2, value := opValue r o }] else []
  let r' : Run := { r with
    doneOps := r.doneOps ++ [k]
    liveOps := r.liveOps.filter (· ≠ k)
    staged := r.staged ++ sig }
  let b := b.updRun id fun _ => r'
  let b := sig.foldl (fun b x => writeSignal r' r.staged.length x b) b
  notePlanWait id (releaseAffected (.mar id) (writeJournal r' 0 b))

/-- OPERATION_COMPLETE. -/
def execOperationComplete (run op : Nat) (s : State) : Host.Outcome State Fault Refusal :=
  actUnit pgMAR (fun b =>
    match b.mar.runs.get? run with
    | none => b
    | some r =>
      if r.phase = .running ∧ r.liveOps.contains op ∧ r.opFail.isEmpty then
        let o := r.program.getD op []
        match opOver b run op r o with
        | none => b
        | some res => settle (if res.status = 0 then completeOp run op r o b else failRun run res b)
      else b) s

/-! ## Commit, rollback, end -/

/-- STEP_COMMIT: every operation is complete and every read of an output ring's HEAD has returned. -/
def execStepCommit (run : Nat) (s : State) : Host.Outcome State Fault Refusal :=
  actUnit pgMAR (fun b =>
    match b.mar.runs.get? run with
    | none => b
    | some r =>
      if r.phase = .running ∧ stepDone r ∧ r.opFail.isEmpty ∧ (runSeqs b run).all fun e => !readPending b e.2.item then
        settle (commitStep run b)
      else b) s

/-- The cause of a replayable fault as a status (Table 08.15). -/
def stepFaultResult : StepFault → Result
  | .store => ⟨0x16, 0, 0⟩
  | .final st k d => ⟨st, k, d⟩
  | _ => ⟨0x12, 0, 0⟩

/-- Whether a cause can be replayed. -/
def stepFaultReplayable : StepFault → Bool
  | .final _ _ _ => false
  | _ => true

/-- A KCOLL with NOKEEP stands at or after operation `k` of the step (R332). -/
def nokeepAt (b : Blk) (id k : Nat) (r : Run) : Bool :=
  (runColls b id).any fun e => e.2.nokeep && e.2.key / 1024 == r.step % 2 ^ 22 && decide (k ≤ e.2.key % 1024)

/-- STEP_ROLLBACK: a replayable fault rolls the step back to the failed operation; any other ends the run. -/
def execStepRollback (run op : Nat) (fault : StepFault) (s : State) : Host.Outcome State Fault Refusal :=
  actUnit pgMAR (fun b =>
    match b.mar.runs.get? run with
    | none => b
    | some r =>
      if r.phase = .running ∧ 1 ≤ op ∧ op < r.startedOps then
        let res := stepFaultResult fault
        settle (if stepFaultReplayable fault ∧ nokeepAt b run op r = false then rollback run op res b else failRun run res b)
      else b) s

/-- MARIONETTE_FAILURE: its runs move (R270); one single fault absorbed (R428). -/
def execMarionetteFailure (mar : Nat) (s : State) : Host.Outcome State Fault Refusal :=
  actUnit pgMAR (fun b => if mar < 16 ∧ b.mar.up.getLsbD mar then settle (absorb (marDown mar b)) else b) s

/-- A run between steps is over: STEPS steps are committed, or it has been empty for IDLE_US (R92). -/
def runOver (b : Blk) (id : Nat) (r : Run) : Bool :=
  (r.steps != 0 && decide (r.steps ≤ r.committed) && r.phase != .running && r.phase != .committing) ||
  ((r.phase == .planned || r.phase == .awaitPlan || r.phase == .boundary) && runEmpty b id r &&
   r.emptyFt.any fun t => decide (t + r.idleNs ≤ b.ft))

/-- RUN_END. -/
def execRunEnd (run : Nat) (s : State) : Host.Outcome State Fault Refusal :=
  actUnit pgMAR (fun b =>
    match b.mar.runs.get? run with
    | none => b
    | some r => if runOver b run r then settle (closeRun run 4 (fun r => ⟨0, 1, r.committed⟩) b) else b) s

end Sys2Proof.Machine
end

