-- ==== Sys2Proof/Machine/ModelStore.lean ====
section
/-! DEFINITION. The model store's own events and registers (R292 to R302). -/

namespace Sys2Proof.Machine

/-- MODEL_BLOCK_LOADED: the blocks that a load has written whole are counted; with the last of them the model slice is RESIDENT
(R295, R296). -/
def execModelBlockLoaded (work : Nat) (s : State) : Host.Outcome State Fault Refusal :=
  actUnit pgMDL (fun b =>
    match b.tre.works.get? work with
    | none => b
    | some w => match w.owner with
      | .load m => (match b.mdl.models.get? m with
        | none => b
        | some x =>
          let whole := w.next / 2097152
          if x.state = .loading ∧ x.loaded < whole then
            let b := b.mdlU fun d => { d with
              loads := d.loads.add (whole - x.loaded)
              models := d.models.set m { x with loaded := whole } }
            if whole = x.need then settle (residentNow m (dropWork work b)) else b
          else b)
      | _ => b) s

/-- A failed bank takes its spare pages with it, and a spare page that fails is no longer one. -/
def loseSpares (test : Nat × Nat → Bool) (b : Blk) : Blk :=
  b.mdlU fun d => { d with spares := d.spares.filter fun p => !test p }

/-- MODEL_STORE_ERROR: the pieces that the error takes are retired and reloaded into spares; one single fault absorbed (R298,
R428). -/
def execModelStoreError (err : StoreError) (s : State) : Host.Outcome State Fault Refusal :=
  actUnit pgMDL (fun b =>
    if b.mdl.storeEn = false then b
    else
      let test : Nat × Nat → Bool := match err with
        | .piece bank row => fun p => p == (bank, row)
        | .bank bank => fun p => p.1 == bank
      let hit := piecesWhere b test
      settle (absorb (hit.foldl (fun b p => retirePiece p.1 p.2 b) (loseSpares test b)))) s

/-- The work that repairs a piece of a model slice, once it is written whole. -/
def repairedWork (b : Blk) (m piece : Nat) : Option Nat :=
  (b.tre.works.find? fun e => e.2.owner == .repair m piece && decide (e.2.total ≤ e.2.next)).map (·.1)

/-- MODEL_PIECE_RELOADED: accesses to the piece go on; with the last lost piece the model slice is RESIDENT again (R298). -/
def execModelPieceReloaded (model piece : Nat) (s : State) : Host.Outcome State Fault Refusal :=
  actUnit pgMDL (fun b =>
    match repairedWork b model piece, b.mdl.models.get? model with
    | some w, some x =>
      let lost := x.lost.filter (· ≠ piece)
      let b := (dropWork w b).updModel model fun x => { x with
        lost := lost
        state := if lost.isEmpty then .resident else x.state }
      settle (resumeLost b)
    | _, _ => b) s

/-! ## The registers (R302) -/

/-- A write of 1 to STORE_EN finds the store as R292 asks. -/
def storeFits (b : Blk) : Bool :=
  decide (b.mdl.rows * 64 + b.sch.lwa * 256 ≤ 4096) && decide (b.mdl.storeBlocks ≤ 6 * b.mdl.rows) &&
  decide (b.mdl.storeBlocks ≤ 320) && noScratchpad b

/-- STORE_CONFIG_WRITE: STORE_ROWS with STORE_BLOCKS while the store is out of service, and STORE_EN. -/
def execStoreConfigWrite (who : Who) (off : Nat) (w : W32) (s : State) : Host.Outcome State Fault Refusal :=
  act (fun b => onUnit who pgMDL b fun b => unlessLocked pgMDL b fun b =>
    let rows := bits w.toNat 0 6
    let blocks := bits w.toNat 16 9
    match off with
    | 0x40 =>
      if 54 < rows ∨ 320 < blocks then pageErr pgMDL 0x05 b
      else if b.mdl.storeEn then pageErr pgMDL 0x06 b
      else b.mdlU fun d => { d with rows := rows, storeBlocks := blocks }
    | 0x44 =>
      if bit w.toNat 0 then (if b.mdl.storeEn then b else if storeFits b then openStore b else pageErr pgMDL 0x06 b)
      else if b.mdl.models.isEmpty = false then pageErr pgMDL 0x06 b
      else b.mdlU fun d => { d with storeEn := false, freeBlocks := [], blockPieces := [], spares := [] }
    | _ => b) s

end Sys2Proof.Machine
end

