-- ==== Sys2Proof/Machine/Engines.lean ====
section
/-! DEFINITION. The transfer and reduce engines' own events, the group commands, and the timers of collectives (R303 to R336). -/

namespace Sys2Proof.Machine

/-! ## Work and chunks (R304 to R306) -/

/-- Engines that repair copies occupy. -/
def repairEngines (b : Blk) : List Nat :=
  (b.tre.works.filterMap fun e => match e.2.owner with
    | .repair _ _ => e.2.engine
    | _ => none).dedup

/-- The work is a repair copy. -/
def isRepair (w : Work) : Bool :=
  match w.owner with
  | .repair _ _ => true
  | _ => false

/-- The engine that a piece of work takes. Repairs spread over at most 8 engines (R298). -/
def engineFor (b : Blk) (w : Work) : Option Nat :=
  let used := repairEngines b
  if isRepair w ∧ 8 ≤ used.length then
    (sortOn (fun n => bytesQueued b n) (used.filter fun n => b.tre.up.getLsbD n && decide (engItems b n < 16))).head?
  else pickEngine b

/-- TRE_ITEM_ASSIGN: the work that the intake starts next takes its engine, or goes on waiting. -/
def execTreItemAssign (work : Nat) (s : State) : Host.Outcome State Fault Refusal :=
  actUnit pgTRE (fun b =>
    if intakeNext b = some work then
      match b.tre.works.get? work with
      | none => b
      | some w => match engineFor b w with
        | none => b
        | some n =>
          (b.treU fun t => { t with intake := t.intake.filter (· ≠ work) }).updWork work fun w => { w with engine := some n }
    else b) s

/-- TRE_CHUNK_DONE: an engine finishes a chunk and serves the next in class order. -/
def execTreChunkDone (engine : Nat) (s : State) : Host.Outcome State Fault Refusal :=
  actUnit pgTRE (fun b => if b.tre.up.getLsbD engine ∧ engine < 32 then settle (serveEngine engine b) else b) s

/-- TRE_FAILURE: the engine's work moves (R306, R422); one single fault absorbed (R428). -/
def execTreFailure (engine : Nat) (s : State) : Host.Outcome State Fault Refusal :=
  actUnit pgTRE (fun b => if engine < 32 ∧ b.tre.up.getLsbD engine then settle (absorb (treDown engine b)) else b) s

/-! ## Group commands (R318, R319) -/

/-- The span lies in local HBM and slice 0 owns every granule of it. -/
def ownedHbm (b : Blk) (pa n : Nat) : Bool :=
  isLocal b pa && paSpace pa == 0 && paInside pa n && (granulesOf (paKey pa) n).all fun g => b.own.owner.get? g == some 0

/-- The fields of a group descriptor are in range, and its areas lie as Table 09.5 states. -/
def groupFieldsOk (b : Blk) (d : Bytes) : Bool :=
  let size := field d 4 2
  let base := field d 0x18 8
  let n := field d 0x20 8
  decide (field d 0 2 < 4096) && decide (field d 2 2 < 4096) &&
  ((b.slices.get? (field d 2 2)).any fun s => !s.draining) &&
  decide (2 ≤ size) && decide (size ≤ 1024) && decide (field d 6 2 < size) && decide (field d 8 1 ≤ 1) &&
  zeroSpan d 9 7 && zeroSpan d 0x28 24 && field d 0x10 8 % 64 == 0 && ownedHbm b (field d 0x10 8) (2 * size) &&
  n % 65536 == 0 && (if base = 0 then n == 0 else base % 65536 == 0 && ownedHbm b base n)

/-- The member list names chips of the fabric once each, this chip at MY_RANK. -/
def membersOk (b : Blk) (d : Bytes) (ms : List Nat) : Bool :=
  (ms.all fun m => decide (m ≤ 1023)) && ms.dedup.length == ms.length && ms[field d 6 2]? == some b.chip

/-- A group command ends. -/
def gDone (code : Nat) (b : Blk) : Blk := b.treU fun t => { t with gbusy := false, gresult := code }

/-- A live item or run names the group (R319). -/
def groupInUse (b : Blk) (g : Nat) : Bool :=
  (b.items.any fun e => e.2.opcode == 0x04 && e.2.result.isNone && field e.2.entry 0x28 2 == g &&
    (b.tre.groups.get? g).any fun x => x.slice == e.2.slice) ||
  (b.mar.runs.any fun e => (programGroups e.2.program).contains g || e.2.group == some g)

/-- GCREATE: MEMBERS is read once. -/
def createGroup (d : Bytes) (b : Blk) : Blk :=
  let g := field d 0 2
  if groupFieldsOk b d = false ∨ b.tre.groups.has g then gDone 0x17 b
  else match paRead b (field d 0x10 8) (2 * field d 4 2) (.data []) with
    | .data bs =>
      let ms := (List.range (field d 4 2)).map fun i => field bs (2 * i) 2
      let x : Group := { slice := field d 2 2, size := field d 4 2, rank := field d 6 2, ring := field d 8 1 == 1, members := ms,
                         resendBase := field d 0x18 8, resendBytes := field d 0x20 8 }
      if membersOk b d ms = false then gDone 0x17 b else gDone 0 (b.treU fun t => { t with groups := t.groups.set g x })
    | _ => gDone 0x16 b

/-- GDESTROY: what was kept for resends goes with the group. -/
def destroyGroup (d : Bytes) (b : Blk) : Blk :=
  let g := field d 0 2
  if b.tre.groups.has g = false ∨ groupInUse b g then gDone 0x17 b
  else gDone 0 (b.treU fun t => { t with
    groups := t.groups.del g
    colls := t.colls.keep fun _ c => c.group != g
    ended := t.ended.filter fun e => e.1 != g })

/-- A write of GOP. -/
def gcmd (who : Who) (w : W32) (ext : ExtRead) (b : Blk) : Blk :=
  onUnit who pgTRE b fun b =>
    let op := bits w.toNat 0 2
    if b.tre.gbusy then pageErr pgTRE 0x04 b
    else if 2 ≤ op then gDone 0x17 b
    else
      let b := b.treU fun t => { t with gbusy := true }
      match paRead b b.tre.gcmd 64 ext with
      | .data d => if op = 0 then createGroup d b else destroyGroup d b
      | _ => gDone 0x16 b

/-- GCREATE. -/
def execGcreate (who : Who) (w : W32) (ext : ExtRead) (s : State) : Host.Outcome State Fault Refusal :=
  act (fun b => gcmd who w ext b) s

/-- GDESTROY. -/
def execGdestroy (who : Who) (w : W32) (ext : ExtRead) (s : State) : Host.Outcome State Fault Refusal :=
  act (fun b => gcmd who w ext b) s

/-! ## Timers of collectives (R328, R330) -/

/-- STAGE_CHUNK_EXPIRY: what the pool has held for 20 µs without a claim is discarded and counted. -/
def execStageChunkExpiry (s : State) : Host.Outcome State Fault Refusal :=
  actUnit pgTRE (fun b =>
    let old (c : StagedChunk) : Bool := decide (c.atFt + 20000 ≤ b.ft)
    let n := (b.tre.staging.filter old).length
    if n = 0 then b
    else settle (drainStaging (b.treU fun t => { t with
      staging := t.staging.filter fun c => !old c
      stageDrops := t.stageDrops.add n }))) s

/-- The lowest rank whose timer has run out. -/
def lateRank (b : Blk) (c : Coll) : Option Nat := (sortOn id ((c.timers.filter fun t => decide (t.2 ≤ b.ft)).map (·.1))).head?

/-- COLL_PEER_TIMEOUT: the collective ends, and its result names the chip of the lowest-ranked peer that is late. -/
def execCollPeerTimeout (coll : Nat) (s : State) : Host.Outcome State Fault Refusal :=
  actUnit pgTRE (fun b =>
    match b.tre.colls.get? coll with
    | none => b
    | some c => match lateRank b c with
      | some r => if c.ended then b else settle (failColl coll ⟨0x14, 6, c.chipOf r⟩ b)
      | none => b) s

end Sys2Proof.Machine
end

