-- ==== Sys2Proof/Machine/Fabric.lean ====
section
/-! DEFINITION. Lemdy below packets: lanes and markers, port states and bring-up, routing, timers of the link and of transactions,
Kites sent, holdover and keys (R337 to R374). -/

namespace Sys2Proof.Machine

/-! ## Lanes (R339, R340) -/

/-- The lane map that this end holds: what it announced last, else what is in service. -/
def laneMap (q : Port) : Lanes := q.sentLanes.getD q.lanes

/-- Take lanes out of service: the new map is announced, and both ends switch at a marker. Below four lanes the port goes down. -/
def keepLanes (n : Nat) (keep : Lanes) (b : Blk) : Blk :=
  let q := b.port n
  let m := laneMap q &&& keep
  if laneCount m < 4 then downPort n 3 b
  else if m = q.lanes ∨ q.sentLanes = some m then b
  else sendCtl n 0x34 (leBytes 1 m.toNat ++ List.replicate 15 0) [] (b.updPort n fun q => { q with sentLanes := some m })

/-- The peer announces its lane map: what it gives up leaves service here too. -/
def recvLane (n : Nat) (map : Lanes) (b : Blk) : Blk :=
  if portActive b n then
    let b := keepLanes n map (b.updPort n fun q => { q with newLanes := some map })
    -- the map that the peer holds is announced to it as well, once
    if (b.port n).newLanes.isSome ∧ (b.port n).sentLanes.isNone ∧ map = (b.port n).lanes then
      b.updPort n fun q => { q with newLanes := none }
    else b
  else b

/-- A marker arrives: the new width begins once both ends have sent the same map (R339). -/
def switchLanes (n : Nat) (b : Blk) : Blk :=
  let q := b.port n
  match q.sentLanes, q.newLanes with
  | some s, some r =>
    if s = r ∧ q.state = .active then
      let b := b.updPort n fun q => { q with lanes := s, sentLanes := none, newLanes := none }
      let w := laneCount s
      fire 69 noOne (BitVec.ofNat 32 (n + w * 256)) (traceEvent 4 0x13 noOne noOne (n + 32 + w * 256) 0 b)
    else b
  | _, _ => b

/-- LANE_REMOVE: a lane leaves service; one single fault absorbed (R428). -/
def execLaneRemove (port lane : Nat) (s : State) : Host.Outcome State Fault Refusal :=
  actLink (fun b =>
    if portActive b port ∧ lane < 8 ∧ (laneMap (b.port port)).getLsbD lane then
      absorb (keepLanes port (~~~(1#8 <<< lane)) b)
    else b) s

/-- MARKERS_MISSED: the port leaves service for ALIGN, with its lanes and width, and its traffic moves (R342). -/
def execMarkersMissed (port : Nat) (s : State) : Host.Outcome State Fault Refusal :=
  actLink (fun b =>
    if portActive b port then (leaveService port .align b).updPort port freshLink else b) s

/-- LACK_SEND_TIMER: what has arrived in order is acknowledged 200 ns after the last LACK, or after 64 codewords (R343). -/
def execLackSendTimer (port : Nat) (s : State) : Host.Outcome State Fault Refusal :=
  actLink (fun b =>
    let q := b.port port
    if portActive b port ∧ 0 < q.lackCount ∧ (q.lackFt + 200 ≤ b.ft ∨ 64 ≤ q.lackCount) then sendLack port b else b) s

/-! ## Transactions (R354) -/

/-- TRANSACTION_TIMEOUT: the request is lost, for whoever issued it. -/
def execTransactionTimeout (dest txn : Nat) (s : State) : Host.Outcome State Fault Refusal :=
  actUnit pgLMF (fun b =>
    match answered b dest txn with
    | none => b
    | some q =>
      if b.ft < q.limitFt then b
      else match q.why with
        | .commitSig run op => settle (sendWaiting (setOutcome run op ⟨0x14, 6, dest⟩ (forgetRequest dest txn b)))
        | .fsig i => settle (sendWaiting (loseItem i ⟨0x14, 6, dest⟩ (forgetRequest dest txn b)))
        | _ => loseRequest (fun _ => true) dest txn b) s

/-! ## Port states (R359, R371, R372) -/

/-- PORT_DOWN: a port goes down for a cause of Table 10.11; one single fault absorbed (R428). Cause 1 is never the cause of this. -/
def execPortDown (port cause : Nat) (s : State) : Host.Outcome State Fault Refusal :=
  actLink (fun b =>
    if port < 32 ∧ 2 ≤ cause ∧ cause ≤ 9 ∧ (b.port port).state ≠ .off ∧ (b.port port).state ≠ .down then
      absorb (downPort port cause b)
    else b) s

/-- PORT_EN of a port. -/
def portEnabled (b : Blk) (n : Nat) : Bool := b.lmf.portEn.getLsbD n

/-- PORT_RETRY_TIMER: bring-up begins again 10 ms after the port went down. -/
def execPortRetryTimer (port : Nat) (s : State) : Host.Outcome State Fault Refusal :=
  actLink (fun b =>
    let q := b.port port
    if q.state = .down ∧ portEnabled b port ∧ q.downFt + 10000000 ≤ b.ft then startCal port b else b) s

/-- CAL_DONE: calibration ends, and its result is recorded in the retained store. -/
def execCalDone (port : Nat) (ok : Bool) (s : State) : Host.Outcome State Fault Refusal :=
  actLink (fun b =>
    if (b.port port).state = .cal then
      if ok = false then downPort port 8 b
      else
        let b := b.updPort port fun q => { q with calibrated := true }
        if portEnabled b port then b.updPort port fun q => { q with state := .train } else portOff port b
    else b) s

/-- TRAIN_DONE: lanes that fail are left out; too few of them take the port down with cause 3, none with cause 9. -/
def execTrainDone (port : Nat) (lanes : Lanes) (s : State) : Host.Outcome State Fault Refusal :=
  actLink (fun b =>
    if (b.port port).state = .train then
      if lanes = 0 then downPort port 9 b
      else if laneCount lanes < 4 then downPort port 3 b
      else b.updPort port fun q => { q with state := .align, lanes := lanes }
    else b) s

/-- ALIGN_DONE: the numbers of the far end are known; KEYCHK follows. -/
def execAlignDone (port : Nat) (ok : Bool) (chip peerPort : Nat) (s : State) : Host.Outcome State Fault Refusal :=
  actLink (fun b =>
    if (b.port port).state = .align then
      if ok = false then downPort port 9 b
      else if chip = b.chip then downPort port 7 b
      else
        let b := b.updPort port fun q => { q with state := .key, peerChip := chip % 1024, peerPort := peerPort % 32 }
        sendCtl port 0x35 (List.replicate 16 0) (List.replicate 16 0) b
    else b) s

/-- The median of measured delays: the mean of the two middle ones, fraction dropped. -/
def median (l : List Nat) : Nat :=
  let s := sortOn id l
  (s.getD ((s.length - 1) / 2) 0 + s.getD (s.length / 2) 0) / 2

/-- MEASURE_DONE: after 64 exchanges the port is ACTIVE and takes traffic; 16 exchanges in service measure DELAY again (R366). -/
def execMeasureDone (port : Nat) (delays : Nats) (s : State) : Host.Outcome State Fault Refusal :=
  actLink (fun b =>
    let set (b : Blk) : Blk := b.updPort port fun q => { q with delay := median delays % 65536 }
    if (b.port port).state = .measure ∧ delays.length = 64 then
      let ft := b.ft
      let on := portEnabled b port
      let b := (set b).updPort port fun q => { q with state := .active, lackFt := ft, draining := !on, offFt := ft }
      settle (pumpAll (pumpSendq b))
    else if portActive b port ∧ delays.length = 16 then set b
    else b) s

/-- PORT_EN of one port changes: up from OFF, down from ACTIVE by draining, from DOWN at once. In B2 and B3 no port comes up. -/
def setPortEn (n : Nat) (on : Bool) (b : Blk) : Blk :=
  let q := b.port n
  let ft := b.ft
  if on then (if q.state = .off ∧ b.pwr.pstate < 2 then startCal n b else b)
  else if q.state = .active ∧ q.draining = false then b.updPort n fun q => { q with draining := true, offFt := ft }
  else if q.state = .down then portOff n b
  else b

/-- PORT_EN_WRITE. -/
def execPortEnWrite (who : Who) (w : W32) (s : State) : Host.Outcome State Fault Refusal :=
  act (fun b => onUnit who pgLMF b fun b => unlessLocked pgLMF b fun b =>
    (List.range 32).foldl (fun b n => setPortEn n (w.getLsbD n) b) (b.lmfU fun l => { l with portEn := w })) s

/-- PORT_OFF_DRAIN_END: the replay buffer is empty, or 10 µs have passed; what is left moves. A port enabled again meanwhile starts its
bring-up. -/
def execPortOffDrainEnd (port : Nat) (s : State) : Host.Outcome State Fault Refusal :=
  actLink (fun b =>
    let q := b.port port
    if q.state = .active ∧ q.draining ∧ (q.replay.isEmpty ∨ q.offFt + 10000 ≤ b.ft) then
      let b := portOff port (leaveService port .off b)
      let b := portEvent port 1 (b.updPort port fun q => { q with downCause := 1 })
      if portEnabled b port then startCal port b else b
    else b) s

/-- A write of the word with RETRAIN and DATELINE: DATELINE keeps its value while the page is locked; RETRAIN takes an ACTIVE port to
TRAIN, with cause 10 noted. -/
def portCtrl (n : Nat) (w : W32) (b : Blk) : Blk :=
  let b := if (b.hdr pgLMF).locked then pageErr pgLMF 0x03 b else b.updPort n fun q => { q with dateline := w.getLsbD 1 }
  if w.getLsbD 0 ∧ portActive b n then
    (leaveService n .train b).updPort n fun q => { freshLink q with lanes := 0, downCause := 10, draining := false }
  else b

/-- RETRAIN. -/
def execRetrain (who : Who) (port : Nat) (w : W32) (s : State) : Host.Outcome State Fault Refusal :=
  act (fun b => onUnit who pgLMF b fun b => if port < 32 then portCtrl port w b else b) s

/-- ROUTING_COMMIT: the staged words of the entry take effect in one step, for packets queued afterwards (R374). -/
def execRoutingCommit (who : Who) (chip : Nat) (_w : W32) (s : State) : Host.Outcome State Fault Refusal :=
  act (fun b => onUnit who pgLMF b fun b =>
    match b.lmf.staged.get? chip with
    | none => b
    | some r => pumpAll (pumpSendq (b.lmfU fun l => { l with routes := l.routes.set chip r, staged := l.staged.del chip }))) s

/-! ## Kites (R365, R367, R370) -/

/-- The port is in ALIGN or a later state that carries Kites. -/
def kitePort (q : Port) : Bool := q.state == .align || q.state == .key || q.state == .measure || q.state == .active

/-- The payload of a Kite (Table 10.9). A chip that follows no root says so with stratum 15 and priority 255. -/
def kitePayload (b : Blk) (q : Port) (frac : Nat) : Bytes :=
  let turn := match q.kiteFt with
    | some t => (b.ft - t) * 4
    | none => 0
  leBytes 8 b.ft ++ leBytes 1 (frac % 4) ++ leBytes 1 b.lmf.stratum ++ leBytes 2 b.lmf.rootChip ++ leBytes 1 b.lmf.followPrio ++
  List.replicate 3 0 ++ leBytes 8 q.kiteRx ++ leBytes 4 turn ++ List.replicate 4 0

/-- KITE_SEND: once in each microsecond of this chip's time. -/
def execKiteSend (port frac : Nat) (s : State) : Host.Outcome State Fault Refusal :=
  actLink (fun b =>
    let q := b.port port
    if kitePort q ∧ q.kiteTx ≠ b.ft / 1000 then
      let us := b.ft / 1000
      sendCtl port 0x30 (List.replicate 16 0) (kitePayload b q frac) (b.updPort port fun q => { q with kiteTx := us })
    else b) s

/-- A Kite at its receiver: what it says of its root, the count of missed ones, the election, and time from the upstream port (R366 to
R370). -/
def recvKite (n : Nat) (p : Pkt) (b : Blk) : Blk :=
  let q := b.port n
  if kitePort q = false then b
  else
    let d := p.payload
    let ft := b.ft
    let missed := match q.kiteFt with
      | some t => if q.state = .active then (ft - t) / 1000 - 1 else 0
      | none => 0
    let b := b.updPort n fun q => { q with
      kiteFt := some ft
      kiteRx := field d 0 8
      kiteStratum := field d 9 1 % 16
      kiteRoot := field d 0xA 2 % 1024
      kitePrio := field d 0xC 1
      kitesMissed := q.kitesMissed.add missed }
    let b := elect b
    let b := if field d 0xA 2 % 1024 = b.lmf.rootChip ∧ field d 0xC 1 = b.lmf.followPrio then b.lmfU fun l => { l with lastRootKite := ft }
      else b
    if portActive b n ∧ b.lmf.upstream = n ∧ 0 < b.lmf.stratum ∧ b.lmf.stratum < 15 ∧ (b.port n).kiteRoot = b.lmf.rootChip then
      followKite n (field d 0 8) (field d 8 1 % 4) b
    else b

/-- HOLDOVER_TIMEOUT: no Kite that names the root has come for 16 µs; the chip elects again from what it still hears (R370). -/
def execHoldoverTimeout (s : State) : Host.Outcome State Fault Refusal :=
  actLink (fun b =>
    if b.lmf.ftState = .locked ∧ 0 < b.lmf.stratum ∧ b.lmf.lastRootKite + 16000 ≤ b.ft then elect (holdover b) else b) s

/-! ## Keys (R362) -/

/-- KEY_SWITCH: both ends have toggled, and a marker has followed: the other bank is in use from the first packet on. -/
def execKeySwitch (port : Nat) (s : State) : Host.Outcome State Fault Refusal :=
  actLink (fun b =>
    let q := b.port port
    if portActive b port ∧ q.keyTx ∧ q.keyRx then
      b.updPort port fun q => { q with
        keyBank := 1 - q.keyBank, keyTx := false, keyRx := false, txCtr := 0, rxCtr := 0, rekeyed := false }
    else b) s

/-- REKEY_THRESHOLD: a packet counter reaches 2^62 and then 2^63 - 1. -/
def execRekeyThreshold (port : Nat) (s : State) : Host.Outcome State Fault Refusal :=
  actLink (fun b =>
    let q := b.port port
    if portActive b port = false then b
    else if q.rekeyed = false then fire 70 noOne (BitVec.ofNat 32 port) (b.updPort port fun q => { q with rekeyed := true })
    else downPort port 5 b) s

end Sys2Proof.Machine
end

