-- ==== Sys2Proof/Machine/Regulators.lean ====
section
/-! DEFINITION. Bandwidth regulators: windows and budgets, the order of service, feedback levels, and the commit of a regulator's
block (R375 to R388). -/

namespace Sys2Proof.Machine

/-- The budget of an unlimited class (R379). -/
def unlimited : Nat := 0xFFFFFF

/-- The window length of WIN_K in ns (R378). -/
def windowNs (k : Nat) : Nat := 1024 * 2 ^ k

/-- The budget of a class of a regulator. -/
def Regulator.budget (g : Regulator) (c : Nat) : Nat := g.budgets.getD c unlimited

/-- What remains of a class's budget. -/
def Regulator.rem (g : Regulator) (c : Nat) : Int := g.remaining.getD c unlimited

/-- Some class has no remaining budget. -/
def Regulator.spent (g : Regulator) : Bool := (List.range 8).any fun c => g.budget c != unlimited && decide (g.rem c ≤ 0)

/-- A window in which some class has no remaining budget counts once in HELD. -/
def Regulator.noteHeld (g : Regulator) : Regulator :=
  if g.spent ∧ g.heldWindow = false then { g with heldWindow := true, held := g.held.bump } else g

/-- A window opens at `at'`: every budget less its deficit, the deficit cut to the budget (R379, R380). -/
def Regulator.refill (at' : Nat) (g : Regulator) : Regulator :=
  let fill (c : Nat) : Int :=
    let n := g.budget c
    if n = unlimited then (n : Int)
    else (n : Int) - min (n : Int) (if g.rem c < 0 then -(g.rem c) else 0)
  Regulator.noteHeld { g with remaining := (List.range 8).map fill, windowFt := at', heldWindow := false }

/-- Open every window up to `ft` under the length in force. After the second of them no deficit is left, so the rest are alike. -/
def Regulator.advance (ft : Nat) (g : Regulator) : Regulator :=
  let w := windowNs g.winK
  let n := ft / w - g.windowFt / w
  if n = 0 then g
  else
    let one := g.refill (g.windowFt / w * w + w)
    if n = 1 then one
    else
      let last := one.refill (ft / w * w)
      if last.spent then { last with held := last.held.add (n - 2) } else last

/-- Bring a regulator to the window that `ft` lies in. A commit takes effect at its boundary, never within a window (R385, R388). -/
def Regulator.roll (ft : Nat) (g : Regulator) : Regulator :=
  match g.commit with
  | some (k, budgets, at') =>
    if at' ≤ ft then
      let g := g.advance (at' - 1)
      Regulator.advance ft (Regulator.refill at' { g with winK := k, budgets := budgets, commit := none })
    else g.advance ft
  | none => g.advance ft

/-- REGULATOR_WINDOW: the boundaries that have come (R379). -/
def execRegulatorWindow (reg : Nat) (s : State) : Host.Outcome State Fault Refusal :=
  actUnit pgBWR (fun b => if reg < 120 then b.updReg reg (Regulator.roll b.ft) else b) s

/-! ## The order of service (R375 to R382) -/

/-- The lines that a request touches; an atomic takes one (R375). -/
def requestLines (r : Request) : Nat :=
  match r.kind with
  | .atomic => 1
  | _ => (linesOf r.addr r.bytes).length

/-- The level of an HBM controller: 0 green, 1 amber, 2 and 3 red; any other target is green (R383). -/
def ctrlLevel (b : Blk) : Option Nat → Nat
  | none => 0
  | some c => bits b.bwr.levels.toNat (2 * c) 2

/-- A request is paused: classes 0 to 3 under red (Table 11.1). -/
def isPaused (b : Blk) (w : Waiting) : Bool := decide (w.req.cls ≤ 3) && decide (2 ≤ ctrlLevel b w.req.ctrl)

/-- What a request is charged now: twice its lines where the budget is halved (R383). -/
def chargeOf (b : Blk) (r : Request) : Nat :=
  let level := ctrlLevel b r.ctrl
  let halved := (decide (r.cls ≤ 3) && level == 1) || (decide (4 ≤ r.cls) && decide (r.cls ≤ 6) && decide (2 ≤ level))
  requestLines r * (if halved then 2 else 1)

/-- A request may issue now (R380, R381); the traffic of R265 issues whatever remains. -/
def isEligible (b : Blk) (g : Regulator) (w : Waiting) : Bool :=
  w.req.saving || (!isPaused b w && (g.budget w.req.cls == unlimited || decide (0 < g.rem w.req.cls)))

/-- The place of a class-7 request: finite deadlines first, the earliest first (R382). -/
def deadlineRank : Option Nat → Nat
  | some t => t
  | none => 2 ^ 80

/-- Waiting requests with their place of arrival, in the order of service (R381). -/
def serviceOrder (g : Regulator) : List (Nat × Waiting) :=
  let all := g.waiting.zipIdx.map fun e => (e.2, e.1)
  sortOn (fun e : Nat × Waiting => deadlineRank e.2.absDeadline) (all.filter fun e => e.2.req.cls == 7) ++
  sortOn (fun e : Nat × Waiting => 7 - e.2.req.cls) (all.filter fun e => e.2.req.cls != 7)

/-- A request arrives: its deadline becomes absolute (R382). -/
def arriveReq (ft : Nat) (r : Request) : Waiting :=
  { req := r, arriveFt := ft, absDeadline := if r.deadline = 0xFFFFFF then none else some (ft + r.deadline * 16) }

/-- Requests that red pauses count once each in PAUSES. -/
def notePauses (b : Blk) (g : Regulator) : Regulator :=
  let new := (g.waiting.filter fun w => isPaused b w && !w.paused).length
  { g with pauses := g.pauses.add new
           waiting := g.waiting.map fun w => if isPaused b w then { w with paused := true } else w }

/-- A request leaves for the memory fabric and is charged (R375, R377, R380). -/
def issueReq (reg i : Nat) (w : Waiting) (b : Blk) : Blk :=
  let n := chargeOf b w.req
  let late := w.req.cls == 7 && w.absDeadline.any fun t => decide (t < b.ft)
  let charge (g : Regulator) : Regulator :=
    let c := w.req.cls
    Regulator.noteHeld { g with
      waiting := g.waiting.eraseIdx i
      remaining := if g.budget c = unlimited then g.remaining else g.remaining.set c (g.rem c - n)
      lines := g.lines.add n
      late7 := if late then g.late7.bump else g.late7 }
  let b := b.updReg reg charge
  if b.slices.has w.req.slice then b.updView w.req.slice fun v => { v with lines := v.lines.add n } else b

/-- REGULATOR_ISSUE: what has arrived joins, and the next eligible request issues. A boundary at the same instant comes first
(R385). -/
def execRegulatorIssue (reg : Nat) (arrivals : Requests) (s : State) : Host.Outcome State Fault Refusal :=
  actUnit pgBWR (fun b =>
    if reg < 120 then
      let ft := b.ft
      let b := b.updReg reg fun g =>
        let g := g.roll ft
        notePauses b { g with waiting := g.waiting ++ arrivals.map (arriveReq ft) }
      let g := b.reg reg
      match (serviceOrder g).find? fun e => isEligible b g e.2 with
      | some (i, w) => issueReq reg i w b
      | none => b
    else b) s

/-! ## Feedback and the block's commit (R383, R384, R388) -/

/-- FEEDBACK_LEVEL_CHANGE: the level that a controller drives. Entries into amber and red count; level 11 acts as red and is counted as
an error (R41). -/
def execFeedbackLevelChange (ctrl level : Nat) (s : State) : Host.Outcome State Fault Refusal :=
  actUnit pgBWR (fun b =>
    if ctrl < 16 then
      let old := ctrlLevel b (some ctrl)
      let new := level % 4
      let keep := b.bwr.levels &&& ~~~(3#32 <<< (2 * ctrl))
      let b := b.bwrU fun w => { w with levels := keep ||| (BitVec.ofNat 32 new <<< (2 * ctrl)) }
      let b := if new = 3 ∧ old ≠ 3 then pageErr pgBWR 0x0A b else b
      if new = 1 ∧ old ≠ 1 then b.bwrU fun w => { w with ambers := w.ambers.bump }
      else if 2 ≤ new ∧ old < 2 then fire 67 noOne (BitVec.ofNat 32 ctrl) (b.bwrU fun w => { w with reds := w.reds.bump })
      else b
    else b) s

/-- The first boundary after `ft` that is a multiple of the old and of the new window length. -/
def commitAt (ft old new : Nat) : Nat := let w := windowNs (max old new); ft / w * w + w

/-- Commit a regulator's CTRL and its staged budgets together. -/
def commitReg (reg : Nat) (w : W32) (b : Blk) : Blk :=
  let k := bits w.toNat 0 4
  if 120 ≤ reg then b
  else if 10 < k then pageErr pgBWR 0x05 b
  else
    let ft := b.ft
    b.updReg reg fun g =>
      let g := g.roll ft
      { g with commit := some (k, g.staged, commitAt ft g.winK k) }

/-- REGULATOR_CTRL_COMMIT. -/
def execRegulatorCtrlCommit (who : Who) (reg : Nat) (w : W32) (s : State) : Host.Outcome State Fault Refusal :=
  act (fun b => onUnit who pgBWR b fun b => unlessLocked pgBWR b fun b => commitReg reg w b) s

end Sys2Proof.Machine
end

