-- ==== Sys2Proof/Machine/Events.lean ====
section
/-! DEFINITION. EVC: wired lines and sensing modes, pending writes, set and clear, configuration of sources, and Pennant rings
(R389 to R406, R412, R413). -/

namespace Sys2Proof.Machine

/-! ## Firing (R393 to R398) -/

/-- WIRED_LINE_CHANGE: a level that the line's filter has accepted. It fires on a change to the active level in SERVICE; in B2 a fire
with WAKE requests a wake (R394, R396). -/
def execWiredLineChange (line : Nat) (level : Bool) (s : State) : Host.Outcome State Fault Refusal :=
  act (fun b =>
    if 64 ≤ line ∨ 3 ≤ b.pwr.pstate ∨ b.pwr.supplies = false ∨ frozenUnit b pgEVC then b
    else
      let old := b.evc.lines.getLsbD line
      let b := b.evcU fun v => { v with lines := if level then v.lines ||| (1#64 <<< line) else v.lines &&& ~~~(1#64 <<< line) }
      let src := b.source line
      if b.evc.mode = 0 ∧ old ≠ level ∧ level = !src.activeLow then
        let b := fire line noOne 0 b
        if b.pwr.pstate = 2 ∧ src.wake ∧ src.assigned ∧ b.pwr.wakePending.isNone then
          b.pwrU fun p => { p with wakePending := some (2, line) }
        else b
      else b) s

/-- A fire that a slice's pending write asks for: a general source that it owns, or one of SOFT0 to SOFT11 (R397). -/
def pendingFire (slice ctx n : Nat) (data : W32) (b : Blk) : Option Blk :=
  if 256 ≤ n ∧ n < 8176 ∧ (b.source n).assigned ∧ (b.source n).owner = slice then some (fire n ctx data b)
  else if 8179 ≤ n ∧ n < 8191 then some (fireBanked slice (n - 8176) ctx data none b)
  else none

/-- PENDING_WRITE. -/
def execPendingWrite (who : Who) (page off : Nat) (bytes : Bytes) (s : State) : Host.Outcome State Fault Refusal :=
  act (fun b =>
    match gatePower who (pgView page) true b with
    | (b, false) => b
    | (b, true) => match pageSlice b who page with
      | none => pageErr pgQFE 0x07 b
      | some sl =>
        let mine := portWriter b who sl
        let err (code : Nat) (b : Blk) : Blk := if mine then viewErr sl pgEVC code b else pageErr pgEVC code b
        if off ≠ 0x310 ∨ !(bytes.length == 4 || bytes.length == 8) then err 0x01 b
        else if !mine then err 0x02 b
        else match pendingFire sl (portCtx who) (field bytes 0 4 % 8192) (BitVec.ofNat 32 (field bytes 4 4)) b with
          | some b => b
          | none => err 0x02 b) s

/-- EVC_DOORBELL (R395). -/
def execEvcDoorbell (who : Who) (w : W32) (s : State) : Host.Outcome State Fault Refusal :=
  act (fun b => onUnit who pgEVC b fun b =>
    let n := bits w.toNat 0 13
    if 8175 < n then pageErr pgEVC 0x05 b
    else if b.evc.mode = 0 then pageErr pgEVC 0x06 b
    else fire n noOne 0 b) s

/-- EVC_MODE_WRITE: only 0 and 2 can be written (R393). The levels in force are what each filter goes on from. -/
def execEvcModeWrite (who : Who) (w : W32) (s : State) : Host.Outcome State Fault Refusal :=
  act (fun b => onUnit who pgEVC b fun b =>
    let m := bits w.toNat 0 2
    if m = 0 ∨ m = 2 then b.evcU fun v => { v with mode := m } else pageErr pgEVC 0x05 b) s

/-- The global sources that the set bits of an array word name. -/
def wordSources (word : Nat) (w : W32) : List Nat :=
  (List.range 32).filterMap fun i => if w.getLsbD i ∧ 32 * word + i ≤ 8175 then some (32 * word + i) else none

/-- PEND_SET (R398). -/
def execPendSet (who : Who) (word : Nat) (w : W32) (s : State) : Host.Outcome State Fault Refusal :=
  act (fun b => onUnit who pgEVC b fun b => (wordSources word w).foldl (fun b n => fire n noOne 0 b) b) s

/-- A source without its fires. -/
def Source'.cleared (s : Source') : Source' := { s with count := 0, sat := false, pending := false, mixed := false }

/-- PEND_CLR: each pending source that is cleared counts in WITHDRAWN (R398). -/
def execPendClr (who : Who) (word : Nat) (w : W32) (s : State) : Host.Outcome State Fault Refusal :=
  act (fun b => onUnit who pgEVC b fun b => (wordSources word w).foldl (fun b n =>
    if (b.source n).pending then
      (b.updSource n Source'.cleared).evcU fun v => { v with withdrawn := v.withdrawn.bump }
    else b) b) s

/-! ## Configuration of sources (R392, R412) -/

/-- What a word of SRC_CFG makes of a source: the owner and priority of unit sources are fixed, WAKE, FILTER and ACTIVE_LOW belong to
wired lines. -/
def configured (n : Nat) (w : W32) (s : Source') : Source' :=
  let v := w.toNat
  let s := if 64 ≤ n ∧ n < 256 then s else { s with owner := bits v 0 12, prio := bits v 12 2, assigned := bit v 14 }
  if n < 64 then { s with wake := bit v 15, filter := bits v 16 8, activeLow := bit v 24 } else s

/-- SOURCE_CONFIG_WRITE: the owner changes only while the source is disabled and not pending. -/
def execSourceConfigWrite (who : Who) (w : W32) (s : State) : Host.Outcome State Fault Refusal :=
  act (fun b => onUnit who pgEVC b fun b => unlessLocked pgEVC b fun b =>
    let n := b.evc.srcSel
    let old := b.source n
    let new := configured n w old
    if 8175 < n then pageErr pgEVC 0x07 b
    else if (old.owner ≠ new.owner ∨ old.assigned ≠ new.assigned) ∧ (old.enabled ∨ old.pending) then pageErr pgEVC 0x06 b
    else b.updSource n fun _ => new) s

/-! ## Pennant rings (R399 to R404) -/

/-- Records of a slice's ring. -/
def View.pnSize (v : View) : Nat := 2 ^ v.pnLog2

/-- The ring is in service and has a free slot (R401). -/
def View.pnRoom (v : View) : Bool := v.pnEn && decide ((v.pnTail + 1) % v.pnSize ≠ v.pnHead % v.pnSize)

/-- PN_LOG2 is in range. -/
def pnLogOk (log2 : Nat) : Bool := decide (4 ≤ log2) && decide (log2 ≤ 10)

/-- The ring lies in the host window at its alignment (R399). -/
def pnBaseOk (base log2 : Nat) : Bool := bit base 56 && base % min (16 * 2 ^ log2) 4096 == 0

/-- The word with PN_LOG2, PN_EN and PN_VECTOR (R399). PN_LOG2 changes only while PN_EN is 0. -/
def pnEnable (who : Who) (slice : Nat) (w : W32) (b : Blk) : Blk :=
  let v := b.view slice
  let log2 := bits w.toNat 0 4
  let on := bit w.toNat 4
  let vec := bits w.toNat 16 8
  if v.pnEn then
    let b := b.updView slice fun v => { v with pnEn := on, pnVector := vec }
    if log2 = v.pnLog2 then b else errFrom who slice pgEVC 0x06 b
  else if on = false then b.updView slice fun v => { v with pnLog2 := log2, pnVector := vec }
  else if pnLogOk log2 = false then errFrom who slice pgEVC 0x05 b
  else if pnBaseOk v.pnBase log2 = false then errFrom who slice pgEVC 0x06 b
  else
    let b := b.updView slice fun v => { v with
      pnLog2 := log2, pnEn := true, pnVector := vec, pnHead := 0, pnTail := 0, pnPhase := true }
    b.evcU fun e => { e with shadow := e.shadow.filter fun s => s.slice != slice }

/-- PN_EN_WRITE. -/
def execPnEnWrite (who : Who) (page : Nat) (w : W32) (s : State) : Host.Outcome State Fault Refusal :=
  act (fun b => onView who page pgEVC b fun sl b => pnEnable who sl w b) s

/-- A slot lies in the part of a ring from `lo` up to `hi`. -/
def inSpan (size lo hi slot : Nat) : Bool := decide ((slot + size - lo) % size < (hi + size - lo) % size)

/-- PN_HEAD claims records and frees their shadow entries; it cannot pass PN_TAIL (R399, R404). -/
def pnClaim (who : Who) (slice : Nat) (w : W32) (b : Blk) : Blk :=
  let v := b.view slice
  let h := bits w.toNat 0 10
  if h < v.pnSize ∧ (h + v.pnSize - v.pnHead) % v.pnSize ≤ (v.pnTail + v.pnSize - v.pnHead) % v.pnSize then
    let b := b.evcU fun e => { e with shadow := e.shadow.filter fun s => !(s.slice == slice && inSpan v.pnSize v.pnHead h s.slot) }
    b.updView slice fun v => { v with pnHead := h }
  else errFrom who slice pgEVC 0x05 b

/-- PN_HEAD_WRITE. -/
def execPnHeadWrite (who : Who) (page : Nat) (w : W32) (s : State) : Host.Outcome State Fault Refusal :=
  act (fun b => onView who page pgEVC b fun sl b => pnClaim who sl w b) s

/-- The sources that compete for a slice's ring: number, source, and its banked index where it is banked (R401). -/
def competing (b : Blk) (slice : Nat) : List (Nat × Source') :=
  let global := b.evc.sources.filter fun e => e.2.assigned && e.2.owner == slice && e.2.enabled && e.2.pending
  let banked := (List.range 15).filterMap fun i =>
    let s := b.banked slice i
    if s.pending ∧ (b.view slice).bankEn.getLsbD i then some (8176 + i, s) else none
  sortOn (fun e : Nat × Source' => 3 - e.2.prio) (global ++ banked)

/-- A winner needs a shadow entry when it names a context (R404). -/
def needsShadow (s : Source') : Bool := s.ctx != noOne

/-- The shadow pool is full. -/
def shadowFull (b : Blk) : Bool := decide (65536 ≤ b.evc.shadow.length)

/-- The source that a slice's ring takes now. -/
def presented (b : Blk) (slice : Nat) : Option (Nat × Source') :=
  (competing b slice).find? fun e => !(needsShadow e.2 && shadowFull b)

/-- A stream of a slice's ring waits for a page. -/
def pennantWaits (b : Blk) (slice : Nat) : Bool :=
  (b.xlt.atsWaits.any fun w => w.stream == .pennant slice) ||
  b.xlt.batches.any fun t => t.pages.any fun p => p.streams.contains (.pennant slice)

/-- A record that was issued earlier and is still to be written. -/
def owedRecord (b : Blk) (slice : Nat) : Option Bytes := (b.evc.faulted.find? fun f => f.1 == slice).map (·.2.2)

/-- The slice has something for EVC to write (R401). -/
def hasWinner (b : Blk) (slice : Nat) : Bool :=
  (b.view slice).pnRoom && !pennantWaits b slice && ((owedRecord b slice).isSome || !(competing b slice).isEmpty)

/-- The slices with winners in round robin: the one served now. -/
def nextPennant (b : Blk) : Option Nat :=
  let ws := (b.slices.map (·.1)).filter fun s => hasWinner b s
  match ws.find? fun s => decide (b.evc.lastSlice < s) with
  | some s => some s
  | none => ws.head?

/-- The 16 bytes of a record (Table 12.4). -/
def pennantBytes (n : Nat) (s : Source') (phase : Bool) : Bytes :=
  leBytes 2 (n + if phase then 0x8000 else 0) ++ leBytes 1 s.count ++ leBytes 1 ((if s.sat then 1 else 0) + if s.mixed then 2 else 0) ++
  leBytes 2 s.ctx ++ [0, 0] ++ leBytes 4 s.data.toNat ++ leBytes 4 s.time

/-- A record has been written: TAIL moves on, and a record into an empty ring raises the message (R402). -/
def pennantDone (slice : Nat) (b : Blk) : Blk :=
  let v := b.view slice
  let t := (v.pnTail + 1) % v.pnSize
  let b := b.evcU fun e => { e with presented := e.presented.bump, faulted := e.faulted.filter fun f => f.1 != slice }
  let b := b.updView slice fun v => { v with pnTail := t, pnPhase := if t = 0 then !v.pnPhase else v.pnPhase }
  if v.pnHead = v.pnTail then b.emit (.msix (sliceFn b slice) v.pnVector) else b

/-- A record that cannot be written now waits as it is, with 2 where the dirty ring is full. -/
def oweRecord (slice mark : Nat) (bs : Bytes) (b : Blk) : Blk :=
  b.evcU fun e => { e with
    faulted := if e.faulted.any fun f => f.1 == slice then e.faulted.map fun f => if f.1 = slice ∧ f.2.1 ≠ 1 then (f.1, mark, f.2.2) else f
               else e.faulted ++ [(slice, mark, bs)] }

/-- Write a record at PN_TAIL, or leave it on the fault path (R401). -/
def writeRecord (slice : Nat) (bs : Bytes) (b : Blk) : Blk :=
  let dva := (b.view slice).pnBase + 16 * (b.view slice).pnTail
  let full := b.evc.faulted.any fun f => f.1 == slice && f.2.1 == 2
  match ctlWrite slice 0 none dva bs b with
  | .done b => pennantDone slice b
  | .refused d => pennantFault slice d 0x06 (oweRecord slice 0 bs b)
  | .stop (.cause d c) =>
    if c = 0x07 then hostNoAccess slice d true (.pennant slice) (oweRecord slice 0 bs b)
    else pennantFault slice d c (oweRecord slice 0 bs b)
  | .stop (.miss d _) => requestAts slice d true (.pennant slice) (oweRecord slice 0 bs b)
  | .stop (.lost d _) => pennantFault slice d 0x04 (oweRecord slice 0 bs b)
  | .stop (.ring _) => oweRecord slice 2 bs (if full then b else fire 66 noOne (BitVec.ofNat 32 slice) b)

/-- Take a winner: its record is fixed, its source cleared, and its shadow entry taken (R401, R404). -/
def takeWinner (slice n : Nat) (s : Source') (b : Blk) : Blk :=
  let v := b.view slice
  let b := if 8176 ≤ n then b.updBanked slice (n - 8176) Source'.cleared else b.updSource n Source'.cleared
  let b := if needsShadow s then b.evcU fun e => { e with shadow := e.shadow ++ [{ slice := slice, slot := v.pnTail, ctx := s.ctx }] } else b
  writeRecord slice (pennantBytes n s v.pnPhase) b

/-- PENNANT_RECORD_ISSUE: the next slice in turn has its owed record or its winner written. -/
def execPennantRecordIssue (s : State) : Host.Outcome State Fault Refusal :=
  actUnit pgEVC (fun b =>
    match nextPennant b with
    | none => b
    | some sl =>
      let b := b.evcU fun e => { e with lastSlice := sl }
      match owedRecord b sl with
      | some bs => writeRecord sl bs b
      | none =>
        let held := (competing b sl).head?.any fun e => needsShadow e.2 && shadowFull b
        let b := if held then b.evcU fun e => { e with shadowWaits := e.shadowWaits.bump } else b
        match presented b sl with
        | some (n, src) => takeWinner sl n src b
        | none => b) s

end Sys2Proof.Machine
end

