-- ==== Sys2Proof/Machine/Mailboxes.lean ====
section
/-! DEFINITION. Mailbox channels and lock registers (R407 to R411). -/

namespace Sys2Proof.Machine

/-! ## Channels (R407 to R410) -/

/-- The page of a channel's block. -/
def chanPage (c : Nat) : Nat := if c < 16 then pgMBX + 1 else pgMBX + 2

/-- Is the sender the host side: its slot is H2M. -/
def hostSends : MbxSide → Bool
  | .host _ => true
  | .mp => false

/-- The slot of a direction. -/
def Blk.slot (b : Blk) (h2m : Bool) (c : Nat) : MbxSlot := if h2m then b.mbx.h2m.getD c {} else b.mbx.m2h.getD c {}
/-- Change the slot of a direction. -/
def Blk.updSlot (b : Blk) (h2m : Bool) (c : Nat) (f : MbxSlot → MbxSlot) : Blk :=
  b.mbxU fun m => if h2m then { m with h2m := m.h2m.set c (f (b.slot true c)) } else { m with m2h := m.m2h.set c (f (b.slot false c)) }

/-- A command of one side reaches the channel: a host-side write through its page, or the management processor's own port. -/
def onSide (side : MbxSide) (c : Nat) (b : Blk) (k : Blk → Blk) : Blk :=
  if 32 ≤ c then b
  else match side with
    | .host who => onUnit who (chanPage c) b k
    | .mp => if b.pwr.pstate = 3 ∨ b.pwr.supplies = false then b else k (if b.pwr.pstate = 1 then leaveB1 b else b)

/-- A notice to the host side: its source, or on a secure channel the message of SVEC (R410). -/
def hostNotice (src c : Nat) (b : Blk) : Blk :=
  if c < 16 then fire src noOne (BitVec.ofNat 32 c) b
  else if b.mbx.svecEn then b.emit (.msix 0 b.mbx.svec) else b

/-- A command that the slot's state does not list (R408). -/
def notListed (c : Nat) (b : Blk) : Blk := pageErr (chanPage c) 0x06 b

/-- SEND posts the message in an EMPTY slot, and its notice is delivered. -/
def sendMsg (h2m : Bool) (c : Nat) (b : Blk) : Blk :=
  if (b.slot h2m c).state = .empty then
    let b := b.updSlot h2m c fun s => { s with state := .posted }
    if h2m then b.emit (.mpNotice c) else hostNotice 73 c b
  else notListed c b

/-- WITHDRAW ends a POSTED or TAKEN message; one that meets ACKED is noted (R409). -/
def withdrawMsg (h2m : Bool) (c : Nat) (b : Blk) : Blk :=
  match (b.slot h2m c).state with
  | .posted | .taken => b.updSlot h2m c fun s => { s with state := .empty }
  | .acked => notListed c (b.updSlot h2m c fun s => { s with wdLate := true })
  | .empty => notListed c b

/-- RELEASE returns an ACKED slot to EMPTY. -/
def releaseMsg (h2m : Bool) (c : Nat) (b : Blk) : Blk :=
  if (b.slot h2m c).state = .acked then b.updSlot h2m c fun s => { s with state := .empty } else notListed c b

/-- TAKE marks a POSTED message taken. -/
def takeMsg (h2m : Bool) (c : Nat) (b : Blk) : Blk :=
  if (b.slot h2m c).state = .posted then b.updSlot h2m c fun s => { s with state := .taken } else notListed c b

/-- ACK carries the receiver's code, and its notice goes to the sender. -/
def ackMsg (h2m : Bool) (c : Nat) (code : W16) (b : Blk) : Blk :=
  match (b.slot h2m c).state with
  | .posted | .taken =>
    let b := b.updSlot h2m c fun s => { s with state := .acked, ackCode := code }
    if h2m then hostNotice 74 c b else b.emit (.mpNotice c)
  | _ => notListed c b

/-- MBX_SEND. -/
def execMbxSend (side : MbxSide) (chan : Nat) (s : State) : Host.Outcome State Fault Refusal :=
  act (fun b => onSide side chan b fun b => sendMsg (hostSends side) chan b) s

/-- MBX_WITHDRAW. -/
def execMbxWithdraw (side : MbxSide) (chan : Nat) (s : State) : Host.Outcome State Fault Refusal :=
  act (fun b => onSide side chan b fun b => withdrawMsg (hostSends side) chan b) s

/-- MBX_RELEASE. -/
def execMbxRelease (side : MbxSide) (chan : Nat) (s : State) : Host.Outcome State Fault Refusal :=
  act (fun b => onSide side chan b fun b => releaseMsg (hostSends side) chan b) s

/-- MBX_TAKE: the side given is the receiver. -/
def execMbxTake (side : MbxSide) (chan : Nat) (s : State) : Host.Outcome State Fault Refusal :=
  act (fun b => onSide side chan b fun b => takeMsg (!hostSends side) chan b) s

/-- MBX_ACK: the side given is the receiver. -/
def execMbxAck (side : MbxSide) (chan : Nat) (code : W16) (s : State) : Host.Outcome State Fault Refusal :=
  act (fun b => onSide side chan b fun b => ackMsg (!hostSends side) chan code b) s

/-! ## Locks (R411) -/

/-- The page of a lock. -/
def lockPage (l : Nat) : Nat := if l < 32 then pgMBX else pgMBX + 3

/-- The number that a reader owns a lock under, where it has one. -/
def ownerNumber (b : Blk) (who : Who) : Option Nat :=
  match who with
  | .mp _ => some 0x2000
  | .pf _ _ => if secureWorld b who then some 0x3000 else some 0x1000
  | .remote s => if s = 0 then some 0x1000 else none
  | _ => none

/-- A read of a lock: a free one is acquired, a held one shows its owner. A non-secure read of a secure lock reads all-ones; the debug
port sees a lock at its level without acquiring it. -/
def readLock (who : Who) (l : Nat) (b : Blk) : Blk :=
  if 64 ≤ l then readWord 0 b
  else if 32 ≤ l ∧ secureWorld b who = false ∧ !(isDebug who && decide (3 ≤ b.sec.dbgLevel)) then readWord 0xFFFFFFFF b
  else match b.mbx.locks.get? l with
    | some o => readWord o b
    | none => match ownerNumber b who with
      | some n => readWord 0 (b.mbxU fun m => { m with locks := m.locks.set l n })
      | none => readWord 0 b

/-- LOCK_READ. -/
def execLockRead (who : Who) (lock : Nat) (s : State) : Host.Outcome State Fault Refusal :=
  act (fun b => onRead who (lockPage lock) 4 b fun b =>
    if isDebug who ∧ b.sec.dbgLevel < 2 then readWord 0 b else readLock who lock b) s

/-- A write of a lock: the owner's 0 frees it. -/
def writeLock (who : Who) (l : Nat) (w : W32) (b : Blk) : Blk :=
  match b.mbx.locks.get? l with
  | some o =>
    if ownerNumber b who ≠ some o then pageErr (lockPage l) 0x02 b
    else if w ≠ 0 then pageErr (lockPage l) 0x05 b
    else b.mbxU fun m => { m with locks := m.locks.del l }
  | none => pageErr (lockPage l) 0x02 b

/-- LOCK_FREE_WRITE. -/
def execLockFreeWrite (who : Who) (lock : Nat) (w : W32) (s : State) : Host.Outcome State Fault Refusal :=
  act (fun b => onUnit who (lockPage lock) b fun b => writeLock who lock w b) s

/-- LOCK_BREAK and LOCK_BREAK_S free the named lock, whoever holds it. -/
def breakLock (secure : Bool) (w : W32) (b : Blk) : Blk :=
  let l := bits w.toNat 0 6
  if secure = decide (32 ≤ l) then b.mbxU fun m => { m with locks := m.locks.del l }
  else pageErr (if secure then pgMBX + 3 else pgMBX) 0x05 b

/-- LOCK_BREAK. -/
def execLockBreak (who : Who) (secure : Bool) (w : W32) (s : State) : Host.Outcome State Fault Refusal :=
  act (fun b => onUnit who (if secure then pgMBX + 3 else pgMBX) b fun b => breakLock secure w b) s

end Sys2Proof.Machine
end

