-- ==== Sys2Proof/Machine/Recovery.lean ====
section
/-! DEFINITION. RCV: progress monitors and the culprit, core fault lines, the rungs of the reset ladder, self-tests, and the dump's own
events (R414 to R434). -/

namespace Sys2Proof.Machine

/-! ## Progress monitors (R416 to R419) -/

/-- What a monitor that fires names: cause (Table 13.2), culprit, its slice, unit code, instance and TAG; `page` is the unit that debug may
hold frozen, `key` what it fires at most once for. -/
structure Hang where
  cause : Nat
  ctx : Nat := noOne
  slice : Nat := 0
  unit : Nat
  inst : Nat := 0
  tag : Nat := 0
  page : Nat
  key : Nat × Nat × Nat
deriving DecidableEq, Repr

/-- The page of a unit, as Table 01.1 counts the units, and its code. -/
def unitOf (u : Nat) : Nat × Nat :=
  [(pgGEN, 0x01), (pgPWR, 0x02), (pgSEC, 0x03), (pgHLU, 0x10), (pgQFE, 0x11), (pgCTX, 0x12), (pgFEN, 0x13), (pgEVC, 0x14), (pgMBX, 0x15),
   (pgSCH, 0x20), (pgMAR, 0x21), (pgMDL, 0x22), (pgXLT, 0x23), (pgTRE, 0x24), (pgBWR, 0x25), (pgLMF, 0x30), (pgRCV, 0x40),
   (pgTRC, 0x41)].getD u (pgGEN, 0x01)

/-- STALL_MS in ns. -/
def stallNs (b : Blk) : Nat := b.rcv.stallMs * 1000000

/-- The hang of an item. -/
def itemHang (cause unit page : Nat) (i : Nat) (it : Item) : Hang :=
  { cause := cause, ctx := it.ctx, slice := it.slice, unit := unit, tag := it.tag, page := page, key := (cause, i, it.order) }

/-- The hang of an engine or unit that holds these items: the context of the oldest. -/
def heldHang (b : Blk) (cause unit inst page : Nat) (held : List Nat) : Hang :=
  let its := sortOn (fun it : Item => it.order) (held.filterMap fun i => b.items.get? i)
  match its.head? with
  | some it => { cause := cause, ctx := it.ctx, slice := it.slice, unit := unit, inst := inst, tag := it.tag, page := page,
                 key := (cause, unit * 256 + inst, 0) }
  | none => { cause := cause, unit := unit, inst := inst, page := page, key := (cause, unit * 256 + inst, 0) }

/-- The item that an owner of engine work serves. -/
def ownerItem (b : Blk) : WorkOwner → Option Nat
  | .item i => some i
  | .op r _ => (b.mar.runs.get? r).map (·.item)
  | _ => none

/-- The items of a launch's owner. -/
def launchItem (b : Blk) : LaunchOwner → Option Nat
  | .item i => some i
  | .op r _ => (b.mar.runs.get? r).map (·.item)

/-- The items that a transfer engine holds. -/
def treHeld (b : Blk) (n : Nat) : List Nat :=
  (b.tre.works.filterMap fun e => if e.2.engine = some n then ownerItem b e.2.owner else none) ++
  (b.tre.colls.filterMap fun e => if e.2.engines.contains n ∧ e.2.ended = false then ownerItem b e.2.owner else none)

/-- The items of the launches on the cores that a dispatch port's last words went to. -/
def portHeld (b : Blk) (n : Nat) : List Nat :=
  ((b.sch.words.filter fun w => w.port == n).map fun w =>
    (launchesOn (b.core w.core)).filterMap fun l => (b.sch.launches.get? l).bind fun x => launchItem b x.owner).flatten

/-- A unit of the pipeline monitor holds the item: QFE what is fetched or completing, FEN signals and waits, MDL loads, XLT ranges and what is
stalled on it, SCH launches (Table 13.2). -/
def unitHolds (u : Nat) (it : Item) : Bool :=
  match u with
  | 4 => it.st == .fetched || it.st == .completing
  | 6 => it.opcode == 6 || it.opcode == 7
  | 9 => it.opcode == 1
  | 11 => it.opcode == 9 || it.opcode == 0xA
  | 12 => it.st == .stalled || it.opcode == 0xE || it.opcode == 0xF
  | _ => false

/-- A monitor's condition, with its limit where the state shows when it began; none where it does not hold. Waits that R417 allows never
meet one. -/
def hangOf (b : Blk) : Monitor → Option Hang
  | .faultStall i => (b.items.get? i).bind fun it =>
      if it.stall = some .record ∧ it.stallFt + stallNs b ≤ b.ft then some (itemHang 1 0x23 pgXLT i it) else none
  | .pageStall i => (b.items.get? i).bind fun it => match it.stall with
      | some (.group _) => if it.st = .stalled ∧ it.stallFt + stallNs b ≤ b.ft then some (itemHang 2 0x23 pgXLT i it) else none
      | _ => none
  | .completionStall i => (b.items.get? i).bind fun it =>
      if it.st = .completing ∧ it.complWait ∧ !ctxDestroying b it.ctx ∧ it.stallFt + stallNs b ≤ b.ft then
        some (itemHang 3 0x11 pgQFE i it) else none
  | .engine n =>
      if n < 32 ∧ b.tre.up.getLsbD n ∧ (0 < engItems b n ∨ !(treHeld b n).isEmpty) then some (heldHang b 4 0x24 n pgTRE (treHeld b n)) else none
  | .marionette n =>
      if n < 16 ∧ b.mar.up.getLsbD n ∧ b.mar.runs.any (fun r => r.2.mar == some n) then
        some (heldHang b 4 0x21 n pgMAR ((b.mar.runs.filter fun r => r.2.mar == some n).map (·.2.item)))
      else none
  | .port n =>
      if n < 4 ∧ b.sch.portsUp.getLsbD n ∧ b.sch.words.any (fun w => w.port == n) then some (heldHang b 4 0x20 n pgSCH (portHeld b n)) else none
  | .coreStop c => (b.core c).stop.bind fun st =>
      if st.forced ∧ st.forcedFt + 62000 ≤ b.ft ∧ (b.core c).out = false then
        let its := (launchesOn (b.core c)).filterMap fun l => (b.sch.launches.get? l).bind fun x => launchItem b x.owner
        some { heldHang b 5 0x20 c pgSCH its with key := (5, c, st.forcedFt) }
      else none
  | .launchLimit i => (b.items.get? i).bind fun it =>
      if 0 < b.rcv.launchMs ∧ it.opcode = 1 ∧ it.started ∧ it.result.isNone ∧ it.startFt + b.rcv.launchMs * 1000000 ≤ b.ft then
        some (itemHang 7 0x20 pgSCH i it) else none
  | .teardown c => match b.contexts.get? c with
      | some e =>
        if (e.state = .destroying ∨ e.destroyNext.isSome) ∧ e.destroyFt + stallNs b ≤ b.ft then
          some { cause := 8, ctx := c, slice := e.slice, unit := 0x12, page := pgCTX, key := (8, c, e.destroyFt) }
        else none
      | none => (b.slices.find? fun s => c == noOne && s.2.draining && decide (s.2.drainFt + stallNs b ≤ b.ft)).map fun s =>
          { cause := 8, slice := s.1, unit := 0x12, page := pgCTX, key := (8, 65536 + s.1, s.2.drainFt) }
  | .unitState u => if u < 18 then
        some { cause := 9, unit := (unitOf u).2, page := (unitOf u).1, key := (9, u, b.rcv.hangs.val.toNat) }
      else none
  | .unitPipeline u =>
      if [4, 5, 6, 7, 9, 11, 12].contains u then
        some (heldHang b 10 (unitOf u).2 0 (unitOf u).1 ((b.items.filter fun e => unitHolds u e.2).map (·.1)))
      else none

/-- The target of the rung that runs: a context, an engine by its TARGET, a core (R426). -/
def rungCovers (b : Blk) (ctx engine core : Option Nat) : Bool :=
  match b.rcv.busy with
  | none => false
  | some g => match g.op with
    | 0 => ctx == some g.target
    | 1 => engine == some g.target
    | 2 => (ctx.any fun c => (partContexts b g.target).contains c) || (core.any fun c => (partCores b g.target).contains c)
    | _ => true

/-- A monitor does not fire for the target of a rung that runs, nor for a unit that debug holds frozen (R426, R446). -/
def hangMuted (b : Blk) (h : Hang) : Bool :=
  frozenUnit b h.page ||
  rungCovers b (if h.ctx = noOne then none else some h.ctx) (if h.cause = 4 then some (h.unit * 256 + h.inst) else none)
    (if h.cause = 5 ∨ h.cause = 6 then some h.inst else none)

/-- RCV names a culprit: the CUL registers where none is recorded, source 75, the HANG record and its trigger, and the dump of a hang
(R418, R419). -/
def nameCulprit (h : Hang) (b : Blk) : Blk :=
  let ft := b.ft
  let b := b.rcvU fun r => { r with hangs := r.hangs.bump, fired := r.fired ++ [h.key] }
  let b := if b.rcv.culValid then b
    else b.rcvU fun r => { r with
      culCtx := h.ctx, culSlice := h.slice, culValid := true, culUnit := h.unit, culInst := h.inst, culCause := h.cause, culTag := h.tag
      culFt := ft }
  let b := if h.cause = 9 then pageErr h.page 0x0F b else b
  let b := fire 75 noOne (BitVec.ofNat 32 h.ctx) b
  let b := traceEvent 1 0x10 (if h.ctx = noOne then noOne else h.slice) h.ctx (h.cause + h.unit * 256 + h.inst * 65536) h.tag b
  if b.rcv.dumpOnHang then startDump 1 h.cause h.ctx [] b else b

/-- A core leaves service at once: its work groups are lost, a LAUNCH item on it ends with FAIL_ABORTED, the operations of step programs are
left for their rollback, and nothing waits for the core any more (R419, Table 13.6). -/
def coreLost (c : Nat) (b : Blk) : Blk :=
  let k := b.core c
  let saved : List WorkGroup := match k.restoring with
    | some (x, pos) => (((b.contexts.get? x).bind fun e => e.records.get? pos).map fun r => r.groups).getD []
    | none => []
  let ids := ((k.groups ++ saved).map fun g => g.launch).dedup
  let b := match k.restoring with
    | some (x, pos) => freeRecord x pos b
    | none => b
  let b := b.updCore c fun k => { k with out := true, ctx := none, groups := [], stop := none, restoring := none, window := [] }
  let b := b.xltU fun x => { x with
    holds := x.holds.filter fun h => h.holder != .core c && h.holder != .hlu c
    misses := x.misses.filter fun m => m.core != some c
    invals := x.invals.map fun v => { v with cores := v.cores.filter (· ≠ c) } }
  let b := b.schU fun s => { s with flush := s.flush.map fun f => { f with cores := f.cores.filter (· ≠ c) } }
  ids.foldl (fun b id => match (b.sch.launches.get? id).map (·.owner) with
    | some (LaunchOwner.item _) => stopLaunch id cannotMove b
    | _ => b) b

/-- What RCV does after it has named a culprit (R419). A heartbeat that leads to an engine reset is one single fault absorbed (R428). -/
def actOnHang (h : Hang) (b : Blk) : Blk :=
  match h.cause with
  | 1 | 2 | 3 | 7 => if b.rcv.autoCtx then autoRung 0 h.ctx b else b
  | 4 => if b.rcv.autoEng then autoRung 1 (h.unit * 256 + h.inst) (absorb b) else b
  | 5 => coreLost h.inst b
  | 6 => absorb (coreLost h.inst b)
  | _ => b

/-- MONITOR_FIRE: a monitor whose condition holds fires, once for each item, engine or core and condition (R416). -/
def execMonitorFire (mon : Monitor) (s : State) : Host.Outcome State Fault Refusal :=
  actUnit pgRCV (fun b =>
    match hangOf b mon with
    | none => b
    | some h => if b.rcv.fired.contains h.key ∨ hangMuted b h then b else settle (actOnHang h (nameCulprit h b))) s

/-- CORE_FAULT_LINE: a core that raises its line leaves service; its hang is named unless a rung acts on the core (R416, R426). -/
def execCoreFaultLine (core : Nat) (level : Bool) (s : State) : Host.Outcome State Fault Refusal :=
  act (fun b =>
    if 192 ≤ core ∨ 2 ≤ b.pwr.pstate ∨ b.pwr.supplies = false then b
    else
      let old := (b.core core).faultLine
      let its := (launchesOn (b.core core)).filterMap fun l => (b.sch.launches.get? l).bind fun x => launchItem b x.owner
      let h : Hang := { heldHang b 6 0x20 core pgSCH its with ctx := ((b.core core).ctx).getD noOne, key := (6, core, b.rcv.hangs.val.toNat) }
      let b := b.updCore core fun k => { k with faultLine := level }
      if level = false ∨ old then b
      else if unitsRun b = false then b.updCore core fun k => { k with out := true }
      else if hangMuted b h then settle (absorb (coreLost core b))
      else settle (actOnHang h (nameCulprit h b))) s

/-! ## Rungs on request (R420, R426, R434) -/

/-- A write of RST_CMD. While a rung runs only a block reset is taken; OP 5 to 15 and a target that cannot be reset complete with their
code. -/
def rstCmd (w : W32) (b : Blk) : Blk :=
  let op := bits w.toNat 0 4
  let target := bits w.toNat 16 16
  if op = 3 then beginBlockReset b
  else if b.rcv.busy.isSome then pageErr pgRCV 0x04 b
  else if op = 4 then startDump 0 0 noOne [] (b.rcvU fun r => { r with result := 0 })
  else match rungRefused b op target with
    | some code => b.rcvU fun r => { r with result := code }
    | none => settle (beginRung op target b)

/-- A request from outside: the management processor's own port asks for a block reset alone. -/
def rungRequest (req : RungReq) (block : Bool) (b : Blk) : Blk :=
  match req with
  | .cmd who w => onUnit who pgRCV b fun b => rstCmd w b
  | .mp => if block ∧ b.pwr.pstate < 2 ∧ b.pwr.supplies then beginBlockReset b else b

/-- CONTEXT_RESET. -/
def execContextReset (req : RungReq) (s : State) : Host.Outcome State Fault Refusal := act (fun b => rungRequest req false b) s

/-- ENGINE_RESET. -/
def execEngineReset (req : RungReq) (s : State) : Host.Outcome State Fault Refusal := act (fun b => rungRequest req false b) s

/-- PARTITION_RESET. -/
def execPartitionReset (req : RungReq) (s : State) : Host.Outcome State Fault Refusal := act (fun b => rungRequest req false b) s

/-- BLOCK_RESET. -/
def execBlockReset (req : RungReq) (s : State) : Host.Outcome State Fault Refusal := act (fun b => rungRequest req true b) s

/-- DUMP. -/
def execDump (req : RungReq) (s : State) : Host.Outcome State Fault Refusal := act (fun b => rungRequest req false b) s

/-! ## The dump's own events (R431, R433) -/

/-- DUMP_READ_TIMEOUT. -/
def execDumpReadTimeout (unit word : Nat) (s : State) : Host.Outcome State Fault Refusal :=
  act (fun b => if unit < 18 ∧ word < 8192 ∧ b.pwr.pstate < 2 ∧ b.pwr.supplies then dumpTimeout unit word b else b) s

/-- DUMP_COMPLETE: the dump is written whole; a block reset that waited for it goes on. -/
def execDumpComplete (s : State) : Host.Outcome State Fault Refusal :=
  act (fun b =>
    if b.rcv.dump.isNone ∨ 2 ≤ b.pwr.pstate ∨ b.pwr.supplies = false then b
    else
      let own := b.rcv.dump.any fun d => d.reason == 4
      let b := finishDump b
      if own ∧ b.rcv.blockPhase = 1 then stepBlock (blockLose b) else b) s

/-! ## Self-tests (R422, R424, R454, R459) -/

/-- An engine rung of this target ends with the engine's self-test. -/
def testEnds (target : Nat) (b : Blk) : Blk :=
  let b := b.rcvU fun r => { r with fired := r.fired.filter fun f => !(f.1 == 4 && f.2.1 == target) }
  if b.rcv.busy = some ⟨1, target⟩ then rungEnd b else b

/-- Every engine is being tested: at a start, a wake or a block reset. -/
def allTested (b : Blk) : Bool := b.pwr.starting || b.rcv.blockPhase == 3

/-- An engine has a self-test to end: it is out of service, or every engine is being tested. A failed one is out of service, a passed one in
service. -/
def testDue (b : Blk) (up : Bool) : Bool := !up || allTested b

/-- One bit of a mask set or cleared. -/
def withBit {w : Nat} (m : BitVec w) (n : Nat) (x : Bool) : BitVec w := if x then m ||| (1#w <<< n) else m &&& ~~~(1#w <<< n)

/-- The self-test of the whole block ends: a block reset goes on to its end, a start or a wake has its self-test behind it. One that fails
leaves every engine out of service. -/
def blockTested (pass : Bool) (b : Blk) : Blk :=
  if b.rcv.blockPhase = 3 then settle (endBlockReset pass b)
  else if b.pwr.starting ∧ b.pwr.selfTestDone = false then
    let b := b.pwrU fun p => { p with selfTestDone := true }
    if pass then b
    else
      let b : Blk := { b with pages := b.pages.set pgGEN { b.hdr pgGEN with selftestFail := true } }
      (b.treU fun t => { t with up := 0 }).marU (fun m => { m with up := 0 }) |>.schU fun s => { s with portsUp := 0 }
  else b

/-- SELF_TEST_DONE. -/
def execSelfTestDone (unit : SelfTest) (pass : Bool) (s : State) : Host.Outcome State Fault Refusal :=
  act (fun b =>
    if 2 ≤ b.pwr.pstate ∨ b.pwr.supplies = false then b
    else match unit with
      | .tre n =>
        let up := b.tre.up.getLsbD n
        if n < 32 ∧ testDue b up then
          settle (testEnds (0x2400 + n) (b.treU fun t => { t with up := withBit t.up n pass })) else b
      | .mar n =>
        let up := b.mar.up.getLsbD n
        if n < 16 ∧ testDue b up then
          settle (testEnds (0x2100 + n) (b.marU fun t => { t with up := withBit t.up n pass })) else b
      | .port n =>
        let up := b.sch.portsUp.getLsbD n
        if n < 4 ∧ testDue b up then
          settle (testEnds (0x2000 + n) (b.schU fun t => { t with portsUp := withBit t.portsUp n pass })) else b
      | .block => blockTested pass b) s

end Sys2Proof.Machine
end

