-- ==== Sys2Proof/Machine/Security.lean ====
section
/-! DEFINITION. SEC: delivery records, keys, holds of slices, alarms, debug levels and level-1 grants (R435 to R449). -/

namespace Sys2Proof.Machine

/-! ## Holds (R441) -/

/-- The slices that are held. -/
def heldSlices (b : Blk) : List Nat := (b.sec.sliceKeys.map (·.1)).filter fun s => sliceHeld b s

/-- Every context of a slice is reset, its items ending with FAIL_SECURITY. -/
def resetSlice (slice : Nat) (b : Blk) : Blk :=
  (b.contexts.filter fun e => e.2.slice == slice).foldl (fun b e => beginContextReset e.1 b) b

/-- A change of SEC: every slice that becomes held has its contexts reset. -/
def withHolds (f : Blk → Blk) (b : Blk) : Blk :=
  let before := heldSlices b
  let b := f b
  settle (((heldSlices b).filter fun s => !before.contains s).foldl (fun b s => resetSlice s b) b)

/-- DBG_LEVEL takes a value: FREEZE clears where it now needs a higher level (R489). -/
def setDebug (level : Nat) (b : Blk) : Blk :=
  let b := b.secU fun s => { s with dbgLevel := level }
  { b with pages := b.pages.map fun e => if level < freezeLevel e.1 then (e.1, { e.2 with freeze := false }) else e }

/-! ## Erasure and alarms (R440, R442 to R444) -/

/-- Erase one slice key: the slot's slice takes HOLD_KEY; the slot keeps its GEN. -/
def eraseSlice (slice : Nat) (b : Blk) : Blk :=
  match b.sec.sliceKeys.get? slice with
  | none => b
  | some k => b.secU fun s => { s with
      sliceKeys := s.sliceKeys.set slice { k with key := none, holdKey := k.bound || k.holdKey }
      erasures := if k.key.isSome then s.erasures.bump else s.erasures }

/-- A link-key slot holds a key in some bank. -/
def LinkKey.loaded (k : LinkKey) : Bool := k.bank0.isSome || k.bank1.isSome

/-- Erase every slice key and both banks of every link key. -/
def eraseAll (b : Blk) : Blk :=
  let n := (b.sec.sliceKeys.count fun _ k => k.key.isSome) + b.sec.linkKeys.count fun _ k => k.loaded
  b.secU fun s => { s with
    sliceKeys := s.sliceKeys.mapVals fun _ k => { k with key := none, holdKey := k.bound || k.holdKey }
    linkKeys := s.linkKeys.mapVals fun _ k => { k with bank0 := none, bank1 := none }
    erasures := s.erasures.add n }

/-- The class of a sensor (Table 14.3): 1 A, 2 B, 3 C. -/
def sensorClass (n : Nat) : Nat := if n ≤ 5 then 1 else if n ≤ 7 then 2 else 3

/-- ALARM_MASK keeps a sensor from tripping in DEVELOPMENT; it never masks sensors 4 and 5 (R442). -/
def sensorMasked (b : Blk) (n : Nat) : Bool := b.sec.lifecycle == 0 && b.sec.alarmMask.getLsbD n && n != 4 && n != 5

/-- What every alarm records (R444), with its trace record (R468). -/
def logAlarm (n slice : Nat) (b : Blk) : Blk :=
  let ft := b.ft
  let b := b.secU fun s => { s with
    alarmTripped := s.alarmTripped ||| (1#32 <<< n)
    alarmSensor := n
    alarmClass := sensorClass n
    alarmSlice := if sensorClass n = 2 then slice else s.alarmSlice
    alarmFt := ft }
  if b.pwr.pstate < 2 then traceEvent 3 0x12 noOne noOne (n + sensorClass n * 256) 0 b else b

/-- Every challenge outstanding is cancelled. -/
def cancelChallenges (b : Blk) : Blk :=
  let b := b.secU fun s => { s with chal := none }
  { b with views := b.views.mapVals fun _ v => { v with niChal := none } }

/-- What a class A alarm does (R443). -/
def alarmA (b : Blk) : Blk :=
  let b := cancelChallenges (setDebug 0 (eraseAll b))
  (List.range 32).foldl (fun b p => if portActive b p then downPort p 6 b else b) b

/-- A sensor trips (R443, R444). In B3 it is only logged. -/
def tripSensor (n slice : Nat) (b : Blk) : Blk :=
  if sensorMasked b n then b
  else
    let b := logAlarm n slice b
    if 3 ≤ b.pwr.pstate then b
    else if sensorClass n = 1 then withHolds alarmA b
    else if sensorClass n = 2 then withHolds (eraseSlice slice) b
    else fire 79 noOne (BitVec.ofNat 32 n) b

/-- ALARM_TRIP: a sensor of Table 14.3 that measures; sensors 7 and 9 trip through the records and responses that they count. -/
def execAlarmTrip (sensor slice : Nat) (s : State) : Host.Outcome State Fault Refusal :=
  act (fun b =>
    let exists' := sensor ≤ 10 ∧ sensor ≠ 7 ∧ sensor ≠ 9 ∧ (sensor = 1 → b.pwr.pstate < 3)
    if exists' ∧ (b.pwr.supplies ∨ b.pwr.pstate = 3) ∧ b.pwr.armedFt ≤ b.ft then tripSensor sensor slice b else b) s

/-! ## Delivery records (R436, R438 to R440) -/

/-- SEC answers a record. -/
def answerRecord (code : Nat) (b : Blk) : Blk := b.emit (.deliveryResult code)

/-- A record's reserved fields, and those that its KIND leaves zero, are zero (Table 14.1). -/
def recordOk (r : Bytes) (kind : Nat) : Bool :=
  r.length == 64 && field r 0 1 == kind && zeroSpan r 6 2 &&
  (kind == 3 || field r 1 1 == 0) && (kind == 2 || kind == 3 || kind == 4 || field r 2 2 == 0) && (kind == 5 || field r 5 1 == 0)

/-- A record reaches SEC in B0 to B2. One other than IDENTITY is refused before IDENTITY. -/
def onRecord (kind : Nat) (r : Bytes) (b : Blk) (k : Blk → Blk × Nat) : Blk :=
  if b.pwr.supplies = false ∨ 3 ≤ b.pwr.pstate then b
  else if (kind = 1) = b.sec.identOk then answerRecord 6 b
  else if recordOk r kind = false then answerRecord 1 b
  else (fun x : Blk × Nat => answerRecord x.2 x.1) (k b)

/-- A generation that a slot accepts: above the last one since the start. -/
def genAbove (last : Option Nat) (gen : Nat) : Bool := last.all fun g => decide (g < gen)

/-- The level-1 grant of a slice ends. -/
def endNiMgr (slice : Nat) (b : Blk) : Blk :=
  if b.views.has slice then b.updView slice fun v => { v with niMgr := false } else b

/-- SLICE_KEY: the slice is bound, and HOLD_KEY clears. -/
def loadSliceKey (r : Bytes) (b : Blk) : Blk × Nat :=
  let n := field r 2 2
  let gen := field r 4 1
  let old := b.sec.sliceKeys.get? n
  if 4096 ≤ n then (b, 1)
  else if (b.slices.get? n).all (·.draining) then (b, 2)
  else if genAbove (old.map (·.gen)) gen = false then (b, 3)
  else
    let key := (r.drop 0x20).take 32
    let put (b : Blk) : Blk := b.secU fun s => { s with
      sliceKeys := s.sliceKeys.set n { (old.getD {}) with key := some key, gen := gen, bound := true, holdKey := false } }
    (withHolds (fun b => endNiMgr n (put b)) b, 0)

/-- SLICE_KEY record. -/
def execSliceKey (rec' : Bytes) (s : State) : Host.Outcome State Fault Refusal :=
  act (fun b => onRecord 2 rec' b (loadSliceKey rec')) s

/-- LINK_KEY: a bank of a port's slot. On an ACTIVE port only the bank that is not in use, and this end then toggles its generation bit
(R362). A port that holds no key in its bank takes the bank that was loaded. -/
def loadLinkKey (r : Bytes) (b : Blk) : Blk × Nat :=
  let p := field r 2 2
  let bank := field r 1 1
  let gen := field r 4 1
  let old := b.sec.linkKeys.getD p {}
  if 32 ≤ p ∨ 2 ≤ bank ∨ (portActive b p ∧ bank = (b.port p).keyBank) then (b, 1)
  else if genAbove (if b.sec.linkKeys.has p then some old.gen else none) gen = false then (b, 3)
  else
    let k : LinkBank := { key := (r.drop 0x20).take 32, salt := field r 8 4 }
    let new : LinkKey := if bank = 0 then { old with bank0 := some k, gen := gen } else { old with bank1 := some k, gen := gen }
    let here := if (b.port p).keyBank = 0 then old.bank0 else old.bank1
    let b := b.secU fun s => { s with linkKeys := s.linkKeys.set p new }
    if portActive b p then (b.updPort p fun q => { q with keyGenTx := !q.keyGenTx, keyTx := true }, 0)
    else if here.isNone then (b.updPort p fun q => { q with keyBank := bank }, 0)
    else (b, 0)

/-- LINK_KEY record. -/
def execLinkKey (rec' : Bytes) (s : State) : Host.Outcome State Fault Refusal :=
  act (fun b => onRecord 3 rec' b (loadLinkKey rec')) s

/-- ERASE record: as a class B alarm on that slice (R440). -/
def execErase (rec' : Bytes) (s : State) : Host.Outcome State Fault Refusal :=
  act (fun b => onRecord 4 rec' b fun b =>
    if 4096 ≤ field rec' 2 2 then (b, 1) else (withHolds (eraseSlice (field rec' 2 2)) b, 0)) s

/-! ## Debug levels (R445 to R448) -/

/-- A challenge of a level (R448): a fresh nonce, the level, the chip and the lifecycle state. -/
def newChallenge (b : Blk) (level : Nat) : Challenge :=
  { bits := BitVec.ofNat 128 ((Config.entropy b.free).toNat + level * 2 ^ 96 + b.chip % 1024 * 2 ^ 98 + b.sec.lifecycle % 4 * 2 ^ 108)
    level := level
    expireFt := b.ft + 1000000000 }

/-- The outstanding challenge equals the one that a record answers. -/
def challengeMet (b : Blk) (r : Bytes) (level : Option Nat) : Bool :=
  b.sec.chal.any fun c => decide (b.ft < c.expireFt) && c.bits.toNat == field r 0x10 16 && (level.all fun l => l == c.level)

/-- A DBG_GRANT that answers the challenge sets DBG_LEVEL. -/
def grantDebug (r : Bytes) (b : Blk) : Blk × Nat :=
  let level := field r 5 1
  if level ≠ 2 ∧ level ≠ 3 then (b, 1)
  else if b.sec.lifecycle = 1 then (b, 5)
  else if challengeMet b r (some level) = false then (b, 4)
  else (withHolds (fun b => (setDebug level b).secU fun s => { s with dbgFails := 0, chal := none }) b, 0)

/-- DBG_GRANT record. -/
def execDbgGrant (rec' : Bytes) (s : State) : Host.Outcome State Fault Refusal :=
  act (fun b => onRecord 5 rec' b (grantDebug rec')) s

/-- A DBG_DENY counts; the eighth in a row trips sensor 9, and no challenge is issued for 10 s. -/
def denyDebug (r : Bytes) (b : Blk) : Blk × Nat :=
  if challengeMet b r none = false then (b, 4)
  else
    let n := b.sec.dbgFails + 1
    let until' := b.ft + 10000000000
    let b := b.secU fun s => { s with dbgFails := min 255 n }
    if n % 8 = 0 ∧ sensorMasked b 9 = false then (tripSensor 9 0 (b.secU fun s => { s with lockoutFt := some until' }), 0) else (b, 0)

/-- DBG_DENY record. -/
def execDbgDeny (rec' : Bytes) (s : State) : Host.Outcome State Fault Refusal :=
  act (fun b => onRecord 6 rec' b (denyDebug rec')) s

/-- DBG_REQ: level 2 at once in DEVELOPMENT, a challenge where the lifecycle state allows the level, else a refusal that is counted (Table
14.6). A new request replaces a challenge. -/
def requestDebug (level : Nat) (b : Blk) : Blk :=
  if level = 0 then b
  else if level = 1 then pageErr pgSEC 0x05 b
  else if b.sec.lifecycle = 1 ∨ b.sec.lifecycle = 3 then pageErr pgSEC 0x06 b
  else if b.sec.lifecycle = 0 ∧ level = 2 then withHolds (fun b => (setDebug 2 b).secU fun s => { s with chal := none }) b
  else if b.sec.lockoutFt.isSome then pageErr pgSEC 0x06 b
  else
    let c := newChallenge b level
    { b with free := b.free + 1 }.secU fun s => { s with chal := some c, chalWords := c.bits }

/-- DBG_DROP: DBG_LEVEL 0, and no challenge. -/
def dropDebug (b : Blk) : Blk := withHolds (fun b => (setDebug 0 b).secU fun s => { s with chal := none }) b

/-- A write of the word with DBG_REQ and DBG_DROP: only the debug port requests a level, it and the secure world drop it. -/
def debugWord (who : Who) (w : W32) (b : Blk) : Blk :=
  match gatePower who pgSEC true b with
  | (b, false) => b
  | (b, true) =>
    if isDebug who ∨ secureWorld b who then
      let level := bits w.toNat 2 2
      let b := if bit w.toNat 4 then dropDebug b else b
      if level = 0 then b
      else if isDebug who then requestDebug level b
      else pageErr pgSEC 0x02 b
    else pageErr pgSEC 0x02 b

/-- DBG_REQ. -/
def execDbgReq (who : Who) (w : W32) (s : State) : Host.Outcome State Fault Refusal := act (fun b => debugWord who w b) s

/-- DBG_DROP. -/
def execDbgDrop (who : Who) (w : W32) (s : State) : Host.Outcome State Fault Refusal := act (fun b => debugWord who w b) s

/-- CHALLENGE_EXPIRY: of the debug challenge, or of a slice's level-1 challenge. -/
def execChallengeExpiry (slice : OptNat) (s : State) : Host.Outcome State Fault Refusal :=
  act (fun b =>
    let due (c : Option Challenge) : Bool := c.any fun c => decide (c.expireFt ≤ b.ft)
    if b.pwr.supplies = false ∧ b.pwr.pstate < 3 then b
    else match slice with
    | none => if due b.sec.chal then b.secU fun s => { s with chal := none } else b
    | some n => if due (b.view n).niChal then b.updView n fun v => { v with niChal := none } else b) s

/-- DEBUG_LOCKOUT_EXPIRY (Table 14.3, sensor 9). -/
def execDebugLockoutExpiry (s : State) : Host.Outcome State Fault Refusal :=
  act (fun b => if (b.pwr.supplies || b.pwr.pstate == 3) && b.sec.lockoutFt.any fun t => decide (t ≤ b.ft) then b.secU fun s => { s with lockoutFt := none } else b) s

/-! ## Level 1 (R449) -/

/-- The access is the manager's, through the physical function. -/
def isManager (b : Blk) : Who → Bool
  | .pf _ _ => true
  | .remote s => s == 0
  | .debug => decide (2 ≤ b.sec.dbgLevel)
  | _ => false

/-- The manager asks for level 1: at once for an unbound slice, by a challenge for a bound one. -/
def requestNi (slice : Nat) (b : Blk) : Blk :=
  if (b.sec.sliceKeys.get? slice).any (·.bound) then
    let c := newChallenge b 1
    { b with free := b.free + 1 }.updView slice fun v => { v with niChal := some c, niChalWords := c.bits }
  else b.updView slice fun v => { v with niMgr := true }

/-- A write of the word with NI_SELF, NI_MGR_REQ and NI_MGR_DROP: the slice's own function alone writes NI_SELF, the manager alone
requests. -/
def niWord (who : Who) (slice : Nat) (w : W32) (b : Blk) : Blk :=
  let v := w.toNat
  let own := ownAccess b who slice
  let mgr := isManager b who
  let b := if own then b.updView slice fun x => { x with niSelf := bit v 0 }
    else if bit v 2 ∨ bit v 3 then b
    else errFrom who slice pgSEC 0x02 b
  let b := if bit v 2 = false then b else if mgr then requestNi slice b else errFrom who slice pgSEC 0x02 b
  if bit v 3 then endNiMgr slice b else b

/-- NI_SELF_WRITE. -/
def execNiSelfWrite (who : Who) (page : Nat) (w : W32) (s : State) : Host.Outcome State Fault Refusal :=
  act (fun b => onView who page pgSEC b fun sl b => niWord who sl w b) s

/-- NI_MGR_REQ. -/
def execNiMgrReq (who : Who) (page : Nat) (w : W32) (s : State) : Host.Outcome State Fault Refusal :=
  act (fun b => onView who page pgSEC b fun sl b => niWord who sl w b) s

/-- NI_MGR_DROP. -/
def execNiMgrDrop (who : Who) (page : Nat) (w : W32) (s : State) : Host.Outcome State Fault Refusal :=
  act (fun b => onView who page pgSEC b fun sl b => niWord who sl w b) s

/-- The response to a challenge under a slice's key: the AES-256-CMAC of its 16 bytes. -/
def responseOf (key : Bytes) (c : Challenge) : Nat := leNat (cmacBlock key (leBytes 16 c.bits.toNat))

/-- A response is submitted: it grants NI_MGR, or counts as a failure, the eighth in a row tripping sensor 7 for the slice. -/
def submitNi (who : Who) (slice : Nat) (w : W32) (b : Blk) : Blk :=
  let b := b.updView slice fun v => { v with niResp := v.niResp.set 3 w }
  let v := b.view slice
  match v.niChal, b.sec.sliceKeys.get? slice with
  | some c, some k =>
    if c.expireFt ≤ b.ft then errFrom who slice pgSEC 0x06 b
    else
      let given := v.niResp.foldr (fun x n => x.toNat + n * 2 ^ 32) 0
      if k.key.any fun key => responseOf key c == given then
        (b.secU fun s => { s with sliceKeys := s.sliceKeys.set slice { k with fails := 0 } }).updView slice fun v =>
          { v with niMgr := true, niChal := none }
      else
        let n := k.fails + 1
        let b := b.secU fun s => { s with sliceKeys := s.sliceKeys.set slice { k with fails := min 255 n } }
        if n % 8 = 0 then tripSensor 7 slice b else b
  | _, _ => errFrom who slice pgSEC 0x06 b

/-- NI_RESP_SUBMIT: the write of response word 3. -/
def execNiRespSubmit (who : Who) (page : Nat) (w : W32) (s : State) : Host.Outcome State Fault Refusal :=
  act (fun b => onView who page pgSEC b fun sl b => submitNi who sl w b) s

end Sys2Proof.Machine
end

