-- ==== Sys2Proof/Machine/Power.lean ====
section
/-! DEFINITION. PWR: idling, retention, off, wakes, starts and readiness; IDENTITY; the retained store's seal; GEN_CHIP (R33, R48,
R425, R435, R436, R450 to R464). -/

namespace Sys2Proof.Machine

/-! ## Idling (R451) -/

/-- What B1 asks for: no item, no run, no core with work groups, no dump or rung. -/
def blockIdle (b : Blk) : Bool :=
  b.items.isEmpty && b.mar.runs.isEmpty && (b.sch.cores.all fun e => e.2.groups.isEmpty) && b.rcv.dump.isNone && b.rcv.busy.isNone &&
  b.rcv.blockPhase == 0

/-- B1_ENTRY: the block has idled for IDLE_B1_US. -/
def execB1Entry (s : State) : Host.Outcome State Fault Refusal :=
  act (fun b =>
    if b.pwr.supplies ∧ b.pwr.pstate = 0 ∧ b.pwr.ready ∧ b.pwr.graceFt.isNone ∧ 0 < b.pwr.idleB1Us ∧ blockIdle b ∧
        b.pwr.idleFt + b.pwr.idleB1Us * 1000 ≤ b.ft then
      b.pwrU fun p => { p with pstate := 1, b1Entries := p.b1Entries.bump }
    else b) s

/-- A request-channel packet that returns the block from B1: every type but FSIG and SESSION. -/
def packetWakes (typ : Nat) : Bool := [0x01, 0x02, 0x03, 0x05, 0x06, 0x07].contains typ

/-- B1_EXIT. -/
def execB1Exit (cause : B1Cause) (s : State) : Host.Outcome State Fault Refusal :=
  act (fun b => match cause with
    | .packet typ => if packetWakes typ then leaveB1 b else b
    | .hostTlp => leaveB1 b
    | .register => leaveB1 b
    | .fire => leaveB1 b) s

/-! ## Entry to B2 and B3 (R452, R455) -/

/-- A store has been accepted and waits for its translation. -/
def storeWaits (b : Blk) : Bool :=
  let isWrite (s : Stream) : Bool := match s with
    | .write _ _ _ => true
    | _ => false
  (b.xlt.atsWaits.any fun w => isWrite w.stream) || b.xlt.batches.any fun t => t.pages.any fun p => p.streams.any isWrite

/-- The REFUSE bits (Table 14.12). -/
def refuseBits (b : Blk) : BitVec 7 :=
  let f (n : Nat) (x : Bool) : Nat := if x then 2 ^ n else 0
  BitVec.ofNat 7 (f 0 (!b.items.isEmpty) + f 1 (storeWaits b) +
    f 2 (b.queues.any fun e => e.2.isSq && (e.2.head != e.2.tail || e.2.fetch.isSome)) +
    f 3 (!b.mar.runs.isEmpty || !b.mar.seqs.isEmpty) + f 4 (b.contexts.any fun e => !e.2.records.isEmpty) +
    f 5 (!b.xlt.dirty.isEmpty) +
    f 6 (b.rcv.dump.isSome || b.rcv.busy.isSome || !b.rcv.waitingRungs.isEmpty || !b.mdl.waiting.isEmpty ||
      b.mdl.models.any fun e => e.2.state == .loading || e.2.state == .repairing))

/-- PCMD ENTER_B2 or ENTER_B3: refused where REFUSE has a bit, else the grace begins. -/
def enterLow (toB3 : Bool) (b : Blk) : Blk :=
  let r := refuseBits b
  let ft := b.ft
  if r ≠ 0 then b.pwrU fun p => { p with presult := 0x17, refuse := r }
  else b.pwrU fun p => { p with presult := 0, refuse := 0, graceFt := some (ft + 10000), toB3 := toB3 }

/-- Every model slice is registered only, and its pieces lose their owner; the translation and descriptor caches are empty. -/
def dropCaches (b : Blk) : Blk :=
  let first := b.own.pushNext
  let b := b.mdl.models.foldl (fun b e => if e.2.holds then freeModelBlocks e.1 b else b) b
  let b := (b.own.pushes.filter fun p => decide (first ≤ p.id)).foldl (fun b p => applyPush p b) b
  (b.xltU fun x => { x with hostCache := [], rangeCache := [] }).schU fun s => { s with
    descCache := []
    cores := s.cores.mapVals fun _ k => { k with window := [] } }

/-- Every port that is not OFF goes there, with nothing fired and DOWN_CAUSE as it was (R372). -/
def allPortsOff (b : Blk) : Blk :=
  let b := b.lmfU fun l => { l with sendq := [] }
  (List.range 32).foldl (fun b n =>
    if (b.port n).state = .off then b else portOff n (b.updPort n fun q => { q with replay := [], queue := [] })) b

/-! ## What the retained store holds (R462, Table 14.8) -/

/-- A port's fields in the store: the dateline, and its calibration. -/
def Port.stored (q : Port) : Port := { dateline := q.dateline, calibrated := q.calibrated }

/-- LMF's fields in the store. -/
def Lmf.stored (l : Lmf) : Lmf :=
  { txnTimeoutUs := l.txnTimeoutUs, rootPrio := l.rootPrio, portEn := l.portEn, ports := l.ports.mapVals fun _ q => q.stored
    routes := l.routes }

/-- PWR's fields in the store, and the store itself. -/
def Pwr.stored (p : Pwr) : Pwr := { idleB1Us := p.idleB1Us, retained := p.retained }

/-- RCV's fields in the store. -/
def Rcv.stored (r : Rcv) : Rcv :=
  { stallMs := r.stallMs, engineUs := r.engineUs, launchMs := r.launchMs, autoCtx := r.autoCtx, autoEng := r.autoEng
    dumpOnReset := r.dumpOnReset, dumpOnHang := r.dumpOnHang, dumpBase := r.dumpBase, blockResets := r.blockResets
    brDiscards := r.brDiscards }

/-- SEC without its keys, grants and challenges: what the debug port reads in B3. -/
def Sec.off (s : Sec) : Sec :=
  { lifecycle := s.lifecycle, identOk := s.identOk, securePasid := s.securePasid, dbgFails := s.dbgFails, keySel := s.keySel
    keySelLink := s.keySelLink, alarmMask := s.alarmMask, alarmTripped := s.alarmTripped, alarmSensor := s.alarmSensor
    alarmClass := s.alarmClass, alarmSlice := s.alarmSlice, alarmFt := s.alarmFt, erasures := s.erasures, lockoutFt := s.lockoutFt }

/-- The block without the core supply: every field marked Ret Y keeps its value, the rest is at reset. Memory, the packages outside and
the model's own counters stay. -/
def Blk.stored (b : Blk) : Blk :=
  { ft := b.ft, free := b.free, out := b.out, mem := b.mem, uncorr := b.uncorr, chip := b.chip
    pwr := b.pwr.stored
    hlu := { cplToMs := b.hlu.cplToMs, vfEnable := b.hlu.vfEnable, numVfs := b.hlu.numVfs }
    ctx := { base := b.ctx.base, tablesEn := b.ctx.tablesEn, td := b.ctx.td, tdLog2 := b.ctx.tdLog2 }
    xlt := { area := b.xlt.area, areaEn := b.xlt.areaEn }
    sch := { lwa := b.sch.lwa, cores := b.sch.cores.mapVals fun _ k => { faultLine := k.faultLine, out := k.faultLine } }
    mdl := { rows := b.mdl.rows, storeBlocks := b.mdl.storeBlocks, storeEn := b.mdl.storeEn }
    bwr := b.bwr.keptBlock b.ft
    evc := { lines := b.evc.lines, sources := b.evc.sources.mapVals fun _ s => s.config }
    trc := { mode := b.trc.mode, frozen := b.trc.frozen, base := b.trc.base, log2 := b.trc.log2, postCount := b.trc.postCount
             kindMask := b.trc.kindMask }
    lmf := b.lmf.stored
    rcv := b.rcv.stored }

/-- B3: nothing but the always-on domain; no key is left. -/
def goB3 (b : Blk) : Blk :=
  let b := eraseAll b
  { b.stored with
    sec := b.sec.off
    pwr := { b.pwr.stored with pstate := 3, armedFt := b.pwr.armedFt } }

/-- The grace is over: steps 3 to 5 of R452, or B3's own steps. -/
def endGrace (b : Blk) : Blk :=
  let toB3 := b.pwr.toB3
  let b := b.pwrU fun p => { p with graceFt := none, toB3 := false }
  let b := allPortsOff (dropCaches b)
  if toB3 then (goB3 b).emit .coreSupplyMayGo
  else b.pwrU fun p => { p with pstate := 2, b2Entries := p.b2Entries.bump }

/-- B2_GRACE_END. -/
def execB2GraceEnd (s : State) : Host.Outcome State Fault Refusal :=
  act (fun b => if b.pwr.supplies && b.pwr.graceFt.any fun t => decide (t ≤ b.ft) then endGrace b else b) s

/-- CORE_SUPPLY_LOSS: B3 at once, with no checks. -/
def execCoreSupplyLoss (s : State) : Host.Outcome State Fault Refusal :=
  act (fun b => if b.pwr.supplies ∧ b.pwr.pstate < 3 then goB3 b else b) s

/-! ## Starts (R456 to R460) -/

/-- Ports of a mask start their bring-up. -/
def bringUp (mask : BitVec 32) (b : Blk) : Blk :=
  (List.range 32).foldl (fun b n => if mask.getLsbD n then startCal n b else b) b

/-- A cold start: everything at its reset value, the store unsealed, calibration on every port. -/
def coldStart (b : Blk) : Blk :=
  let n : Blk := { ft := b.ft, free := b.free, out := b.out, mem := b.mem, uncorr := b.uncorr
                   hlu := { vfEnable := b.hlu.vfEnable, numVfs := b.hlu.numVfs }
                   evc := { lines := b.evc.lines }
                   sch := { cores := b.sch.cores.mapVals fun _ k => { faultLine := k.faultLine, out := k.faultLine } }
                   pwr := { supplies := true, starting := true, coldStart := true, armedFt := b.pwr.armedFt } }
  bringUp (BitVec.allOnes 32) n

/-- A warm start: the Ret Y fields, and the enabled ports from their retained calibration. -/
def warmStart (b : Blk) : Blk :=
  let n : Blk := { b.stored with
    pwr := { b.pwr.stored with supplies := true, starting := true, startKind := 1, rsValid := true, armedFt := b.pwr.armedFt } }
  let n := if n.mdl.storeEn then openStore n else n
  elect (bringUp n.lmf.portEn n)

/-- A start: warm where the store is sealed and whole, else cold. Fabric time counts from 0; the alarm sensors are armed 10 µs after the
always-on supply became valid (R50, R442). -/
def startUp (b : Blk) : Blk :=
  let armed := if b.pwr.pstate = 3 then 0 else 10000
  let b : Blk := { b with ft := 0, pwr := { b.pwr with armedFt := armed } }
  if b.pwr.retained.sealed' ∧ b.pwr.retained.crcOk then warmStart b else coldStart b

/-- SUPPLIES_VALID. -/
def execSuppliesValid (s : State) : Host.Outcome State Fault Refusal :=
  act (fun b => if b.pwr.supplies then b else startUp b) s

/-- The slice and partition entries return from the store with granted counts 0, and are written to the carve-out (R109, Table
14.8). -/
def restoreTables (b : Blk) : Blk :=
  let back (e : Slice) : Slice := { e with
    spGranted := 0, hbmGranted := 0, deficit := 0, lastSlot := [511, 511, 511, 511], drainPhase := if e.draining then 1 else 0, drainFt := b.ft }
  let b : Blk := { b with
    slices := b.pwr.retained.slices.mapVals fun _ e => back e
    partitions := b.pwr.retained.partitions.mapVals fun _ e => { e with hbmGranted := 0, spGranted := 0 }
    views := b.pwr.retained.slices.map fun e => (e.1, ({} : View)) }
  let b := b.partitions.foldl (fun b e => syncPartition e.1 b) b
  settle (b.slices.foldl (fun b e => syncSlice e.1 b) b)

/-- IDENTITY is taken in: SEC holds what it says, and the store's header what SEC holds. -/
def takeIdentity (lifecycle n pasid : Nat) (b : Blk) : Blk :=
  let b := b.secU fun s => { s with lifecycle := lifecycle, identOk := true, securePasid := pasid }
  { b with chip := n, pwr := { b.pwr with retained := { b.pwr.retained with lifecycle := lifecycle, chip := n } } }

/-- An IDENTITY record: a warm start goes on where it matches the store, and as a cold start where it does not (R436, R458). -/
def identity (r : Bytes) (b : Blk) : Blk × Nat :=
  let a := field r 8 4
  let pasid := field r 12 4
  let lifecycle := bits a 0 2
  let n := bits a 2 10
  if lifecycle = 3 ∨ 2 ^ 12 ≤ a ∨ 2 ^ 20 ≤ pasid then (b, 1)
  else if b.pwr.startKind = 1 then
    if b.pwr.retained.lifecycle = lifecycle ∧ b.pwr.retained.chip = n then (restoreTables (takeIdentity lifecycle n pasid b), 0)
    else
      let tested := b.pwr.selfTestDone
      ((takeIdentity lifecycle n pasid (coldStart b)).pwrU fun p => { p with selfTestDone := tested }, 0)
  else (takeIdentity lifecycle n pasid b, 0)

/-- IDENTITY record. -/
def execIdentity (rec' : Bytes) (s : State) : Host.Outcome State Fault Refusal :=
  act (fun b => onRecord 1 rec' b (identity rec')) s

/-- START_GO: bit 2 of its word, on a cold start. -/
def execStartGo (who : Who) (w : W32) (s : State) : Host.Outcome State Fault Refusal :=
  act (fun b => onUnit who pgPWR b fun b =>
    if w.getLsbD 2 ∧ b.pwr.starting ∧ b.pwr.coldStart then b.pwrU fun p => { p with startGo := true } else b) s

/-- The conditions of R459. Calibration of a port has ended once the port has left CAL. -/
def readyNow (b : Blk) : Bool :=
  b.sec.identOk && b.pwr.selfTestDone &&
  (!b.pwr.coldStart || b.pwr.startGo && (List.range 32).all fun n => (b.port n).state != .cal) &&
  ((List.range 32).all fun n => !portEnabled b n || (b.port n).state == .active || (b.port n).state == .down) &&
  (((List.range 32).all fun n => !portActive b n) || b.lmf.ftState == .locked || b.lmf.stratum == 0)

/-- The wake is over: its cause shows, source 80 fires, and pinned model slices reload (R454). -/
def endWake (b : Blk) : Blk :=
  let c := b.pwr.wakePending.getD (0, 0)
  let b := b.pwrU fun p => { p with wakeCause := c.1, wakeLine := if c.1 = 2 then c.2 else p.wakeLine, wakePending := none }
  let b := fire 80 noOne (BitVec.ofNat 32 c.1) b
  b.mdl.models.foldl (fun b e => if e.2.pinned then requestLoad e.1 6 none b else b) b

/-- READY_REPORT. -/
def execReadyReport (s : State) : Host.Outcome State Fault Refusal :=
  act (fun b =>
    if b.pwr.supplies ∧ b.pwr.starting ∧ readyNow b then
      let ft := b.ft
      let b := b.pwrU fun p => { p with ready := true, readyFt := ft, idleFt := ft, starting := false }
      if b.pwr.startKind = 2 then endWake b else b
    else b) s

/-! ## Wakes (R453, R454) -/

/-- Core lines that are low return their cores to service, as every engine is tested again. -/
def retestEngines (b : Blk) : Blk :=
  let b := (b.treU fun t => { t with up := BitVec.allOnes 32 }).marU fun m => { m with up := BitVec.allOnes 16 }
  let b := b.schU fun s => { s with portsUp := BitVec.allOnes 4 }
  (b.sch.cores.map (·.1)).foldl (fun b c => coreReturns c b) b

/-- A wake from B2, for the cause of Table 14.12: as a warm start where HBM lost its contents. -/
def wake (cause line : Nat) (hbmLost : Bool) (b : Blk) : Blk :=
  if b.pwr.pstate ≠ 2 then b
  else if hbmLost then
    startUp { b with mem := b.mem.filter fun c => decide (2 ^ 46 ≤ c.1), uncorr := b.uncorr.filter fun l => decide (2 ^ 46 ≤ l * 64)
                     pwr := { b.pwr with pstate := 3 } }
  else
    let ft := b.ft
    let b := b.pwrU fun p => { p with
      pstate := 0, starting := true, ready := false, selfTestDone := false, startKind := 2, coldStart := false, wakeCause := 0
      wakePending := some (cause, line) }
    let b := b.xltU fun x => { x with epoch := x.epoch + 1 }
    let b := b.lmfU fun l => { l with
      ftState := .free, stratum := 15, followPrio := 255, slew := 0, txn := [], lost := [], joined := false, joinFt := ft }
    elect (bringUp b.lmf.portEn (retestEngines b))

/-- A write of PCMD: 1 and 2 in B0 once the block is ready, 3 in B2. The debug port may write 3 at any level (R464). -/
def pcmdWord (who : Who) (w : W32) (hbmLost : Bool) (b : Blk) : Blk :=
  let c := bits w.toNat 0 2
  match gatePower who pgPWR true b with
  | (b, false) => b
  | (b, true) =>
    if c = 3 then
      if ownsUnit b who pgPWR ∨ isDebug who then wake (if isDebug who then 5 else 3) 0 hbmLost b else pageErr pgPWR 0x02 b
    else if ownsUnit b who pgPWR = false then pageErr pgPWR 0x02 b
    else if c = 0 then b
    else if b.pwr.pbusy then pageErr pgPWR 0x04 b
    else if 2 ≤ b.pwr.pstate ∨ b.pwr.ready = false then pageErr pgPWR 0x06 b
    else enterLow (c == 2) b

/-- ENTER_B2. -/
def execEnterB2 (who : Who) (w : W32) (s : State) : Host.Outcome State Fault Refusal := act (fun b => pcmdWord who w false b) s

/-- ENTER_B3. -/
def execEnterB3 (who : Who) (w : W32) (s : State) : Host.Outcome State Fault Refusal := act (fun b => pcmdWord who w false b) s

/-- WAKE. -/
def execWake (cause : WakeCause) (hbmLost : Bool) (s : State) : Host.Outcome State Fault Refusal :=
  act (fun b => match cause with
    | .hostTlp => wake 1 0 hbmLost b
    | .wired l => if b.pwr.wakePending = some (2, l) then wake 2 l hbmLost b else b
    | .mp => wake 3 0 hbmLost b
    | .time => if b.pwr.wakeAt ≠ 0 ∧ b.pwr.wakeAt ≤ b.ft then wake 4 0 hbmLost b else b
    | .pcmd who w => pcmdWord who w hbmLost b) s

/-! ## The seal, the chip number, and a power cycle (R33, R425, R463) -/

/-- RS_SEAL_WRITE. -/
def execRsSealWrite (who : Who) (w : W32) (s : State) : Host.Outcome State Fault Refusal :=
  act (fun b => onUnit who pgPWR b fun b => unlessLocked pgPWR b fun b =>
    b.pwrU fun p => { p with retained := { p.retained with sealed' := w.getLsbD 0 } }) s

/-- GEN_CHIP_WRITE. -/
def execGenChipWrite (who : Who) (w : W32) (s : State) : Host.Outcome State Fault Refusal :=
  act (fun b => onUnit who pgGEN b fun b => unlessLocked pgGEN b fun b =>
    if (List.range 32).any fun n => portActive b n then pageErr pgGEN 0x06 b
    else
      let n := bits w.toNat 0 10
      let b : Blk := { b with chip := n, pwr := { b.pwr with retained := { b.pwr.retained with chip := n } } }
      if b.lmf.rootPrio < 255 then elect b else b) s

/-- POWER_CYCLE: nothing inside the package is left. -/
def execPowerCycle (s : State) : Host.Outcome State Fault Refusal :=
  act (fun b => { free := b.free, out := b.out, mem := b.mem.filter fun c => decide (2 ^ 47 ≤ c.1) }) s

end Sys2Proof.Machine
end

