-- ==== Sys2Proof/Machine/TracePages.lean ====
section
/-! DEFINITION. Writes of TRC's registers: triggers, arming, marks, modes, the head of the device buffer, and slice rings (R472 to
R474, R478, R479). -/

namespace Sys2Proof.Machine

/-- ARM: the buffer starts anew in the mode it has (R474). -/
def armTrace (b : Blk) : Blk :=
  if b.trc.postPhase then pageErr pgTRC 0x06 b
  else b.trcU fun t => { t with frozen := false, postPhase := false, wrapped := false, head := 0, tail := 0, written := 0 }

/-- A write of the word with ARM and TRG_NOW. An ARM beside a trigger is ignored and counted. -/
def trcWord60 (w : W32) (b : Blk) : Blk :=
  if w.getLsbD 1 then
    let b := if w.getLsbD 0 then pageErr pgTRC 0x06 b else b
    traceTrigger 0 b
  else if w.getLsbD 0 then armTrace b
  else b

/-- TRG_NOW. -/
def execTrgNow (who : Who) (w : W32) (s : State) : Host.Outcome State Fault Refusal :=
  act (fun b => onUnit who pgTRC b fun b => trcWord60 w b) s

/-- ARM. -/
def execArm (who : Who) (w : W32) (s : State) : Host.Outcome State Fault Refusal :=
  act (fun b => onUnit who pgTRC b fun b => trcWord60 w b) s

/-- MARK: a record with the value written. -/
def execMark (who : Who) (w : W32) (s : State) : Host.Outcome State Fault Refusal :=
  act (fun b => onUnit who pgTRC b fun b => traceRec 0x1F noOne noOne w.toNat 0 false b) s

/-- Room has appeared in the device buffer: the GAP record that is owed (R472). -/
def settleGap (b : Blk) : Blk :=
  if b.trc.mode = 1 ∧ b.trc.frozen = false ∧ b.trc.postPhase = false ∧ 0 < b.trc.gap ∧ b.trc.room then gapDone (tracePut (gapRec b) b)
  else b

/-- TB_HEAD_WRITE. -/
def execTbHeadWrite (who : Who) (w : W32) (s : State) : Host.Outcome State Fault Refusal :=
  act (fun b => onUnit who pgTRC b fun b =>
    let h := bits w.toNat 0 20
    let n := b.trc.size
    let t := b.trc
    if b.trc.mode = 1 ∧ (n ≤ h ∨ (t.tail + n - t.head % n) % n < (h + n - t.head % n) % n) then pageErr pgTRC 0x05 b
    else settleGap (b.trcU fun t => { t with head := h })) s

/-- TB_MODE_WRITE: only to off or from off (R478). -/
def execTbModeWrite (who : Who) (w : W32) (s : State) : Host.Outcome State Fault Refusal :=
  act (fun b => onUnit who pgTRC b fun b => unlessLocked pgTRC b fun b =>
    let m := bits w.toNat 0 2
    if m = b.trc.mode ∨ m = 0 ∨ b.trc.mode = 0 then b.trcU fun t => { t with mode := m } else pageErr pgTRC 0x06 b) s

/-! ## Slice rings (R479) -/

/-- Room has appeared in a slice's ring: the GAP record that is owed. -/
def settleStGap (slice : Nat) (b : Blk) : Blk :=
  let v := b.view slice
  if v.stEn ∧ 0 < v.stGap ∧ (v.stTail + 1) % v.stSize ≠ v.stHead % v.stSize then
    (stPut slice (traceBytes b 0x1E slice noOne v.stGap v.stGapFt false) b).updView slice fun v => { v with stGap := 0 }
  else b

/-- ST_HEAD. -/
def stClaim (who : Who) (slice : Nat) (w : W32) (b : Blk) : Blk :=
  let v := b.view slice
  let h := bits w.toNat 0 16
  let n := v.stSize
  if n ≤ h ∨ (v.stTail + n - v.stHead % n) % n < (h + n - v.stHead % n) % n then errFrom who slice pgTRC 0x05 b
  else settleStGap slice (b.updView slice fun v => { v with stHead := h })

/-- ST_HEAD_WRITE. -/
def execStHeadWrite (who : Who) (page : Nat) (w : W32) (s : State) : Host.Outcome State Fault Refusal :=
  act (fun b => onView who page pgTRC b fun sl b => settle (stClaim who sl w b)) s

/-- A slice's ring lies in the host window or in one range of the slice. -/
def stPlaced (b : Blk) (slice base log2 : Nat) : Bool :=
  let n := 32 * 2 ^ (log2 + 6)
  (decide (2 ^ 56 ≤ base) && decide (base + n ≤ 2 ^ 57)) ||
  (match findRange b slice base with
   | some (_, r) => decide (base + n ≤ r.start + r.len)
   | none => false)

/-- The word with ST_LOG2 and ST_EN: ST_LOG2 changes only while ST_EN is 0. -/
def stEnable (who : Who) (slice : Nat) (w : W32) (b : Blk) : Blk :=
  let v := b.view slice
  let log2 := bits w.toNat 0 4
  let on := bit w.toNat 4
  if v.stEn then
    let b := b.updView slice fun v => { v with stEn := on }
    if log2 = v.stLog2 then b else errFrom who slice pgTRC 0x06 b
  else if 10 < log2 then errFrom who slice pgTRC 0x05 b
  else if on = false then b.updView slice fun v => { v with stLog2 := log2 }
  else if stPlaced b slice v.stBase log2 = false then errFrom who slice pgTRC 0x05 b
  else b.updView slice fun v => { v with stLog2 := log2, stEn := true, stHead := 0, stTail := 0 }

/-- ST_EN_WRITE. -/
def execStEnWrite (who : Who) (page : Nat) (w : W32) (s : State) : Host.Outcome State Fault Refusal :=
  act (fun b => onView who page pgTRC b fun sl b => stEnable who sl w b) s

end Sys2Proof.Machine
end

