-- ==== Sys2Proof/Machine/Registers.lean ====
section
/-! DEFINITION. The register window: reads with their latches (R447, R477, R480, R490, R491), page locks, freezes and error clears (R484,
R488, R489), and the write of any register word (R481, R486 to R497). -/

namespace Sys2Proof.Machine

/-! ## Reads -/

/-- The view page that an offset lies in, as its window numbers pages, and the offset within it: a virtual function's window holds view
pages alone (R52, R480). -/
def viewAt (who : Who) (off : Nat) : Option (Nat × Nat) :=
  match who with
  | .vf _ _ => some (off / 4096, off % 4096)
  | _ => if 0x1000000 ≤ off ∧ off < 0x2000000 then some ((off - 0x1000000) / 4096, off % 4096) else none

/-- An X_LO whose read latches X_HI. -/
def pairAt (pg rel : Nat) : Bool :=
  (pg == pgGEN && rel == 0x48) || (pg == pgPWR && rel == 0x68) || (pg == pgSEC && rel == 0x70) || (pg == pgFEN && rel == 0x68) ||
  (pg == pgXLT && rel == 0x60) || (pg == pgRCV && rel == 0x6C) || (pg == pgTRC && rel == 0x74) ||
  (pg == pgMAR && decide (0x68 ≤ rel) && decide (rel < 0x160) && rel % 16 == 8)

/-- The lock that a word of the MBX pages is. -/
def lockAt (pg rel : Nat) : Option Nat :=
  if 0x100 ≤ rel ∧ rel < 0x180 then
    (if pg = pgMBX then some ((rel - 0x100) / 4) else if pg = pgMBX + 3 then some (32 + (rel - 0x100) / 4) else none)
  else none

/-- The block with its mailbox slots as the management processor sees them: its own direction is TX. -/
def mpSide (b : Blk) : Blk := b.mbxU fun m => { m with h2m := m.m2h, m2h := m.h2m }

/-- A word of a unit page as a requester reads it. -/
def readUnit (who : Who) (off pg : Nat) (i : PageInfo) (rel : Nat) (b : Blk) : Blk × Nat :=
  match lockAt pg rel with
  | some l => (fun b : Blk => (b, b.readOut.toNat)) (readLock who l b)
  | none =>
    if pg = pgMBX + 2 ∧ secureWorld b who = false ∧ isDebug who = false then (b, 0)
    else if (pg = pgMBX + 1 ∨ pg = pgMBX + 2) ∧ isMp who then (b, unitWord (mpSide b) pg i rel)
    else if pairAt pg rel then
      let hi := latchWord who (off + 4) (BitVec.ofNat 32 (unitWord b pg i (rel + 4))) b
      (if pg = pgFEN then latchWord who (off - 4) (managerFence b b.fen.mqSel).1 hi else hi, unitWord b pg i rel)
    else if pairAt pg (rel - 4) ∨ (pg = pgFEN ∧ rel = 0x64) then (b, (latched b who off).toNat)
    else (b, unitWord b pg i rel)

/-- A slice's counters are shown: to its own function and PASID under NI_SELF, through the physical function under NI_MGR, to the debug
port at level 2 (R477, Table 14.5). -/
def countersShown (b : Blk) (who : Who) (slice : Nat) : Bool :=
  let v := b.view slice
  (v.niSelf && ownAccess b who slice) || match who with
    | .pf _ _ => v.niMgr
    | .remote _ => v.niMgr
    | .debug => decide (2 ≤ b.sec.dbgLevel)
    | _ => false

/-- A word of a view page as a requester reads it. -/
def readView (who : Who) (slice rel : Nat) (b : Blk) : Blk × Nat :=
  let off := viewOff slice + rel
  if viewCounter rel then (b, if countersShown b who slice then viewWord b slice rel else 0)
  else if rel = 0x218 then
    let q := queryFence b slice (b.view slice).fqSel
    (latchWord who (off + 4) (BitVec.ofNat 32 (q.2 / 2 ^ 32)) (latchWord who (off - 4) q.1 b), lo32 q.2)
  else if rel = 0x214 ∨ rel = 0x21C then (b, (latched b who off).toNat)
  else (b, viewWord b slice rel)

/-- One word of the window. -/
def readOne (who : Who) (off : Nat) (b : Blk) : Blk × Nat :=
  match viewAt who off with
  | some (page, rel) => match pageSlice b who page with
    | some s => readView who s rel b
    | none => (b, 0)
  | none => match pageAt off with
    | some (pg, i, rel) => readUnit who off pg i rel b
    | none => (b, 0)

/-- The page whose gate an access passes. -/
def gatePage (who : Who) (off : Nat) : Nat :=
  match viewAt who off with
  | some (page, _) => pgView page
  | none => ((pageAt off).map (·.1)).getD pgGEN

/-- EVC's configuration of sources 0 to 63, which the debug port reaches in B2. -/
def wiredConfig (b : Blk) (rel : Nat) : Bool :=
  rel == 0x50 || (rel == 0x54 && decide (b.evc.srcSel < 64)) || (decide (0x1800 ≤ rel) && decide (rel < 0x1820))

/-- What the debug port sees of a word instead of its value, where it may not see that (Table 14.5, R447). -/
def debugBlind (b : Blk) (off : Nat) : Option Nat :=
  let level := b.sec.dbgLevel
  match pageAt off with
  | some (pg, _, rel) =>
    if b.pwr.pstate = 3 then (if (pg = pgPWR ∧ rel = 0x40) ∨ (pg = pgSEC ∧ 0x40 ≤ rel) then none else some 0)
    else if b.pwr.pstate = 2 ∧ !(pg == pgPWR || pg == pgSEC || (pg == pgEVC && wiredConfig b rel)) then some 0xFFFFFFFE
    else if level < 2 then (if pg = pgGEN ∧ (rel = 0x40 ∨ rel = 0x44) then none else some 0)
    else if (pg = pgSEC ∨ pg = pgMBX + 2) ∧ level < 3 then some 0
    else none
  | none => if b.pwr.pstate = 3 then some 0 else if b.pwr.pstate = 2 then some 0xFFFFFFFE else if level < 2 then some 0 else none

/-- One word as the requester sees it. -/
def seeOne (who : Who) (off : Nat) (b : Blk) : Blk × Nat :=
  match isDebug who, debugBlind b off with
  | true, some v => (b, v)
  | _, _ => readOne who off b

/-- A read of four or eight bytes, naturally aligned; any other reads as zero (R490). -/
def readAt (who : Who) (off size : Nat) (b : Blk) : Blk :=
  let pass := if isDebug who then (if b.pwr.pstate < 2 ∧ alwaysOn (gatePage who off) = false then leaveB1 b else b, b.pwr.supplies || b.pwr.pstate == 3)
    else gatePower who (gatePage who off) false b
  match pass with
  | (b, false) => readWord 0 b
  | (b, true) =>
    if sizeIs size = false ∨ off % size ≠ 0 then readWord 0 b
    else
      let (b, lo) := seeOne who off b
      if size = 4 then readWord lo b
      else
        let (b, hi) := seeOne who (off + 4) b
        readWord (lo + hi * 2 ^ 32) b

/-- LATCHED_PAIR_READ: a read at an X_LO; a read at any other offset returns its word. -/
def execLatchedPairRead (who : Who) (off size : Nat) (s : State) : Host.Outcome State Fault Refusal :=
  act (fun b => readAt who off size b) s

/-! ## Page headers and counters -/

/-- A W1C write of a saturation bit in an admitted word. -/
def satClear (who : Who) (off : Nat) (w : W32) (b : Blk) : Blk :=
  match viewAt who off with
  | some (page, rel) => onView who page pgTRC b fun s b =>
      if w.getLsbD 31 ∧ countersShown b who s then clearView s rel b else b
  | none => match pageAt off with
    | some (pg, _, rel) => onUnit who pg b fun b => if w.getLsbD 31 then clearUnit pg rel b else b
    | none => b

/-- COUNTER_SAT_CLEAR. -/
def execCounterSatClear (who : Who) (off : Nat) (w : W32) (s : State) : Host.Outcome State Fault Refusal :=
  act (fun b => satClear who off w b) s

/-- LOCKED of the page that an offset lies in; reserved on view pages (R488). -/
def lockPageWrite (who : Who) (off : Nat) (w : W32) (b : Blk) : Blk :=
  match viewAt who off with
  | some (page, _) => onView who page pgQFE b fun _ b => b
  | none => match pageAt off with
    | some (pg, _, _) => onUnit who pg b fun b =>
        if w.getLsbD 0 then { b with pages := b.pages.set pg { b.hdr pg with locked := true } } else b
    | none => b

/-- PAGE_LOCK_WRITE. -/
def execPageLockWrite (who : Who) (off : Nat) (w : W32) (s : State) : Host.Outcome State Fault Refusal :=
  act (fun b => lockPageWrite who off w b) s

/-- FREEZE of a unit page: the debug port alone, at the level the page needs (R489). -/
def freezeWrite (who : Who) (off : Nat) (w : W32) (b : Blk) : Blk :=
  match viewAt who off with
  | some (page, _) => onView who page pgQFE b fun _ b => b
  | none => match pageAt off with
    | some (pg, _, _) => match gatePower who pg true b with
      | (b, false) => b
      | (b, true) =>
        if isDebug who ∧ freezeLevel pg ≤ b.sec.dbgLevel then
          { b with pages := b.pages.set pg { b.hdr pg with freeze := w.getLsbD 0 } }
        else pageErr pg 0x02 b
    | none => b

/-- PAGE_FREEZE_WRITE. -/
def execPageFreezeWrite (who : Who) (off : Nat) (w : W32) (s : State) : Host.Outcome State Fault Refusal :=
  act (fun b => freezeWrite who off w b) s

/-- ERR_SAT of a page clears its error registers (R484). -/
def errorClear (who : Who) (off : Nat) (w : W32) (b : Blk) : Blk :=
  match viewAt who off with
  | some (page, _) => onView who page pgQFE b fun s b => if w.getLsbD 31 then clearErrors (pgView s) b else b
  | none => match pageAt off with
    | some (pg, _, _) => onUnit who pg b fun b => if w.getLsbD 31 then clearErrors pg b else b
    | none => b

/-- PAGE_ERROR_CLEAR. -/
def execPageErrorClear (who : Who) (off : Nat) (w : W32) (s : State) : Host.Outcome State Fault Refusal :=
  act (fun b => errorClear who off w b) s

/-! ## Fields with no behaviour of their own -/

/-- The lower or the upper word of an address of `w` bits whose lowest `lo` bits are zero. -/
def putLo (v lo : Nat) (w : W32) : Nat := v / 2 ^ 32 * 2 ^ 32 + w.toNat / 2 ^ lo * 2 ^ lo
/-- The upper word of an address, `n` bits of it. -/
def putHi (v n : Nat) (w : W32) : Nat := v % 2 ^ 32 + bits w.toNat 0 n * 2 ^ 32

/-- A limit with a range: outside it the write is ignored and counted (R434). -/
def limited (pg lo hi v : Nat) (f : Blk → Blk) (b : Blk) : Blk := if lo ≤ v ∧ v ≤ hi then f b else pageErr pg 0x05 b

/-- A write while a state forbids it is ignored and counted. -/
def unlessState (bad : Bool) (pg : Nat) (f : Blk → Blk) (b : Blk) : Blk := if bad then pageErr pg 0x06 b else f b

/-- PWR, SEC and HLU. -/
def plainLow (pg rel : Nat) (w : W32) (b : Blk) : Blk :=
  let v := w.toNat
  if pg = pgPWR then (match rel with
    | 0x4C => unlessLocked pg b (limited pg 0 1000 (bits v 0 10) fun b => b.pwrU fun x => { x with idleB1Us := bits v 0 10 })
    | 0x54 => b.pwrU fun x => { x with wakeAt := putLo x.wakeAt 0 w }
    | 0x58 => b.pwrU fun x => { x with wakeAt := putHi x.wakeAt 32 w }
    | _ => b)
  else if pg = pgSEC then (match rel with
    | 0x5C => b.secU fun x => { x with keySel := bits v 0 12, keySelLink := bit v 12 }
    | 0x64 => b.secU fun x => { x with alarmMask := w }
    | 0x68 => b.secU fun x => { x with alarmTripped := x.alarmTripped &&& ~~~w }
    | _ => b)
  else if pg = pgHLU ∧ rel = 0x40 then
    unlessLocked pg b (limited pg 1 64 (bits v 0 7) fun b => b.hluU fun x => { x with cplToMs := bits v 0 7 })
  else b

/-- CTX, FEN, XLT and TRE. -/
def plainMid (pg rel : Nat) (w : W32) (b : Blk) : Blk :=
  let v := w.toNat
  if pg = pgCTX then (match rel with
    | 0x50 => b.ctxU fun x => { x with cmd := putLo x.cmd 6 w }
    | 0x54 => b.ctxU fun x => { x with cmd := putHi x.cmd 26 w }
    | 0x60 => unlessLocked pg b fun b => b.ctxU fun x => { x with td := putLo x.td 12 w }
    | 0x64 => unlessLocked pg b fun b => b.ctxU fun x => { x with td := putHi x.td 26 w }
    | 0x68 => unlessLocked pg b fun b => b.ctxU fun x => { x with tdLog2 := bits v 0 5 }
    | _ => b)
  else if pg = pgFEN then (if rel = 0x60 then b.fenU fun x => { x with mqSel := bits v 0 16 } else b)
  else if pg = pgXLT then (match rel with
    | 0x50 => b.xltU fun x => { x with xcmd := putLo x.xcmd 6 w }
    | 0x54 => b.xltU fun x => { x with xcmd := putHi x.xcmd 26 w }
    | _ => b)
  else if pg = pgTRE then (match rel with
    | 0x44 => b.treU fun x => { x with gcmd := putLo x.gcmd 6 w }
    | 0x48 => b.treU fun x => { x with gcmd := putHi x.gcmd 26 w }
    | _ => b)
  else b

/-- A word of ENABLE set or cleared by the bits that are 1 (R412, R492). -/
def setEnabled (word : Nat) (w : W32) (on : Bool) (b : Blk) : Blk :=
  (wordSources word w).foldl (fun b n => b.updSource n fun s => { s with enabled := on }) b

/-- A channel's host side as its slot shows it: the fields of an EMPTY slot, and the clear of WD_LATE (Table 12.7). -/
def chanField (h2m : Bool) (c rel : Nat) (w : W32) (b : Blk) : Blk :=
  let empty := unlessState (decide ((b.slot h2m c).state ≠ .empty)) (chanPage c)
  match rel with
  | 0x00 => empty (fun b => b.updSlot h2m c fun s => { s with ptr := BitVec.ofNat 64 (putLo s.ptr.toNat 0 w) }) b
  | 0x04 => empty (fun b => b.updSlot h2m c fun s => { s with ptr := BitVec.ofNat 64 (putHi s.ptr.toNat 32 w) }) b
  | 0x08 => empty (fun b => b.updSlot h2m c fun s => { s with len := w }) b
  | 0x0C => empty (fun b => b.updSlot h2m c fun s => { s with tag := w.setWidth 16 }) b
  | 0x14 => if w.getLsbD 2 then b.updSlot h2m c fun s => { s with wdLate := false } else b
  | _ => b

/-- EVC and the SVEC word of MBX. -/
def plainEvents (pg rel : Nat) (w : W32) (b : Blk) : Blk :=
  let v := w.toNat
  if pg = pgEVC then (
    if rel = 0x50 then b.evcU fun x => { x with srcSel := bits v 0 13 }
    else match arrayAt rel with
      | some (true, word, 4) => unlessLocked pg b fun b => setEnabled word w true b
      | some (true, word, 8) => unlessLocked pg b fun b => setEnabled word w false b
      | _ => b)
  else if pg = pgMBX + 3 ∧ rel = 0x44 then b.mbxU fun x => { x with svec := bits v 0 8, svecEn := bit v 8 }
  else b

/-- LMF's own words and the staged words of the routing table. -/
def plainLmf (rel : Nat) (w : W32) (b : Blk) : Blk :=
  let v := w.toNat
  let pg := pgLMF
  match rel with
  | 0x40 => unlessLocked pg b (limited pg 10 10000 (bits v 0 14) fun b => b.lmfU fun x => { x with txnTimeoutUs := bits v 0 14 })
  | 0x44 => unlessLocked pg b fun b => elect (b.lmfU fun x => { x with rootPrio := bits v 0 8 })
  | 0x50 => b.lmfU fun x => { x with encOff := bit v 0 }
  | _ =>
    if 0x1000 ≤ rel ∧ rel < 0x5000 then
      let c := (rel - 0x1000) / 16
      let put (f : Route → Route) : Blk := unlessLocked pg b fun b => b.lmfU fun l => { l with
        staged := l.staged.set c (f (l.staged.getD c (l.routes.getD c {}))) }
      match rel % 16 with
      | 0 => put fun r => { r with primary := w }
      | 4 => put fun r => { r with alternate := w }
      | 8 => put fun r => { r with hopsP := bits v 0 4, hopsA := bits v 4 4, valid := bit v 8 }
      | _ => b
    else b

/-- RCV. -/
def plainRcv (rel : Nat) (w : W32) (b : Blk) : Blk :=
  let v := w.toNat
  let pg := pgRCV
  match rel with
  | 0x40 => unlessLocked pg b (limited pg 1 10000 (bits v 0 14) fun b => b.rcvU fun x => { x with stallMs := bits v 0 14 })
  | 0x44 => unlessLocked pg b (limited pg 10 1000 (bits v 0 10) fun b => b.rcvU fun x => { x with engineUs := bits v 0 10 })
  | 0x48 => unlessLocked pg b fun b => b.rcvU fun x => { x with launchMs := bits v 0 16 }
  | 0x4C => unlessLocked pg b fun b => b.rcvU fun x => { x with
      autoCtx := bit v 0, autoEng := bit v 1, dumpOnReset := bit v 2, dumpOnHang := bit v 3 }
  | 0x50 => unlessLocked pg b fun b => b.rcvU fun x => { x with dumpBase := putLo x.dumpBase 12 w }
  | 0x54 => unlessLocked pg b fun b => b.rcvU fun x => { x with dumpBase := putHi x.dumpBase 26 w }
  | 0x60 => if bit v 31 then b.rcvU fun x => { x with culValid := false } else b
  | 0x74 => b.rcvU fun x => { x with dumpDone := x.dumpDone && !bit v 1, dumpWerr := x.dumpWerr && !bit v 2 }
  | _ => b

/-- TRC: the place and size of the buffer, and POST_COUNT, only while TB_MODE is 0 (R478). -/
def plainTrc (rel : Nat) (w : W32) (b : Blk) : Blk :=
  let v := w.toNat
  let pg := pgTRC
  let off := unlessState (b.trc.mode != 0) pg
  match rel with
  | 0x44 => unlessLocked pg b (off fun b => b.trcU fun x => { x with base := putLo x.base 12 w })
  | 0x48 => unlessLocked pg b (off fun b => b.trcU fun x => { x with base := putHi x.base 26 w })
  | 0x4C => unlessLocked pg b (limited pg 10 20 (bits v 0 5) (off fun b => b.trcU fun x => { x with log2 := bits v 0 5 }))
  | 0x50 => unlessLocked pg b (limited pg 0 (b.trc.size - 1) (bits v 0 20) (off fun b => b.trcU fun x => { x with postCount := bits v 0 20 }))
  | 0x5C => unlessLocked pg b fun b => b.trcU fun x => { x with kindMask := w }
  | _ => b

/-- A budget of a regulator block is staged (R388). -/
def plainBwr (rel : Nat) (w : W32) (b : Blk) : Blk :=
  let k := rel % 0x40
  if 0x1000 ≤ rel ∧ rel < 0x1000 + 0x40 * 120 ∧ 8 ≤ k ∧ k < 0x28 then
    unlessLocked pgBWR b fun b => b.updReg ((rel - 0x1000) / 0x40) fun g => { g with staged := g.staged.set ((k - 8) / 4) (bits w.toNat 0 24) }
  else b

/-- A plain field of a unit page. Reserved words and read-only fields keep their values (R7). -/
def plainUnit (pg rel : Nat) (w : W32) (b : Blk) : Blk :=
  if pg = pgLMF then plainLmf rel w b
  else if pg = pgRCV then plainRcv rel w b
  else if pg = pgTRC then plainTrc rel w b
  else if pg = pgBWR then plainBwr rel w b
  else plainEvents pg rel w (plainMid pg rel w (plainLow pg rel w b))

/-- A plain field of a view page, by a writer the page admits. -/
def plainView (who : Who) (slice rel : Nat) (w : W32) (b : Blk) : Blk :=
  let v := w.toNat
  let x := b.view slice
  let set (f : View → View) : Blk := b.updView slice f
  match rel with
  | 0x100 => set fun x => { x with qDesc := putLo x.qDesc 0 w }
  | 0x104 => set fun x => { x with qDesc := putHi x.qDesc 25 w }
  | 0x110 => set fun x => { x with peekSel := bits v 0 9 }
  | 0x188 => set fun x => { x with save := putLo x.save 12 w }
  | 0x18C => set fun x => { x with save := putHi x.save 25 w }
  | 0x210 => set fun x => { x with fqSel := bits v 0 16 }
  | 0x280 => if x.fqEn then errFrom who slice pgXLT 0x06 b else set fun x => { x with fqBase := putLo x.fqBase 12 w }
  | 0x284 => if x.fqEn then errFrom who slice pgXLT 0x06 b else set fun x => { x with fqBase := putHi x.fqBase 25 w }
  | 0x290 => set fun x => { x with hotThresh := bits v 0 8 }
  | 0x298 => set fun x => { x with accSel := putLo x.accSel 16 w }
  | 0x29C => set fun x => { x with accSel := putHi x.accSel 25 w }
  | 0x300 => if x.pnEn then errFrom who slice pgEVC 0x06 b else set fun x => { x with pnBase := putLo x.pnBase 8 w }
  | 0x304 => if x.pnEn then errFrom who slice pgEVC 0x06 b else set fun x => { x with pnBase := putHi x.pnBase 25 w }
  | 0x318 => set fun x => { x with bankEn := w.setWidth 15 }
  | 0x320 => set fun x => { x with qSel := bits v 0 13 }
  | 0x394 => set fun x => { x with niResp := x.niResp.set 0 w }
  | 0x398 => set fun x => { x with niResp := x.niResp.set 1 w }
  | 0x39C => set fun x => { x with niResp := x.niResp.set 2 w }
  | 0x3C0 => if x.stEn then errFrom who slice pgTRC 0x06 b else set fun x => { x with stBase := putLo x.stBase 12 w }
  | 0x3C4 => if x.stEn then errFrom who slice pgTRC 0x06 b else set fun x => { x with stBase := putHi x.stBase 25 w }
  | _ => b

/-- The unit that owns a view-page offset, which counts a refused write (Table 16.4). -/
def viewUnit (rel : Nat) : Nat :=
  if rel < 0x180 then pgQFE else if rel < 0x200 then pgCTX else if rel < 0x280 then pgFEN else if rel < 0x300 then pgXLT
  else if rel < 0x380 then pgEVC else if rel < 0x3C0 then pgSEC else pgTRC

/-! ## A word of any kind -/

/-- Run a command on the block alone. -/
def cmdOn (f : State → Host.Outcome State Fault Refusal) (b : Blk) : Blk :=
  match f { pending := [], blk := b } with
  | .next s => s.blk
  | .fault _ => b
  | .refused _ => b

/-- The words of the unit pages that commands of their own write, GEN to MBX. -/
def ownLow (who : Who) (pg rel : Nat) (w : W32) (ext : ExtRead) : Option (State → Host.Outcome State Fault Refusal) :=
  if pg = pgGEN then (if rel = 0x44 then some (execGenChipWrite who w) else none)
  else if pg = pgPWR then (match rel with
    | 0x44 => some (execEnterB2 who w)
    | 0x60 => some (execRsSealWrite who w)
    | 0x64 => some (execStartGo who w)
    | _ => none)
  else if pg = pgSEC then (if rel = 0x48 then some (execDbgReq who w) else none)
  else if pg = pgCTX then (match rel with
    | 0x40 | 0x44 | 0x48 => some (execCtxTablesWrite who rel w)
    | 0x58 => some (execCreatePartition who w ext)
    | 0x6C => some (execTdHeadWrite who w)
    | _ => none)
  else if pg = pgEVC then (match rel with
    | 0x40 => some (execEvcModeWrite who w)
    | 0x44 => some (execEvcDoorbell who w)
    | 0x54 => some (execSourceConfigWrite who w)
    | _ => match arrayAt rel with
      | some (false, word, 4) => some (execPendSet who word w)
      | some (false, word, 8) => some (execPendClr who word w)
      | _ => none)
  else match lockAt pg rel with
    | some l => some (execLockFreeWrite who l w)
    | none => if rel = 0x40 ∧ (pg = pgMBX ∨ pg = pgMBX + 3) then some (execLockBreak who (pg == pgMBX + 3) w) else none

/-- The words of the unit pages that commands of their own write, SCH to TRC. -/
def ownHigh (who : Who) (pg rel : Nat) (w : W32) (ext : ExtRead) : Option (State → Host.Outcome State Fault Refusal) :=
  if pg = pgSCH then (match rel with
    | 0x40 => some (execSchLwaWrite who w)
    | 0x44 => some (execPreempt who w)
    | _ => none)
  else if pg = pgMDL then (match rel with
    | 0x40 | 0x44 => some (execStoreConfigWrite who rel w)
    | _ => none)
  else if pg = pgXLT then (match rel with
    | 0x40 | 0x44 | 0x48 => some (execXltAreaWrite who rel w)
    | 0x58 => some (execMapPeer who w ext)
    | _ => none)
  else if pg = pgTRE then (if rel = 0x4C then some (execGcreate who w ext) else none)
  else if pg = pgBWR then (
    if 0x1000 ≤ rel ∧ rel < 0x1000 + 0x40 * 120 ∧ rel % 0x40 = 0 then some (execRegulatorCtrlCommit who ((rel - 0x1000) / 0x40) w)
    else none)
  else if pg = pgLMF then (
    if rel = 0x48 then some (execPortEnWrite who w)
    else if 0x400 ≤ rel ∧ rel < 0xC00 ∧ rel % 0x40 = 0x0C then some (execRetrain who ((rel - 0x400) / 0x40) w)
    else if 0x1000 ≤ rel ∧ rel < 0x5000 ∧ rel % 16 = 0x0C then some (execRoutingCommit who ((rel - 0x1000) / 16) w)
    else none)
  else if pg = pgRCV then (if rel = 0x58 then some (execContextReset (.cmd who w)) else none)
  else if pg = pgTRC then (match rel with
    | 0x40 => some (execTbModeWrite who w)
    | 0x54 => some (execTbHeadWrite who w)
    | 0x60 => some (execArm who w)
    | 0x64 => some (execMark who w)
    | _ => none)
  else none

/-- The words of a view page that commands of their own write. -/
def ownView (who : Who) (page rel : Nat) (w : W32) : Option (State → Host.Outcome State Fault Refusal) :=
  match rel with
  | 0x108 => some (execQueueCreate who page w)
  | 0x120 => some (execDeviceDoorbell who page 4 w)
  | 0x180 => some (execViewContextCreate who page w)
  | 0x200 | 0x204 | 0x208 | 0x20C => some (execSignalPortWrite who page rel (leBytes 4 w.toNat))
  | 0x214 => some (execFenceStaleClear who page w)
  | 0x288 => some (execFqEnWrite who page w)
  | 0x28C => some (execFqHeadWrite who page w)
  | 0x294 => some (execAccClear who page w)
  | 0x308 => some (execPnEnWrite who page w)
  | 0x30C => some (execPnHeadWrite who page w)
  | 0x310 | 0x314 => some (execPendingWrite who page rel (leBytes 4 w.toNat))
  | 0x380 => some (execNiSelfWrite who page w)
  | 0x3A0 => some (execNiRespSubmit who page w)
  | 0x3C8 => some (execStEnWrite who page w)
  | 0x3CC => some (execStHeadWrite who page w)
  | _ => none

/-- A command written to a channel block by the side that the requester works, by the code in its word (Table 12.7). -/
def chanCommand (who : Who) (c rel : Nat) (w : W32) (b : Blk) : Blk :=
  let side : MbxSide := if isMp who then .mp else .host who
  let code := bits w.toNat 0 2
  if rel = 0x10 then
    (if code = 1 then cmdOn (execMbxSend side c) b else if code = 2 then cmdOn (execMbxWithdraw side c) b
     else if code = 3 then cmdOn (execMbxRelease side c) b else b)
  else if code = 1 then cmdOn (execMbxTake side c) b
  else if code = 2 then cmdOn (execMbxAck side c (BitVec.ofNat 16 (bits w.toNat 16 16))) b
  else if code = 0 then b
  else pageErr (chanPage c) 0x06 b

/-- A word of a channel page (Table 12.7). -/
def chanWrite (who : Who) (pg rel : Nat) (w : W32) (b : Blk) : Blk :=
  onUnit who pg b fun b =>
    if 0x100 ≤ rel ∧ rel < 0x900 then
      let c := (pg - pgMBX - 1) * 16 + (rel - 0x100) / 0x80
      let k := (rel - 0x100) % 0x80
      if k = 0x10 ∨ k = 0x28 then chanCommand who c k w b else chanField (!isMp who) c k w b
    else b

/-- A word of a page header that a write can change. -/
def headerWrite (who : Who) (off rel : Nat) (w : W32) (b : Blk) : Blk :=
  match rel with
  | 0x08 => freezeWrite who off w b
  | 0x14 => errorClear who off w b
  | 0x1C => lockPageWrite who off w b
  | _ => b

/-- A word of a unit page, whichever command it is. -/
def unitWrite (who : Who) (off pg rel : Nat) (w : W32) (ext : ExtRead) (b : Blk) : Blk :=
  if rel < 0x40 then headerWrite who off rel w b
  else if pg = pgMBX + 1 ∨ pg = pgMBX + 2 then chanWrite who pg rel w b
  else match ownLow who pg rel w ext with
    | some f => cmdOn f b
    | none => match ownHigh who pg rel w ext with
      | some f => cmdOn f b
      | none => onUnit who pg b fun b => plainUnit pg rel w (if w.getLsbD 31 then clearUnit pg rel b else b)

/-- A word of a view page, whichever command it is. -/
def viewWrite (who : Who) (off page rel : Nat) (w : W32) (b : Blk) : Blk :=
  if rel < 0x40 then headerWrite who off rel w b
  else match ownView who page rel w with
    | some f => cmdOn f b
    | none =>
      if viewCounter rel then satClear who off w b
      else onView who page (viewUnit rel) b fun s b => plainView who s rel w b

/-- A word at an offset of the window. One in no page of its unit's range is ignored; one in no range is counted (R481). -/
def writeWord (who : Who) (off : Nat) (w : W32) (ext : ExtRead) (b : Blk) : Blk :=
  match viewAt who off with
  | some (page, rel) => viewWrite who off page rel w b
  | none => match pageAt off with
    | some (pg, _, rel) => unitWrite who off pg rel w ext b
    | none => if inUnitRange off then b else match gatePower who pgGEN true b with
      | (b, false) => b
      | (b, true) => pageErr pgGEN 0x07 b

/-- A write of a size or alignment that R490 refuses. -/
def badSize (who : Who) (off : Nat) (b : Blk) : Blk :=
  match gatePower who (gatePage who off) true b with
  | (b, false) => b
  | (b, true) => match viewAt who off with
    | some (page, rel) => match pageSlice b who page with
      | some s => errFrom who s (viewUnit rel) 0x01 b
      | none => pageErr pgQFE 0x01 b
    | none => match pageAt off with
      | some (pg, _, _) => pageErr pg 0x01 b
      | none => if inUnitRange off then b else pageErr pgGEN 0x01 b

/-- In B2 the debug port writes PWR, SEC and the configuration of sources 0 to 63 alone (R447). -/
def debugBars (who : Who) (off : Nat) (b : Blk) : Bool :=
  isDebug who && b.pwr.pstate == 2 && (debugBlind b off == some 0xFFFFFFFE)

/-- A write of the window: four bytes, or eight that act on both words; the pending-write port takes its eight bytes as one. -/
def writeAt (who : Who) (off size : Nat) (w hi : W32) (ext : ExtRead) (b : Blk) : Blk :=
  if sizeIs size = false ∨ off % size ≠ 0 then badSize who off b
  else if debugBars who off b then pageErr pgPWR 0x06 b
  else if size = 4 then writeWord who off w ext b
  else match viewAt who off with
    | some (page, 0x310) => cmdOn (execPendingWrite who page 0x310 (leBytes 4 w.toNat ++ leBytes 4 hi.toNat)) b
    | _ => writeWord who (off + 4) hi ext (writeWord who off w ext b)

/-- REGISTER_WRITE: a write of any word. A word that another command of the table describes acts as that command; a descriptor that it
reads from another home cannot be had here. -/
def execRegisterWrite (who : Who) (off size : Nat) (w hi : W32) (s : State) : Host.Outcome State Fault Refusal :=
  act (fun b => writeAt who off size w hi .timedOut b) s

end Sys2Proof.Machine
end

