-- ==== Sys2Proof/Machine/CoreMemory.lean ====
section
/-! DEFINITION. Requests of cores: range-window fills, loads, stores and atomics that Swedikin carries (R195 to R198, R213, R427),
and the atomic unit of the memory side (Table 05.5). -/

namespace Sys2Proof.Machine

/-! ## The atomic unit (R195, Table 05.5) -/

/-- A signed reading of `n` bytes. -/
def signedOf (n x : Nat) : Int := if x < 2 ^ (8 * n - 1) then (x : Int) else (x : Int) - (2 ^ (8 * n) : Nat)

/-- The value that an atomic of `n` bytes leaves. -/
def atomNew (op : AtomOp) (n old operand compare : Nat) : Nat :=
  match op with
  | .add => (old + operand) % 2 ^ (8 * n)
  | .minS => if signedOf n operand < signedOf n old then operand else old
  | .maxS => if signedOf n old < signedOf n operand then operand else old
  | .minU => min old operand
  | .maxU => max old operand
  | .and => Nat.land old operand
  | .or => Nat.lor old operand
  | .xor => Nat.xor old operand
  | .exchange => operand
  | .compareExchange => if old = compare then operand else old
  | .addF32 => (reduceOp 0 (BitVec.ofNat 32 old) (BitVec.ofNat 32 operand)).toNat

/-- An atomic writes, but for a compare and exchange that does not match. -/
def atomWrites (op : AtomOp) (old compare : Nat) : Bool := op != .compareExchange || old == compare

/-- The operations in the order of Table 05.5. -/
def atomOps : List AtomOp := [.add, .minS, .maxS, .minU, .maxU, .and, .or, .xor, .exchange, .compareExchange, .addF32]

/-- The OP byte of an atomic. -/
def atomByte (op : AtomOp) : Byte := Config.atomCode (atomOps.findIdx (· == op))

/-- The operation that an OP byte names. -/
def atomOf (c : Byte) : Option AtomOp := atomOps.find? fun op => atomByte op == c

/-- Perform an atomic at its home: the old value, and the memory after it. FP32 add is 4 bytes. -/
def atomHere (op : AtomOp) (k size operand compare : Nat) (b : Blk) : Nat × Blk :=
  let n := if op = .addF32 then 4 else size
  let old := leNat (loadLocal b k n)
  let m := 2 ^ (8 * n)
  let new := atomNew op n old (operand % m) (compare % m)
  (old, if atomWrites op old (compare % m) then storeLocal k (leBytes n new) b else b)

/-! ## Requests of cores -/

/-- A core has a work group of a launch. -/
def coreRuns (b : Blk) (core launch : Nat) : Bool := launchesOn (b.core core) |>.contains launch

/-- The limit of a request that a launch's core makes. -/
def launchLimit (b : Blk) (l : Launch) : Nat :=
  match (launchItem b l.owner).bind fun i => b.items.get? i with
  | some it => it.timeoutNs b.lmf.txnTimeoutUs
  | none => txnNs b

/-- The spec bytes of a core's request: its Burgee and its address (Table 10.5). -/
def coreSpec (b : Blk) (l : Launch) (pa : Nat) : Bytes :=
  leBytes 8 (burgee l.slice l.ctx l.cls (deadlineField b.ft l.deadline) l.scope) ++ leBytes 8 pa

/-- A core's access cannot go on (R197, R213, R226, R236, R298). A page that the host has yet to translate, and a ring without room,
leave the request to be made again. -/
def coreStop (core launch : Nat) (l : Launch) (write : Bool) (why : Stop) (b : Blk) : Blk :=
  match why with
  | .miss dva _ => requestAts l.slice dva write (.core core launch dva) b
  | .ring _ => fire 66 noOne (BitVec.ofNat 32 l.slice) b
  | .lost _ stuck => if stuck then coreException launch ⟨0x16, 0, 0⟩ (b.emit (.coreData core [] (some 0))) else b
  | .cause dva c =>
    if c = 0x07 then hostNoAccess l.slice dva write (.core core launch dva) b
    else coreFault core launch dva c write (if c = 0x05 then pageErr pgXLT 0x0B b else b)

/-- One piece of a core's load. -/
def coreLoadSeg (core launch : Nat) (l : Launch) (s : Seg) (b : Blk) : Blk :=
  match s.dest with
  | .here k _ =>
    if admits b .core l.slice false k s.len = false then coreFault core launch s.dva 0x06 false b
    else if uncorrectable b k s.len then coreException launch ⟨0x16, 0, 0⟩ (b.emit (.coreData core [] (some 0)))
    else b.emit (.coreData core (loadLocal b k s.len) none)
  | .away pa _ =>
    sendReqAt s.dva 0x02 (paChip pa) (coreSpec b l pa) (leBytes 4 s.len ++ List.replicate 12 0) (.coreRead core launch)
      (launchLimit b l) b
  | .host hpa page =>
    issueHostRead l.slice hpa page s.len (.core core launch) (addHold (.hlu core) (.page l.slice (page * 4096)) b)

/-- One piece of a core's store. -/
def coreStoreSeg (core launch : Nat) (l : Launch) (s : Seg) (bs : Bytes) (b : Blk) : Blk :=
  match s.dest with
  | .here k _ =>
    if admits b .core l.slice true k s.len then storeLocal k bs b else coreFault core launch s.dva 0x06 true b
  | .away pa _ =>
    sendReqAt s.dva 0x01 (paChip pa) (coreSpec b l pa) bs (.coreWrite core launch) (launchLimit b l) b
  | .host hpa page => hostWrite l.slice hpa page bs (launchItem b l.owner) b

/-- The pieces of a core's store with their bytes, in order. -/
def coreStoreSegs (core launch : Nat) (l : Launch) : List Seg → Bytes → Blk → Blk
  | [], _, b => b
  | s :: rest, bs, b =>
    coreStoreSegs core launch l rest (bs.drop s.len) (coreStoreSeg core launch l s (bs.take s.len) b)

/-- The payload of an AT packet (Table 10.5). -/
def atPayload (op : AtomOp) (size operand compare : Nat) : Bytes :=
  atomByte op :: (leBytes 1 size ++ List.replicate 6 0 ++ leBytes 8 operand ++ leBytes 8 compare ++ List.replicate 8 0)

/-- A core's atomic at the place that its location translates to (R196, R197). -/
def coreAtomSeg (core launch : Nat) (l : Launch) (s : Seg) (op : AtomOp) (size operand compare : Nat) (b : Blk) : Blk :=
  match s.dest with
  | .here k _ =>
    if admits b .core l.slice true k size = false then coreFault core launch s.dva 0x06 true b
    else if uncorrectable b k size then coreException launch ⟨0x16, 0, 0⟩ (b.emit (.coreData core [] (some 0)))
    else match atomHere op k size operand compare b with
      | (old, b) => b.emit (.coreData core (leBytes size old) none)
  | .away pa _ =>
    sendReqAt s.dva 0x03 (paChip pa) (coreSpec b l pa) (atPayload op size operand compare) (.coreRead core launch)
      (launchLimit b l) b
  | .host _ _ => coreFault core launch s.dva 0x09 true b

/-- A core's window fill (R213): a DVA in the range cache or outside every range is answered at once, another one costs a walk. -/
def coreWindow (core launch : Nat) (l : Launch) (dva : Nat) (b : Blk) : Blk :=
  match xlate b l.slice dva false with
  | .dev _ (.range s i) =>
    if b.xlt.rangeCache.any fun e => e.1 == s && e.2.1 == i then answerWindow core launch l.slice dva false b
    else b.xltU fun x => { x with
      misses := x.misses ++ [{ id := x.missNext, slice := l.slice, dva := dva, write := false, work := none, core := some core
                               launch := launch }]
      missNext := x.missNext + 1 }
  | _ => answerWindow core launch l.slice dva false b

/-- What a core asks for. -/
def coreRequest (core launch : Nat) (l : Launch) (req : CoreReq) (b : Blk) : Blk :=
  match req with
  | .window _ dva => coreWindow core launch l dva b
  | .load _ dva n => (match planSpan b l.slice dva n false with
    | .error e => coreStop core launch l false e b
    | .ok segs => segs.foldl (fun b s => coreLoadSeg core launch l s b) (touchSegs l.slice segs b))
  | .store _ dva bs => (match planSpan b l.slice dva bs.length true with
    | .error e => coreStop core launch l true e b
    | .ok segs => coreStoreSegs core launch l segs bs (touchSegs l.slice segs b))
  | .atomic _ dva n op x y => if 2 ^ 56 ≤ dva ∧ dva < 2 ^ 57 then coreFault core launch dva 0x09 true b
    else (match planSpan b l.slice dva n true with
    | .error e => coreStop core launch l true e b
    | .ok [] => b
    | .ok (s :: segs) => coreAtomSeg core launch l s op n x y (touchSegs l.slice (s :: segs) b))

/-- The launch that a request is for. -/
def CoreReq.launch : CoreReq → Nat
  | .window l _ => l
  | .load l _ _ => l
  | .store l _ _ => l
  | .atomic l _ _ _ _ _ => l

/-- CORE_MEMORY_REQUEST: a request of a work group that the core runs. -/
def execCoreMemoryRequest (core : Nat) (req : CoreReq) (s : State) : Host.Outcome State Fault Refusal :=
  actUnit pgXLT (fun b =>
    let id := CoreReq.launch req
    if coreRuns b core id = false then b
    else match b.sch.launches.get? id with
      | some l => settle (coreRequest core id l req b)
      | none => b) s

end Sys2Proof.Machine
end

