-- ==== Sys2Proof/Machine/Arrivals.lean ====
section
/-! DEFINITION. What arrives on a Lemdy port: codewords, packets of every type, and the gap timer of a source (R191, R341 to R363). A row
that names a packet is the arrival of one that has passed its trailer check; CODEWORD_RECEIVE finds the packets itself. -/

namespace Sys2Proof.Machine

/-! ## Requests of other chips (R31, R218, R347, R353) -/

/-- The Burgee of a request. -/
def reqBurgee (p : Pkt) : Nat := field p.spec 0 8
/-- The address of a request. -/
def reqAddr (p : Pkt) : Nat := field p.spec 8 8

/-- What a request's home finds before it performs it: a STATUS, or none (R22, R29, R31, R347). A slice that this chip does not have is an
ownership mismatch. -/
def reqFault (b : Blk) (p : Pkt) (write : Bool) (n : Nat) : Option Nat :=
  let g := reqBurgee p
  let pa := reqAddr p
  let slice := bits g 0 12
  if isLocal b pa = false ∨ paInside pa n = false then some 2
  else if burgeeOk g = false then some 1
  else if paSpace pa = 3 then (if slice = 0 then none else some 1)
  else if paSpace pa = 2 then (if b.slices.has slice then none else some 1)
  else if admits b .inbound slice write (paKey pa) n then none
  else some 1

/-- A write of the register window by another chip: slice 0's (R31). -/
def remoteMmio (off : Nat) (bs : Bytes) (b : Blk) : Blk :=
  match viewAt (.remote 0) off with
  | some (page, 0x200) => cmdOn (execSignalPortWrite (.remote 0) page 0x200 bs) b
  | _ => writeAt (.remote 0) off bs.length (BitVec.ofNat 32 (field bs 0 4)) (BitVec.ofNat 32 (field bs 4 4)) .timedOut b

/-- A write at its home, which answers it with a WACK. -/
def applyWr (p : Pkt) (b : Blk) : Blk :=
  let ack (status : Nat) (b : Blk) : Blk := sendResp 0x10 p.src p.txn status [] b
  let pa := reqAddr p
  let slice := bits (reqBurgee p) 0 12
  match reqFault b p true p.payload.length with
  | some status => ack status b
  | none =>
    if paSpace pa = 3 then ack 0 (remoteMmio (paOff pa) p.payload b)
    else if paSpace pa = 2 then
      ack 0 ((noteHostStore (sliceFn b slice) none { b with mem := memWrite b.mem (paKey pa) p.payload }).emit
        (.hostWrite (sliceFn b slice) (slicePasid b slice) (paOff pa) p.payload))
    else ack 0 (storeLocal (paKey pa) p.payload b)

/-- A read of this chip's host window for another chip. -/
def remoteHostRead (p : Pkt) (slice hpa n : Nat) (b : Blk) : Blk :=
  let tag := b.hlu.tagNext
  let fn := sliceFn b slice
  let b := b.hluU fun h => { h with
    tagNext := (tag + 1) % 4096
    reads := h.reads ++ [{ tag := tag, why := .inbound p.src p.txn n, fn := fn, limitFt := b.ft + h.cplToMs * 1000000 }] }
  b.emit (.hostRead fn (slicePasid b slice) hpa n tag)

/-- A read at its home, which answers it with an RDR. A read of a register returns what the register returns to slice 0. -/
def applyRd (p : Pkt) (b : Blk) : Blk :=
  let n := field p.payload 0 4
  let ack (status : Nat) (bs : Bytes) (b : Blk) : Blk := sendResp 0x11 p.src p.txn status bs b
  let pa := reqAddr p
  let slice := bits (reqBurgee p) 0 12
  match reqFault b p false n with
  | some status => ack status [] b
  | none =>
    if paSpace pa = 3 then
      let kept := b.readOut
      let b := readAt (.remote 0) (paOff pa) n b
      ack 0 ((leBytes 8 b.readOut.toNat ++ List.replicate n 0).take n) { b with readOut := kept }
    else if paSpace pa = 2 then remoteHostRead p slice (paOff pa) n b
    else if uncorrectable b (paKey pa) n then ack 3 [] b
    else ack 0 (loadLocal b (paKey pa) n) b

/-- An atomic at its home, which answers it with an ATR. Only HBM and scratchpad have an atomic unit (R196, R197). -/
def applyAt (p : Pkt) (b : Blk) : Blk :=
  let n := field p.payload 1 1
  let ack (status : Nat) (bs : Bytes) (b : Blk) : Blk := sendResp 0x12 p.src p.txn status bs b
  let pa := reqAddr p
  match reqFault b p true n with
  | some status => ack status [] b
  | none =>
    if 2 ≤ paSpace pa then ack 2 [] b
    else if uncorrectable b (paKey pa) n then ack 3 [] b
    else match atomOf (p.payload.getD 0 0) with
      | none => b
      | some op => match atomHere op (paKey pa) n (field p.payload 8 8) (field p.payload 0x10 8) b with
        | (old, b) => ack 0 (leBytes 8 old) b

/-- A request in its place in the order of its source (R353). A block reset discards it (R360). -/
def applyAny (p : Pkt) (b : Blk) : Blk :=
  if b.rcv.blockPhase ≠ 0 then b
  else match p.typ with
    | 0x01 => applyWr p b
    | 0x02 => applyRd p b
    | 0x03 => applyAt p b
    | 0x04 => applyFsig p b
    | 0x05 => applyPlanPkt p b
    | 0x06 => applyReady p b
    | 0x07 => applyLeave p b
    | _ => b

/-! ## Packets (R345, R346, R351, R358) -/

/-- The channel of a packet type (Table 10.5). -/
def typeVc (t : Nat) : Nat := if t = 0 ∨ 0x30 ≤ t then 3 else if t < 0x10 then 0 else if t < 0x20 then 1 else 2

/-- The LEN of each packet type (Table 10.5). -/
def lenOk (p : Pkt) : Bool :=
  let n := p.payload.length
  match p.typ with
  | 0x00 => true
  | 0x01 => decide (1 ≤ n)
  | 0x02 => n == 16 && decide (1 ≤ field p.payload 0 4) && decide (field p.payload 0 4 ≤ 4096)
  | 0x03 => n == 32 && (field p.payload 1 1 == 4 || field p.payload 1 1 == 8)
  | 0x04 => n == 48
  | 0x05 => n % 8 == 0 && decide (n ≤ 480)
  | 0x06 => n == 0
  | 0x07 => n == 0
  | 0x08 => n == 16
  | 0x10 => n == 0
  | 0x11 => true
  | 0x12 => n == 8 || field p.spec 0 1 != 0
  | 0x13 => n == 32
  | 0x20 => true
  | 0x30 => n == 32
  | 0x31 => n == 16
  | 0x32 => n == 0
  | 0x33 => n == 0
  | 0x34 => n == 0
  | 0x35 => n == 16
  | _ => false

/-- A packet of Table 10.5 with zero reserved fields. Any other is discarded and counted (R346). -/
def pktOk (p : Pkt) : Bool := p.rsvd && lenOk p && p.vc == typeVc p.typ && decide (p.payload.length ≤ 4096)

/-- A control packet: link-local (R346). -/
def takeControl (n : Nat) (p : Pkt) (b : Blk) : Blk :=
  match p.typ with
  | 0x30 => recvKite n p b
  | 0x31 => if portActive b n then recvCredit n p b else b
  | 0x32 => recvLack n (field p.spec 0 2 % 4096) b
  | 0x33 => recvRetry n (field p.spec 0 2 % 4096) b
  | 0x34 => recvLane n (BitVec.ofNat 8 (field p.spec 0 1)) b
  | 0x35 => if (b.port n).state = .key then b.updPort n fun q => { q with state := .measure } else b
  | _ => b

/-- A response at its source (R166, R347, R354). -/
def takeResp (p : Pkt) (b : Blk) : Blk := if p.typ = 0x13 then sendWaiting (applyFack p b) else applyResp p b

/-- A request for this chip takes its place in its source's order; one that wakes gated units ends B1 (R452). -/
def takeReq (p : Pkt) (b : Blk) : Blk := recvReq applyAny p (if p.typ = 0x08 ∨ p.typ = 0x04 then b else leaveB1 b)

/-- A packet of the collective channel: a chunk, or a request to send one again. A block reset drops it with its credit. -/
def takeColl (n : Nat) (p : Pkt) (b : Blk) : Blk :=
  if b.rcv.blockPhase ≠ 0 then oweCredit n p b
  else if bit (field p.spec 0xF 1) 6 then answerRreq p (oweCredit n p (leaveB1 b))
  else recvChunk n p (leaveB1 b)

/-- A packet for this chip on a port in service, by its channel. -/
def takeData (n : Nat) (p : Pkt) (b : Blk) : Blk :=
  match p.vc with
  | 0 => oweCredit n p (takeReq p b)
  | 1 => takeResp p (oweCredit n p b)
  | _ => takeColl n p b

/-- A packet that passed its check: the receiver's counter advances, then the packet is discarded, taken, or forwarded. Control packets
are taken from ALIGN on, others only in service. -/
def deliver (n : Nat) (p : Pkt) (b : Blk) : Blk :=
  let b := b.updPort n fun q => { q with rxCtr := q.rxCtr + 1 }
  if pktOk p = false then pageErr pgLMF 0x0D (oweCredit n p b)
  else if p.vc = 3 then takeControl n p b
  else if portActive b n = false then b
  else if p.dest ≠ b.chip then forwardPkt p (oweCredit n p b)
  else takeData n p b

/-- After a packet: credit that was withheld goes back once there is room, and what ended lets others go on. -/
def afterPkt (full : Bool) (b : Blk) : Blk := settle (if full && !reorderFull b then returnAll b else b)

/-- A packet of the types of a row arrives on a port in ALIGN or later. -/
def arrive (types : List Nat) (n : Nat) (p : Pkt) (b : Blk) : Blk :=
  if kitePort (b.port n) ∧ types.contains p.typ then afterPkt (reorderFull b) (deliver n p b) else b

/-- FSIG_RECEIVE. -/
def execFsigReceive (port : Nat) (p : Pkt) (s : State) : Host.Outcome State Fault Refusal :=
  actLink (fun b => arrive [0x04] port p b) s
/-- FACK_RECEIVE. -/
def execFackReceive (port : Nat) (p : Pkt) (s : State) : Host.Outcome State Fault Refusal :=
  actLink (fun b => arrive [0x13] port p b) s
/-- REMOTE_WRITE_ACK: the WACK of a remote write. -/
def execRemoteWriteAck (port : Nat) (p : Pkt) (s : State) : Host.Outcome State Fault Refusal :=
  actLink (fun b => arrive [0x10] port p b) s
/-- READY_RECEIVE. -/
def execReadyReceive (port : Nat) (p : Pkt) (s : State) : Host.Outcome State Fault Refusal :=
  actLink (fun b => arrive [0x06] port p b) s
/-- PLAN_RECEIVE. -/
def execPlanReceive (port : Nat) (p : Pkt) (s : State) : Host.Outcome State Fault Refusal :=
  actLink (fun b => arrive [0x05] port p b) s
/-- LEAVE_RECEIVE. -/
def execLeaveReceive (port : Nat) (p : Pkt) (s : State) : Host.Outcome State Fault Refusal :=
  actLink (fun b => arrive [0x07] port p b) s
/-- COLL_CHUNK_RECEIVE: a COLL packet that carries a chunk. -/
def execCollChunkReceive (port : Nat) (p : Pkt) (s : State) : Host.Outcome State Fault Refusal :=
  actLink (fun b => if bit (field p.spec 0xF 1) 6 then b else arrive [0x20] port p b) s
/-- COLL_RREQ_RECEIVE: a COLL packet with RREQ. -/
def execCollRreqReceive (port : Nat) (p : Pkt) (s : State) : Host.Outcome State Fault Refusal :=
  actLink (fun b => if bit (field p.spec 0xF 1) 6 then arrive [0x20] port p b else b) s
/-- LANE_RECEIVE. -/
def execLaneReceive (port : Nat) (p : Pkt) (s : State) : Host.Outcome State Fault Refusal :=
  actLink (fun b => arrive [0x34] port p b) s
/-- LACK_RECEIVE. -/
def execLackReceive (port : Nat) (p : Pkt) (s : State) : Host.Outcome State Fault Refusal :=
  actLink (fun b => arrive [0x32] port p b) s
/-- RETRY_RECEIVE. -/
def execRetryReceive (port : Nat) (p : Pkt) (s : State) : Host.Outcome State Fault Refusal :=
  actLink (fun b => arrive [0x33] port p b) s
/-- CREDIT_RECEIVE. -/
def execCreditReceive (port : Nat) (p : Pkt) (s : State) : Host.Outcome State Fault Refusal :=
  actLink (fun b => arrive [0x31] port p b) s
/-- REMOTE_WR_RECEIVE. -/
def execRemoteWrReceive (port : Nat) (p : Pkt) (s : State) : Host.Outcome State Fault Refusal :=
  actLink (fun b => arrive [0x01] port p b) s
/-- REMOTE_RD_RECEIVE. -/
def execRemoteRdReceive (port : Nat) (p : Pkt) (s : State) : Host.Outcome State Fault Refusal :=
  actLink (fun b => arrive [0x02] port p b) s
/-- REMOTE_AT_RECEIVE. -/
def execRemoteAtReceive (port : Nat) (p : Pkt) (s : State) : Host.Outcome State Fault Refusal :=
  actLink (fun b => arrive [0x03] port p b) s
/-- SESSION_RECEIVE. -/
def execSessionReceive (port : Nat) (p : Pkt) (s : State) : Host.Outcome State Fault Refusal :=
  actLink (fun b => arrive [0x08] port p b) s
/-- RESPONSE_RECEIVE: a WACK, an RDR or an ATR. -/
def execResponseReceive (port : Nat) (p : Pkt) (s : State) : Host.Outcome State Fault Refusal :=
  actLink (fun b => arrive [0x10, 0x11, 0x12] port p b) s
/-- KITE_RECEIVE. -/
def execKiteReceive (port : Nat) (p : Pkt) (s : State) : Host.Outcome State Fault Refusal :=
  actLink (fun b => arrive [0x30] port p b) s

/-- TXN_GAP_TIMEOUT: what is missing below packets held for the transaction timeout is skipped (R353). -/
def execTxnGapTimeout (src : Nat) (s : State) : Host.Outcome State Fault Refusal :=
  actLink (fun b => settle (skipGap applyAny src b)) s

/-! ## Trailers (R348, R361) -/

/-- The key that a port receives under: the bank in use of its slot. -/
def rxKey (b : Blk) (n : Nat) : Option LinkBank :=
  let k := b.sec.linkKeys.getD n {}
  if (b.port n).keyBank = 0 then k.bank0 else k.bank1

/-- The IV of the next packet of the far end (R361). -/
def rxIv (b : Blk) (n salt : Nat) : Bytes :=
  let q := b.port n
  leBytes 12 (q.rxCtr % 2 ^ 63 + (if b.chip < q.peerChip then 2 ^ 63 else 0) + salt % 2 ^ 32 * 2 ^ 64)

/-- The plaintext of received bytes that begin with a packet. With no key there is none. -/
def plainOf (b : Blk) (n : Nat) (bs : Bytes) : Option Bytes :=
  if (b.port n).encOff then some bs
  else (rxKey b n).map fun k => gcmCrypt k.key (rxIv b n k.salt) bs

/-- The 16 bytes of trailer that received bytes must have. -/
def trailerOf (b : Blk) (n : Nat) (bs : Bytes) : Option Bytes :=
  if (b.port n).encOff then some (leBytes 4 (crc32 bs).toNat ++ List.replicate 12 0)
  else (rxKey b n).map fun k => gcmTag k.key (rxIv b n k.salt) bs

/-- Reserved bytes of SPEC and payload of a type are zero (Table 10.5). -/
def rsvdOk (typ : Nat) (spec payload : Bytes) : Bool :=
  match typ with
  | 0x02 => zeroSpan payload 4 12
  | 0x03 => zeroSpan payload 2 6 && zeroSpan payload 0x18 8
  | 0x04 => zeroSpan spec 0 16 && zeroSpan payload 0x25 11 && field payload 0x24 1 < 2
  | 0x06 => zeroSpan spec 2 14
  | 0x07 => zeroSpan spec 2 2 && zeroSpan spec 8 8
  | 0x08 => zeroSpan spec 0 16 && zeroSpan payload 8 8
  | 0x10 => zeroSpan spec 1 15
  | 0x11 => zeroSpan spec 1 15
  | 0x12 => zeroSpan spec 1 15
  | 0x13 => zeroSpan spec 0 16 && zeroSpan payload 0x13 13
  | 0x30 => zeroSpan spec 0 16 && zeroSpan payload 0xD 3 && zeroSpan payload 0x1C 4
  | 0x31 => zeroSpan spec 0 16
  | 0x32 => zeroSpan spec 2 14
  | 0x33 => zeroSpan spec 2 14
  | 0x34 => zeroSpan spec 1 15
  | 0x35 => zeroSpan spec 0 16
  | _ => true

/-- A packet from its plaintext header and padded payload (Table 10.4). -/
def pktOf (bs : Bytes) : Pkt :=
  let f := field bs 1 1
  let spec := (bs.drop 16).take 16
  let payload := (bs.drop 32).take (field bs 6 2)
  { typ := field bs 0 1, vc := f % 4, resent := bit f 2, classB := bit f 3, ttl := f / 16, dest := field bs 2 2 % 1024,
    src := field bs 4 2 % 1024, txn := field bs 8 8, spec := spec, payload := payload,
    rsvd := decide (field bs 2 2 < 1024) && decide (field bs 4 2 < 1024) && rsvdOk (field bs 0 1) spec payload }

/-! ## Codewords (R341 to R344) -/

/-- A trailer check fails: what has arrived is discarded back to the codeword in which the packet began, which is asked for again; eight in
a row on one SEQ take the port down (R343, R363). -/
def trailerFail (n : Nat) (b : Blk) : Blk :=
  let q := b.port n
  let back := (q.rxBytes.length + 639) / 640
  let seq := (q.rxSeq + 4096 - back) % 4096
  let run := if q.tagFailSeq = seq ∧ 0 < q.tagFailRun then q.tagFailRun + 1 else 1
  let pos := (640 * back - q.rxBytes.length) / 16
  let b := b.updPort n fun q => { q with
    tagFails := q.tagFails.bump, tagFailSeq := seq, tagFailRun := run, rxSeq := seq, rxPos := pos, rxBytes := [], retrySent := false }
  if q.state = .key then absorb (downPort n 5 b)
  else if 8 ≤ run then absorb (downPort n 5 b)
  else sendRetry n b

/-- Take the whole packets that have arrived. -/
def takePackets (n : Nat) : Nat → Blk → Blk
  | 0, b => b
  | fuel + 1, b =>
    let buf := (b.port n).rxBytes
    if buf.length < 32 then b
    else match plainOf b n (buf.take 32) with
      | none => trailerFail n b
      | some h =>
        let len := field h 6 2
        let size := 32 + roundUp len 16
        if 4096 < len then trailerFail n b
        else if buf.length < size + 16 then b
        else if trailerOf b n (buf.take size) = some ((buf.drop size).take 16) then
          let p := pktOf ((plainOf b n (buf.take size)).getD [])
          let full := reorderFull b
          takePackets n fuel (afterPkt full (deliver n p (b.updPort n fun q => { q with rxBytes := buf.drop (size + 16) })))
        else trailerFail n b

/-- A data codeword in its order: its link data follow what is there, from the granule at which the receiver went back. -/
def takeCodeword (n : Nat) (cw : Codeword) (b : Blk) : Blk :=
  let b := b.updPort n fun q => { q with
    rxBytes := q.rxBytes ++ (if q.rxPos < 40 then cw.data.drop (16 * q.rxPos) else cw.data)
    rxPos := 63, rxSeq := (q.rxSeq + 1) % 4096, retrySent := false, lackCount := q.lackCount + 1 }
  let b := takePackets n ((b.port n).rxBytes.length / 48 + 1) b
  if portActive b n ∧ 64 ≤ (b.port n).lackCount then sendLack n b else b

/-- A marker: the far end's key generation and count; a new lane map begins here (R339, R342, R362). -/
def takeMarker (n : Nat) (m : Marker) (b : Blk) : Blk :=
  switchLanes n (b.updPort n fun q => { q with
    markerCount := m.count, keyGenRx := m.keyGen, keyRx := q.keyRx || m.keyGen != q.keyGenRx })

/-- A codeword on a port from ALIGN on (R341 to R343). -/
def takeAny (n : Nat) (cw : Codeword) (b : Blk) : Blk :=
  if 15 < cw.badSymbols then
    let b := b.updPort n fun q => { q with uncorr := q.uncorr.bump }
    if cw.marker.isSome then b else sendRetry n (b.updPort n fun q => { q with retrySent := false })
  else
    let b := b.updPort n fun q => { q with corrected := q.corrected.add cw.badSymbols }
    match cw.marker with
    | some m => takeMarker n m b
    | none =>
      if cw.seq = (b.port n).rxSeq then takeCodeword n cw b
      else if seqBefore cw.seq (b.port n).rxSeq then b
      else sendRetry n b

/-- CODEWORD_RECEIVE. -/
def execCodewordReceive (port : Nat) (cw : Codeword) (s : State) : Host.Outcome State Fault Refusal :=
  actLink (fun b => if kitePort (b.port port) then takeAny port cw b else b) s

/-- A KEYCHK of 48 bytes and its trailer are what the far end sends under this key (R361, R363). -/
def keychkPasses (b : Blk) (n : Nat) (cipher tag : Bytes) : Bool :=
  trailerOf b n cipher == some tag && cipher.length == 48 &&
  (match plainOf b n cipher with
   | some h => (pktOf h).typ == 0x35 && pktOk (pktOf h) && zeroSpan h 0x20 16
   | none => false)

/-- KEYCHK_RECEIVE: a check that passes moves the port to MEASURE; one that fails takes it down with cause 5. -/
def execKeychkReceive (port : Nat) (cipher : Bytes) (tag : Bytes) (s : State) : Host.Outcome State Fault Refusal :=
  actLink (fun b =>
    if (b.port port).state = .key then
      if keychkPasses b port cipher tag then
        b.updPort port fun q => { q with state := .measure, rxCtr := q.rxCtr + 1 }
      else absorb (downPort port 5 b)
    else b) s

end Sys2Proof.Machine
end

