-- ==== Sys2Proof/Machine/Dispatch.lean ====
section
/-! DEFINITION. One arm per command. -/

namespace Sys2Proof.Machine

def exec (i : Instr) (s : State) : Host.Outcome State Fault Refusal :=
  match i with
  | .sqDoorbellWrite who page off size w => Sys2Proof.Machine.execSqDoorbellWrite who page off size w s
  | .cqDoorbellWrite who page off size w => Sys2Proof.Machine.execCqDoorbellWrite who page off size w s
  | .deviceDoorbell who page size w => Sys2Proof.Machine.execDeviceDoorbell who page size w s
  | .queueCreate who page w => Sys2Proof.Machine.execQueueCreate who page w s
  | .queueDestroy who page w => Sys2Proof.Machine.execQueueDestroy who page w s
  | .queueDrainEnd slice slot => Sys2Proof.Machine.execQueueDrainEnd slice slot s
  | .arbitrationTurn => Sys2Proof.Machine.execArbitrationTurn s
  | .entryReceived slice slot ext => Sys2Proof.Machine.execEntryReceived slice slot ext s
  | .itemStart item => Sys2Proof.Machine.execItemStart item s
  | .completionWriteRetry item => Sys2Proof.Machine.execCompletionWriteRetry item s
  | .itemDeadlineExpiry item => Sys2Proof.Machine.execItemDeadlineExpiry item s
  | .launch item => Sys2Proof.Machine.execLaunch item s
  | .copy item => Sys2Proof.Machine.execCopy item s
  | .reduce item => Sys2Proof.Machine.execReduce item s
  | .collective item => Sys2Proof.Machine.execCollective item s
  | .kvMove item => Sys2Proof.Machine.execKvMove item s
  | .fenceSignal item => Sys2Proof.Machine.execFenceSignal item s
  | .fenceWait item => Sys2Proof.Machine.execFenceWait item s
  | .flushRange item => Sys2Proof.Machine.execFlushRange item s
  | .modelLoad item => Sys2Proof.Machine.execModelLoad item s
  | .modelPin item => Sys2Proof.Machine.execModelPin item s
  | .stepRun item => Sys2Proof.Machine.execStepRun item s
  | .seqJoin item => Sys2Proof.Machine.execSeqJoin item s
  | .seqLeave item => Sys2Proof.Machine.execSeqLeave item s
  | .alloc item => Sys2Proof.Machine.execAlloc item s
  | .free item => Sys2Proof.Machine.execFree item s
  | .workGroupPlace part => Sys2Proof.Machine.execWorkGroupPlace part s
  | .workGroupEnd core launch => Sys2Proof.Machine.execWorkGroupEnd core launch s
  | .cheapPointAck core => Sys2Proof.Machine.execCheapPointAck core s
  | .coreIdle core image => Sys2Proof.Machine.execCoreIdle core image s
  | .graceExpiry core mapUnreadable => Sys2Proof.Machine.execGraceExpiry core mapUnreadable s
  | .saveStopFailure core cause => Sys2Proof.Machine.execSaveStopFailure core cause s
  | .restoreDispatch ctx => Sys2Proof.Machine.execRestoreDispatch ctx s
  | .restoreFailure core uncorrectable => Sys2Proof.Machine.execRestoreFailure core uncorrectable s
  | .cacheMaintenanceAck core lines => Sys2Proof.Machine.execCacheMaintenanceAck core lines s
  | .preempt who w => Sys2Proof.Machine.execPreempt who w s
  | .resume who w => Sys2Proof.Machine.execResume who w s
  | .schLwaWrite who w => Sys2Proof.Machine.execSchLwaWrite who w s
  | .signalPortWrite who page off bytes => Sys2Proof.Machine.execSignalPortWrite who page off bytes s
  | .pollRecheck => Sys2Proof.Machine.execPollRecheck s
  | .waitDeadlineExpiry item => Sys2Proof.Machine.execWaitDeadlineExpiry item s
  | .fsigReceive port p => Sys2Proof.Machine.execFsigReceive port p s
  | .fackReceive port p => Sys2Proof.Machine.execFackReceive port p s
  | .remoteSignalTimeout item => Sys2Proof.Machine.execRemoteSignalTimeout item s
  | .fsigSend item => Sys2Proof.Machine.execFsigSend item s
  | .fenceQueryRead who page size => Sys2Proof.Machine.execFenceQueryRead who page size s
  | .fenceStaleClear who page w => Sys2Proof.Machine.execFenceStaleClear who page w s
  | .managerFenceQueryRead who size => Sys2Proof.Machine.execManagerFenceQueryRead who size s
  | .remoteWriteAck port p => Sys2Proof.Machine.execRemoteWriteAck port p s
  | .remoteWriteLost dest txn => Sys2Proof.Machine.execRemoteWriteLost dest txn s
  | .remoteReadTimeout dest txn => Sys2Proof.Machine.execRemoteReadTimeout dest txn s
  | .hostFlushReadIssue fn => Sys2Proof.Machine.execHostFlushReadIssue fn s
  | .hostReadCompletion tag ext => Sys2Proof.Machine.execHostReadCompletion tag ext s
  | .hostReadTimeout tag => Sys2Proof.Machine.execHostReadTimeout tag s
  | .ownershipPushAck push => Sys2Proof.Machine.execOwnershipPushAck push s
  | .atsCompletion slice page hpa read write => Sys2Proof.Machine.execAtsCompletion slice page hpa read write s
  | .rangeCacheMissDone miss => Sys2Proof.Machine.execRangeCacheMissDone miss s
  | .atsInvalidationRequest fn pasid hva pages itag => Sys2Proof.Machine.execAtsInvalidationRequest fn pasid hva pages itag s
  | .holdRelease holder => Sys2Proof.Machine.execHoldRelease holder s
  | .shootdownAck core => Sys2Proof.Machine.execShootdownAck core s
  | .invalidationAbort epoch => Sys2Proof.Machine.execInvalidationAbort epoch s
  | .abortDrainExpiry epoch lines => Sys2Proof.Machine.execAbortDrainExpiry epoch lines s
  | .faultBatchClose slice => Sys2Proof.Machine.execFaultBatchClose slice s
  | .prgResponse fn prg code => Sys2Proof.Machine.execPrgResponse fn prg code s
  | .fqHeadWrite who page w => Sys2Proof.Machine.execFqHeadWrite who page w s
  | .fqEnWrite who page w => Sys2Proof.Machine.execFqEnWrite who page w s
  | .hotNotice slice granule => Sys2Proof.Machine.execHotNotice slice granule s
  | .accClear who page w => Sys2Proof.Machine.execAccClear who page w s
  | .dirtyRecord slice addr host => Sys2Proof.Machine.execDirtyRecord slice addr host s
  | .mapPeer who w ext => Sys2Proof.Machine.execMapPeer who w ext s
  | .unmapPeer who w ext => Sys2Proof.Machine.execUnmapPeer who w ext s
  | .dirtyStart who w ext => Sys2Proof.Machine.execDirtyStart who w ext s
  | .dirtyStop who w ext => Sys2Proof.Machine.execDirtyStop who w ext s
  | .dirtyRearm who w ext => Sys2Proof.Machine.execDirtyRearm who w ext s
  | .invalSlice who w ext => Sys2Proof.Machine.execInvalSlice who w ext s
  | .xltAreaWrite who off w => Sys2Proof.Machine.execXltAreaWrite who off w s
  | .createPartition who w ext => Sys2Proof.Machine.execCreatePartition who w ext s
  | .destroyPartition who w ext => Sys2Proof.Machine.execDestroyPartition who w ext s
  | .createSlice who w ext => Sys2Proof.Machine.execCreateSlice who w ext s
  | .modifySlice who w ext => Sys2Proof.Machine.execModifySlice who w ext s
  | .destroySlice who w ext => Sys2Proof.Machine.execDestroySlice who w ext s
  | .grant who w ext => Sys2Proof.Machine.execGrant who w ext s
  | .reclaim who w ext => Sys2Proof.Machine.execReclaim who w ext s
  | .createContext who w ext => Sys2Proof.Machine.execCreateContext who w ext s
  | .destroyContext who w ext => Sys2Proof.Machine.execDestroyContext who w ext s
  | .pinContext who w ext => Sys2Proof.Machine.execPinContext who w ext s
  | .unpinContext who w ext => Sys2Proof.Machine.execUnpinContext who w ext s
  | .viewContextCreate who page w => Sys2Proof.Machine.execViewContextCreate who page w s
  | .viewContextDestroy who page w => Sys2Proof.Machine.execViewContextDestroy who page w s
  | .ctxTablesWrite who off w => Sys2Proof.Machine.execCtxTablesWrite who off w s
  | .tdHeadWrite who w => Sys2Proof.Machine.execTdHeadWrite who w s
  | .spillDone ctx => Sys2Proof.Machine.execSpillDone ctx s
  | .restoreDone ctx => Sys2Proof.Machine.execRestoreDone ctx s
  | .admissionServe => Sys2Proof.Machine.execAdmissionServe s
  | .marionetteAssign => Sys2Proof.Machine.execMarionetteAssign s
  | .readyReceive port p => Sys2Proof.Machine.execReadyReceive port p s
  | .planReceive port p => Sys2Proof.Machine.execPlanReceive port p s
  | .planTimeout run => Sys2Proof.Machine.execPlanTimeout run s
  | .leaveReceive port p => Sys2Proof.Machine.execLeaveReceive port p s
  | .admittedJoinTimeout run seq => Sys2Proof.Machine.execAdmittedJoinTimeout run seq s
  | .stepStart run => Sys2Proof.Machine.execStepStart run s
  | .operationStart run => Sys2Proof.Machine.execOperationStart run s
  | .operationComplete run op => Sys2Proof.Machine.execOperationComplete run op s
  | .stepCommit run => Sys2Proof.Machine.execStepCommit run s
  | .stepRollback run op fault => Sys2Proof.Machine.execStepRollback run op fault s
  | .marionetteFailure mar => Sys2Proof.Machine.execMarionetteFailure mar s
  | .runEnd run => Sys2Proof.Machine.execRunEnd run s
  | .modelBlockLoaded work => Sys2Proof.Machine.execModelBlockLoaded work s
  | .modelStoreError err => Sys2Proof.Machine.execModelStoreError err s
  | .modelPieceReloaded model piece => Sys2Proof.Machine.execModelPieceReloaded model piece s
  | .storeConfigWrite who off w => Sys2Proof.Machine.execStoreConfigWrite who off w s
  | .treItemAssign work => Sys2Proof.Machine.execTreItemAssign work s
  | .treChunkDone engine => Sys2Proof.Machine.execTreChunkDone engine s
  | .treFailure engine => Sys2Proof.Machine.execTreFailure engine s
  | .gcreate who w ext => Sys2Proof.Machine.execGcreate who w ext s
  | .gdestroy who w ext => Sys2Proof.Machine.execGdestroy who w ext s
  | .collChunkReceive port p => Sys2Proof.Machine.execCollChunkReceive port p s
  | .collRreqReceive port p => Sys2Proof.Machine.execCollRreqReceive port p s
  | .stageChunkExpiry => Sys2Proof.Machine.execStageChunkExpiry s
  | .collPeerTimeout coll => Sys2Proof.Machine.execCollPeerTimeout coll s
  | .laneRemove port lane => Sys2Proof.Machine.execLaneRemove port lane s
  | .laneReceive port p => Sys2Proof.Machine.execLaneReceive port p s
  | .markersMissed port => Sys2Proof.Machine.execMarkersMissed port s
  | .codewordReceive port cw => Sys2Proof.Machine.execCodewordReceive port cw s
  | .lackReceive port p => Sys2Proof.Machine.execLackReceive port p s
  | .retryReceive port p => Sys2Proof.Machine.execRetryReceive port p s
  | .lackSendTimer port => Sys2Proof.Machine.execLackSendTimer port s
  | .creditReceive port p => Sys2Proof.Machine.execCreditReceive port p s
  | .remoteWrReceive port p => Sys2Proof.Machine.execRemoteWrReceive port p s
  | .remoteRdReceive port p => Sys2Proof.Machine.execRemoteRdReceive port p s
  | .remoteAtReceive port p => Sys2Proof.Machine.execRemoteAtReceive port p s
  | .sessionReceive port p => Sys2Proof.Machine.execSessionReceive port p s
  | .responseReceive port p => Sys2Proof.Machine.execResponseReceive port p s
  | .txnGapTimeout src => Sys2Proof.Machine.execTxnGapTimeout src s
  | .transactionTimeout dest txn => Sys2Proof.Machine.execTransactionTimeout dest txn s
  | .portDown port cause => Sys2Proof.Machine.execPortDown port cause s
  | .portRetryTimer port => Sys2Proof.Machine.execPortRetryTimer port s
  | .calDone port ok => Sys2Proof.Machine.execCalDone port ok s
  | .trainDone port lanes => Sys2Proof.Machine.execTrainDone port lanes s
  | .alignDone port ok chip peerPort => Sys2Proof.Machine.execAlignDone port ok chip peerPort s
  | .keychkReceive port cipher tag => Sys2Proof.Machine.execKeychkReceive port cipher tag s
  | .measureDone port delays => Sys2Proof.Machine.execMeasureDone port delays s
  | .portEnWrite who w => Sys2Proof.Machine.execPortEnWrite who w s
  | .portOffDrainEnd port => Sys2Proof.Machine.execPortOffDrainEnd port s
  | .retrain who port w => Sys2Proof.Machine.execRetrain who port w s
  | .routingCommit who chip w => Sys2Proof.Machine.execRoutingCommit who chip w s
  | .kiteSend port frac => Sys2Proof.Machine.execKiteSend port frac s
  | .kiteReceive port p => Sys2Proof.Machine.execKiteReceive port p s
  | .holdoverTimeout => Sys2Proof.Machine.execHoldoverTimeout s
  | .keySwitch port => Sys2Proof.Machine.execKeySwitch port s
  | .rekeyThreshold port => Sys2Proof.Machine.execRekeyThreshold port s
  | .regulatorWindow reg => Sys2Proof.Machine.execRegulatorWindow reg s
  | .regulatorIssue reg arrivals => Sys2Proof.Machine.execRegulatorIssue reg arrivals s
  | .feedbackLevelChange ctrl level => Sys2Proof.Machine.execFeedbackLevelChange ctrl level s
  | .regulatorCtrlCommit who reg w => Sys2Proof.Machine.execRegulatorCtrlCommit who reg w s
  | .wiredLineChange line level => Sys2Proof.Machine.execWiredLineChange line level s
  | .pendingWrite who page off bytes => Sys2Proof.Machine.execPendingWrite who page off bytes s
  | .evcDoorbell who w => Sys2Proof.Machine.execEvcDoorbell who w s
  | .evcModeWrite who w => Sys2Proof.Machine.execEvcModeWrite who w s
  | .pendSet who word w => Sys2Proof.Machine.execPendSet who word w s
  | .pendClr who word w => Sys2Proof.Machine.execPendClr who word w s
  | .sourceConfigWrite who w => Sys2Proof.Machine.execSourceConfigWrite who w s
  | .pnEnWrite who page w => Sys2Proof.Machine.execPnEnWrite who page w s
  | .pnHeadWrite who page w => Sys2Proof.Machine.execPnHeadWrite who page w s
  | .pennantRecordIssue => Sys2Proof.Machine.execPennantRecordIssue s
  | .mbxSend side chan => Sys2Proof.Machine.execMbxSend side chan s
  | .mbxWithdraw side chan => Sys2Proof.Machine.execMbxWithdraw side chan s
  | .mbxRelease side chan => Sys2Proof.Machine.execMbxRelease side chan s
  | .mbxTake side chan => Sys2Proof.Machine.execMbxTake side chan s
  | .mbxAck side chan code => Sys2Proof.Machine.execMbxAck side chan code s
  | .lockRead who lock => Sys2Proof.Machine.execLockRead who lock s
  | .lockFreeWrite who lock w => Sys2Proof.Machine.execLockFreeWrite who lock w s
  | .lockBreak who secure w => Sys2Proof.Machine.execLockBreak who secure w s
  | .monitorFire mon => Sys2Proof.Machine.execMonitorFire mon s
  | .coreFaultLine core level => Sys2Proof.Machine.execCoreFaultLine core level s
  | .contextReset req => Sys2Proof.Machine.execContextReset req s
  | .engineReset req => Sys2Proof.Machine.execEngineReset req s
  | .partitionReset req => Sys2Proof.Machine.execPartitionReset req s
  | .blockReset req => Sys2Proof.Machine.execBlockReset req s
  | .dump req => Sys2Proof.Machine.execDump req s
  | .dumpReadTimeout unit word => Sys2Proof.Machine.execDumpReadTimeout unit word s
  | .selfTestDone unit pass => Sys2Proof.Machine.execSelfTestDone unit pass s
  | .identity rec => Sys2Proof.Machine.execIdentity rec s
  | .sliceKey rec => Sys2Proof.Machine.execSliceKey rec s
  | .linkKey rec => Sys2Proof.Machine.execLinkKey rec s
  | .erase rec => Sys2Proof.Machine.execErase rec s
  | .dbgGrant rec => Sys2Proof.Machine.execDbgGrant rec s
  | .dbgDeny rec => Sys2Proof.Machine.execDbgDeny rec s
  | .dbgReq who w => Sys2Proof.Machine.execDbgReq who w s
  | .dbgDrop who w => Sys2Proof.Machine.execDbgDrop who w s
  | .challengeExpiry slice => Sys2Proof.Machine.execChallengeExpiry slice s
  | .alarmTrip sensor slice => Sys2Proof.Machine.execAlarmTrip sensor slice s
  | .niSelfWrite who page w => Sys2Proof.Machine.execNiSelfWrite who page w s
  | .niMgrReq who page w => Sys2Proof.Machine.execNiMgrReq who page w s
  | .niRespSubmit who page w => Sys2Proof.Machine.execNiRespSubmit who page w s
  | .niMgrDrop who page w => Sys2Proof.Machine.execNiMgrDrop who page w s
  | .b1Entry => Sys2Proof.Machine.execB1Entry s
  | .b1Exit cause => Sys2Proof.Machine.execB1Exit cause s
  | .enterB2 who w => Sys2Proof.Machine.execEnterB2 who w s
  | .b2GraceEnd => Sys2Proof.Machine.execB2GraceEnd s
  | .enterB3 who w => Sys2Proof.Machine.execEnterB3 who w s
  | .wake cause hbmLost => Sys2Proof.Machine.execWake cause hbmLost s
  | .coreSupplyLoss => Sys2Proof.Machine.execCoreSupplyLoss s
  | .suppliesValid => Sys2Proof.Machine.execSuppliesValid s
  | .startGo who w => Sys2Proof.Machine.execStartGo who w s
  | .readyReport => Sys2Proof.Machine.execReadyReport s
  | .rsSealWrite who w => Sys2Proof.Machine.execRsSealWrite who w s
  | .genChipWrite who w => Sys2Proof.Machine.execGenChipWrite who w s
  | .trgNow who w => Sys2Proof.Machine.execTrgNow who w s
  | .arm who w => Sys2Proof.Machine.execArm who w s
  | .mark who w => Sys2Proof.Machine.execMark who w s
  | .tbHeadWrite who w => Sys2Proof.Machine.execTbHeadWrite who w s
  | .tbModeWrite who w => Sys2Proof.Machine.execTbModeWrite who w s
  | .stHeadWrite who page w => Sys2Proof.Machine.execStHeadWrite who page w s
  | .stEnWrite who page w => Sys2Proof.Machine.execStEnWrite who page w s
  | .latchedPairRead who off size => Sys2Proof.Machine.execLatchedPairRead who off size s
  | .counterSatClear who off w => Sys2Proof.Machine.execCounterSatClear who off w s
  | .pageLockWrite who off w => Sys2Proof.Machine.execPageLockWrite who off w s
  | .pageFreezeWrite who off w => Sys2Proof.Machine.execPageFreezeWrite who off w s
  | .pageErrorClear who off w => Sys2Proof.Machine.execPageErrorClear who off w s
  | .registerWrite who off size w hi => Sys2Proof.Machine.execRegisterWrite who off size w hi s
  | .coreMemoryRequest core req => Sys2Proof.Machine.execCoreMemoryRequest core req s
  | .dispatchPortFailure port => Sys2Proof.Machine.execDispatchPortFailure port s
  | .recordRestored core => Sys2Proof.Machine.execRecordRestored core s
  | .dumpComplete => Sys2Proof.Machine.execDumpComplete s
  | .debugLockoutExpiry => Sys2Proof.Machine.execDebugLockoutExpiry s
  | .dirtyRingHeadAdvance slice head => Sys2Proof.Machine.execDirtyRingHeadAdvance slice head s
  | .powerCycle => Sys2Proof.Machine.execPowerCycle s

end Sys2Proof.Machine
end

