-- ==== Sys2Proof/Machine/Step.lean ====
section
/-! DEFINITION. One step of the block: the command at the front of the queue, or, with none waiting, one nanosecond of
fabric time. -/

namespace Sys2Proof.Machine

/-- One step. DESIGN CHOICE: on an empty queue fabric time runs on by the tick of `Blk.tick`; commands take no fabric time
of their own. -/
def step (s : State) : Host.Outcome State Fault Refusal :=
  match s.pending with
  | [] => .next { pending := [], blk := s.blk.tick }
  | c :: rest => exec c { pending := rest, blk := s.blk }

/-- The state with the command that a word spells put at the front of its queue; unchanged where the word spells none. -/
def State.withFetchWord (s : State) (nbits w : Nat) : State :=
  match decodeTableWord nbits w with
  | some c => { pending := c :: s.pending, blk := s.blk }
  | none => s

end Sys2Proof.Machine
end

