-- ==== Sys2Proof/Safety.lean ====
section
/-! DEFINITION. What counts as a sound state and a safe run of the block, and the occasions of commands, in the terms that claims
use. -/

namespace Sys2Proof.Safety

open Sys2Proof Sys2Proof.Machine

/-! ## Sound states -/

/-- The memory of a state has its one canonical form. -/
abbrev memOk (s : State) : Prop := Memory.wf s.blk.mem = true

/-- Nothing runs and no key is left: no supply of the core is valid, the block is in B3 or has never started, no SUPPLIES_VALID waits, and
there is no slice, context, queue, item, run or engine work and no key in any slot (R455, R456). -/
def dark (s : State) : Prop :=
  s.blk.pwr.supplies = false ∧ (s.blk.pwr.pstate = 0 ∨ s.blk.pwr.pstate = 3) ∧ Instr.suppliesValid ∉ s.pending ∧
  s.blk.slices = [] ∧ s.blk.contexts = [] ∧ s.blk.queues = [] ∧ s.blk.items = [] ∧ s.blk.mar.runs = [] ∧ s.blk.tre.works = [] ∧
  s.blk.sec.sliceKeys = [] ∧ s.blk.sec.linkKeys = []

/-- Every command that waits is well formed. -/
def queueOk (s : State) : Prop := ∀ c ∈ s.pending, c.wf = true

/-- An outcome is a next state: neither a fault nor a refusal. -/
def answers (o : Host.Outcome State Fault Refusal) : Prop := ∃ t, o = .next t

/-! ## Events of the units -/

/-- The unit page whose FREEZE holds a command that is an event of a unit's own, or of Lemdy's ports (R489); none for a command that comes from
outside. -/
def eventPage : Instr → Option Nat
  | .queueDrainEnd _ _ | .entryReceived _ _ _ | .itemStart _ | .completionWriteRetry _ | .itemDeadlineExpiry _ => some pgQFE
  | .alloc _ | .free _ | .spillDone _ | .restoreDone _ | .admissionServe => some pgCTX
  | .fenceSignal _ | .fenceWait _ | .pollRecheck | .waitDeadlineExpiry _ | .remoteSignalTimeout _ | .fsigSend _ => some pgFEN
  | .pennantRecordIssue => some pgEVC
  | .launch _ | .flushRange _ | .workGroupPlace _ | .workGroupEnd _ _ | .cheapPointAck _ | .coreIdle _ _ | .graceExpiry _ _
    | .saveStopFailure _ _ | .restoreDispatch _ | .restoreFailure _ _ | .cacheMaintenanceAck _ _ | .dispatchPortFailure _
    | .recordRestored _ => some pgSCH
  | .stepRun _ | .seqJoin _ | .seqLeave _ | .marionetteAssign | .planTimeout _ | .admittedJoinTimeout _ _ | .stepStart _
    | .operationStart _ | .operationComplete _ _ | .stepCommit _ | .stepRollback _ _ _ | .marionetteFailure _
    | .runEnd _ => some pgMAR
  | .modelLoad _ | .modelPin _ | .modelBlockLoaded _ | .modelStoreError _ | .modelPieceReloaded _ _ => some pgMDL
  | .atsCompletion _ _ _ _ _ | .rangeCacheMissDone _ | .atsInvalidationRequest _ _ _ _ _ | .holdRelease _ | .shootdownAck _
    | .invalidationAbort _ | .abortDrainExpiry _ _ | .faultBatchClose _ | .prgResponse _ _ _ | .hotNotice _ _ | .dirtyRecord _ _ _
    | .coreMemoryRequest _ _ | .dirtyRingHeadAdvance _ _ => some pgXLT
  | .copy _ | .reduce _ | .collective _ | .kvMove _ | .treItemAssign _ | .treChunkDone _ | .treFailure _ | .stageChunkExpiry
    | .collPeerTimeout _ => some pgTRE
  | .regulatorWindow _ | .regulatorIssue _ _ | .feedbackLevelChange _ _ => some pgBWR
  | .hostFlushReadIssue _ | .hostReadCompletion _ _ | .hostReadTimeout _ => some pgHLU
  | .monitorFire _ => some pgRCV
  | .remoteWriteLost _ _ | .remoteReadTimeout _ _ | .transactionTimeout _ _ => some pgLMF
  | _ => none

/-- A command that is an event of Lemdy's link layer, which a block reset leaves in service (R360). -/
def linkEvent : Instr → Bool
  | .fsigReceive _ _ | .fackReceive _ _ | .remoteWriteAck _ _ | .readyReceive _ _ | .planReceive _ _ | .leaveReceive _ _
    | .collChunkReceive _ _ | .collRreqReceive _ _ | .laneRemove _ _ | .laneReceive _ _ | .markersMissed _ | .codewordReceive _ _
    | .lackReceive _ _ | .retryReceive _ _ | .lackSendTimer _ | .creditReceive _ _ | .remoteWrReceive _ _ | .remoteRdReceive _ _
    | .remoteAtReceive _ _ | .sessionReceive _ _ | .responseReceive _ _ | .txnGapTimeout _ | .portDown _ _ | .portRetryTimer _
    | .calDone _ _ | .trainDone _ _ | .alignDone _ _ _ _ | .keychkReceive _ _ _ | .measureDone _ _ | .portOffDrainEnd _
    | .kiteSend _ _ | .kiteReceive _ _ | .holdoverTimeout | .keySwitch _ | .rekeyThreshold _ => true
  | _ => false

/-! ## What a family of commands may change -/

/-- The commands of mailbox channels and locks (R407 to R411). -/
def mailboxCommand : Instr → Bool
  | .mbxSend _ _ | .mbxWithdraw _ _ | .mbxRelease _ _ | .mbxTake _ _ | .mbxAck _ _ _ | .lockRead _ _ | .lockFreeWrite _ _ _
    | .lockBreak _ _ _ => true
  | _ => false

/-- The commands of event sources and of Pennant rings' registers (R393 to R399). -/
def sourceCommand : Instr → Bool
  | .wiredLineChange _ _ | .pendingWrite _ _ _ _ | .evcDoorbell _ _ | .evcModeWrite _ _ | .pendSet _ _ _ | .pendClr _ _ _
    | .sourceConfigWrite _ _ | .pnEnWrite _ _ _ | .pnHeadWrite _ _ _ => true
  | _ => false

/-- The commands of bandwidth regulators (R375 to R388). -/
def regulatorCommand : Instr → Bool
  | .regulatorWindow _ | .regulatorIssue _ _ | .feedbackLevelChange _ _ | .regulatorCtrlCommit _ _ _ => true
  | _ => false

/-- The commands that change page headers alone (R484, R488, R489). -/
def headerCommand : Instr → Bool
  | .pageLockWrite _ _ _ | .pageFreezeWrite _ _ _ | .pageErrorClear _ _ _ => true
  | _ => false

/-- The commands of idling, of the seal and of the start that change PWR alone (R451, R457, R463). -/
def idleCommand : Instr → Bool
  | .b1Entry | .b1Exit _ | .startGo _ _ | .rsSealWrite _ _ => true
  | _ => false

/-- The commands that change TRC's registers and write no record (R474, R478, R479). -/
def traceSetting : Instr → Bool
  | .arm _ w => !w.getLsbD 1
  | .tbModeWrite _ _ | .stEnWrite _ _ _ => true
  | _ => false

/-! ## Occasions -/

/-- The units run, and debug does not hold the unit of a page frozen (R48, R424, R452, R489). -/
abbrev unitOn (pg : Nat) (b : Blk) : Prop := unitsRun b = true ∧ frozenUnit b pg = false

/-- The link layer of Lemdy runs (R48, R360, R452, R489). -/
abbrev linkOn (b : Blk) : Prop := b.pwr.supplies = true ∧ b.pwr.pstate < 2 ∧ frozenUnit b pgLMF = false

/-- The block serves host accesses in B0: its supplies are valid, it is ready, and no entry to B2 or B3 is in its grace. -/
abbrev hostUp (b : Blk) : Prop := b.pwr.supplies = true ∧ b.pwr.pstate = 0 ∧ b.pwr.ready = true ∧ b.pwr.graceFt = none

/-- A write of a unit page is admitted, and finds the block in state `t` (R451, R459, R486). -/
abbrev unitTakes (who : Who) (pg : Nat) (b t : Blk) : Prop := gatePower who pg true b = (t, true) ∧ ownsUnit t who pg = true

/-- A command of one side of a mailbox channel is admitted, and finds the block in state `t` (R407, R451, R486). -/
def sideTakes (side : MbxSide) (c : Nat) (b t : Blk) : Prop :=
  c < 32 ∧ match side with
    | .host who => unitTakes who (chanPage c) b t
    | .mp => b.pwr.supplies = true ∧ b.pwr.pstate ≠ 3 ∧ t = if b.pwr.pstate = 1 then leaveB1 b else b

/-- A write addresses the page of a live slice and reaches it (R53, R459). -/
abbrev pageTakes (who : Who) (pg page s : Nat) (b t : Blk) : Prop :=
  gatePower who pg true b = (t, true) ∧ pageSlice t who page = some s

/-- A write of the view page of slice `s` is admitted, and finds the block in state `t` (R53, R459, R487, R496). -/
abbrev viewTakes (who : Who) (page s : Nat) (b t : Blk) : Prop :=
  pageTakes who (pgView page) page s b t ∧ ownsView t who s = true

/-- A read reaches its page, and finds the block in state `t` (R459, R490). -/
abbrev readTakes (who : Who) (pg size : Nat) (b t : Blk) : Prop := gatePower who pg false b = (t, true) ∧ sizeIs size = true

/-- SEC takes a delivery record of a kind: it is powered, IDENTITY has come or the record is IDENTITY, and the record's unused fields are zero
(R436, R440). -/
abbrev recordTakes (kind : Nat) (r : Bytes) (b : Blk) : Prop :=
  b.pwr.supplies = true ∧ b.pwr.pstate < 3 ∧ (b.sec.identOk = true ↔ kind ≠ 1) ∧ recordOk r kind = true

/-- The item of a number is a started one of an opcode whose effect is still to begin (R79, R226). -/
abbrev itemRuns (i op pg : Nat) (b : Blk) (it : Item) : Prop := b.items.get? i = some it ∧ mayRun b i op pg it = true

/-- A good control packet arrives on a port in ALIGN or later; `u` is the block with the port's packet counted (R346, R371). -/
abbrev controlArrives (n : Nat) (p : Pkt) (b u : Blk) : Prop :=
  linkOn b ∧ kitePort (b.port n) = true ∧ pktOk p = true ∧ p.vc = 3 ∧ u = b.updPort n fun q => { q with rxCtr := q.rxCtr + 1 }

/-- A good packet for this chip arrives on a port in service, outside a block reset; `u` is the block with the port's packet counted
(R346, R351, R360). -/
abbrev dataArrives (n : Nat) (p : Pkt) (b u : Blk) : Prop :=
  linkOn b ∧ portActive b n = true ∧ pktOk p = true ∧ p.dest = b.chip ∧ b.rcv.blockPhase = 0 ∧
  u = b.updPort n fun q => { q with rxCtr := q.rxCtr + 1 }

/-- A request packet arrives whose TXN is the next of its source; `v` is the block with that TXN applied (R353). -/
abbrev requestArrives (n : Nat) (p : Pkt) (b u v : Blk) : Prop :=
  dataArrives n p b u ∧ p.txn = (u.src p.src).last + 1 ∧
  v = ((if p.typ = 0x04 then u else leaveB1 u).updSrc p.src fun k => { k with last := p.txn })

end Sys2Proof.Safety
end

