-- ==== Sys2Proof/Certificates/Slice0/Obligations.lean ====
section
/-! DEFINITION. The statements: the spec's rules and the model's invariants over all states, then the completion of every command. -/

open Sys2Proof Sys2Proof.Machine Sys2Proof.Safety

/-- A step runs the front command on the rest of the queue; on an empty queue fabric time ticks (95_what_each_step_holds.md, R46). -/
def Obligations.StepTakesTheFront : Prop :=
  (∀ (c : Instr) (p : List Instr) (b : Blk), step ⟨c :: p, b⟩ = exec c ⟨p, b⟩) ∧
  (∀ b : Blk, step ⟨[], b⟩ = .next ⟨[], b.tick⟩)

/-- Every command answers a next state with the queue unchanged, and a step keeps every waiting command well formed (R48, 95_what_each_step_holds.md). -/
def Obligations.EveryCommandAnswers : Prop :=
  (∀ (c : Instr) (p : List Instr) (b : Blk), ∃ u, exec c ⟨p, b⟩ = .next ⟨p, u⟩) ∧
  (∀ s t : State, queueOk s → step s = .next t → queueOk t)

/-- A tick advances fabric time by 1 ns, by 0 or 2 in a slew, and does nothing without supplies outside B3 (R46, R50, R51). -/
def Obligations.TickNeverGoesBack : Prop :=
  ∀ b : Blk, b.ft ≤ b.tick.ft ∧ b.tick.ft ≤ b.ft + 2 ∧
    (b.pwr.supplies = true → b.lmf.slew = 0 → b.tick = { b with ft := b.ft + 1 }) ∧
    (b.pwr.supplies = false → b.pwr.pstate ≠ 3 → b.tick = b)

/-- Every field of a Burgee reads back from its bits of Table 01.3, and the reserved bits are zero (R22). -/
def Obligations.BurgeeFieldsReadBack : Prop :=
  ∀ slice ctx cls dl scope : Nat, slice < 4096 → ctx < 65536 → cls < 8 → dl < 2 ^ 24 → scope < 6 →
    bits (burgee slice ctx cls dl scope) 0 12 = slice ∧ bits (burgee slice ctx cls dl scope) 12 16 = ctx ∧
    bits (burgee slice ctx cls dl scope) 28 3 = cls ∧ bits (burgee slice ctx cls dl scope) 31 1 = 0 ∧
    bits (burgee slice ctx cls dl scope) 32 24 = dl ∧ bits (burgee slice ctx cls dl scope) 56 3 = scope ∧
    bits (burgee slice ctx cls dl scope) 59 5 = 0 ∧ burgeeOk (burgee slice ctx cls dl scope) = true

/-- DEADLINE is the time remaining in 16 ns units, rounded down, and 0xFFFFFF beyond the largest finite deadline (R24). -/
def Obligations.DeadlineIsTimeRemaining : Prop :=
  ∀ ft t : Nat, ft ≤ t →
    ((t - ft) / 16 ≤ 0xFFFFFE → deadlineField ft (some t) = (t - ft) / 16) ∧
    (0xFFFFFE < (t - ft) / 16 → deadlineField ft (some t) = 0xFFFFFF) ∧ deadlineField ft none = 0xFFFFFF ∧
    (t - ft ≤ 268435424 → deadlineField ft (some t) ≤ 0xFFFFFE)

/-- A counter counts one event at a time up to all-ones, sets its sticky bit there, and never wraps or falls (R9). -/
def Obligations.CountersSaturate : Prop :=
  ∀ c : Ctr,
    (c.val = BitVec.allOnes 31 → c.bump = c) ∧
    (c.val ≠ BitVec.allOnes 31 → c.bump.val.toNat = c.val.toNat + 1) ∧
    (c.val ≠ BitVec.allOnes 31 → (c.bump.sat = true ↔ c.sat = true ∨ c.bump.val = BitVec.allOnes 31)) ∧
    (c.sat = true → c.bump.sat = true) ∧ c.val.toNat ≤ c.bump.val.toNat ∧
    (∀ n : Nat, c.val.toNat ≤ (c.add n).val.toNat ∧ (c.add n).val.toNat ≤ c.val.toNat + n) ∧
    (∀ n : Nat, 0 < n → 2 ^ 31 - 1 ≤ c.val.toNat + n → c.add n = ⟨BitVec.allOnes 31, true⟩)

/-- Bits 63:57 of a DVA must be zero, and bit 56 selects the host window or the slice's ranges (R207). -/
def Obligations.AddressSelectsItsMechanism : Prop :=
  ∀ (b : Blk) (slice dva : Nat) (write : Bool), dva < 2 ^ 64 →
    (bits dva 57 7 ≠ 0 → xlate b slice dva write = .fault 0x01) ∧
    (bits dva 57 7 = 0 → bits dva 56 1 = 1 → xlate b slice dva write = .host (dva - 2 ^ 56)) ∧
    (bits dva 57 7 = 0 → bits dva 56 1 = 0 → ∀ hva, xlate b slice dva write ≠ .host hva) ∧
    (∀ (i : Nat) (r : Range), bits dva 57 7 = 0 → bits dva 56 1 = 0 → 0x10000 ≤ dva →
      ¬ (modelBase ≤ dva ∧ dva < modelBase + 1024 * modelSpan) → findRange b slice dva = some (i, r) →
      (write && r.readOnly) = false → paInside (r.pa + (dva - r.start)) 1 = true →
      xlate b slice dva write = .dev (r.pa + (dva - r.start)) (.range slice i))

/-- A device address below 64 KiB, in no range, written through a read-only range or outside local space faults with its cause (R208, R211, R29, R212). -/
def Obligations.RangesBoundDeviceAddresses : Prop :=
  ∀ (b : Blk) (slice dva : Nat) (write : Bool),
    (dva < 0x10000 → xlate b slice dva write = .fault 0x02) ∧
    (0x10000 ≤ dva → dva < 2 ^ 56 → ¬ (modelBase ≤ dva ∧ dva < modelBase + 1024 * modelSpan) →
      (∀ e ∈ rangesOf b slice, e.2.valid = true → ¬ (e.2.start ≤ dva ∧ dva < e.2.start + e.2.len)) →
      xlate b slice dva write = .fault 0x03) ∧
    (∀ (i : Nat) (r : Range), 0x10000 ≤ dva → dva < 2 ^ 56 → ¬ (modelBase ≤ dva ∧ dva < modelBase + 1024 * modelSpan) →
      findRange b slice dva = some (i, r) →
      (r.readOnly = true → xlate b slice dva true = .fault 0x04) ∧
      (r.readOnly = true → paInside (r.pa + (dva - r.start)) 1 = true →
        xlate b slice dva false = .dev (r.pa + (dva - r.start)) (.range slice i)) ∧
      (r.readOnly = false → paInside (r.pa + (dva - r.start)) 1 = false → xlate b slice dva write = .fault 0x05)) ∧
    (modelBase ≤ dva → dva < modelBase + 1024 * modelSpan → ∀ pa tgt, xlate b slice dva true ≠ .dev pa tgt)

/-- A granule admits only its owner's slice, and one with no owner only Swedikin's own writes as slice 0; a refused store is not done (R218, R501). -/
def Obligations.OwnersGuardGranules : Prop :=
  ∀ (b : Blk) (frm : Origin) (slice k n : Nat) (write : Bool), 0 < n → k / 65536 = (k + n - 1) / 65536 →
    protectedGranule b (k / 65536) = false →
    (∀ o, b.own.owner.get? (k / 65536) = some o → (admits b frm slice write k n = true ↔ o = slice)) ∧
    (b.own.owner.get? (k / 65536) = none →
      (admits b frm slice write k n = true ↔ frm = .swedikin ∧ slice = 0 ∧ write = true)) ∧
    (∀ (ctx cls scope lim : Nat) (dl : Option Nat) (item : Option Nat) (why : ReqFor) (dva : Nat) (tgt : Target) (bs : Bytes),
      admits b .swedikin slice true k n = false →
      putSegs slice ctx cls scope dl item why lim [⟨dva, n, .here k tgt⟩] bs b = none)

/-- A signal raises VALUE to the larger of the two, and a stale one changes only STALE and its saturation (R145). -/
def Obligations.FenceValuesOnlyRise : Prop :=
  ∀ (b : Blk) (slice f : Nat) (e : Fence) (v : BitVec 64), b.fen.fences.get? f = some e → e.owner = slice →
    (v ≤ e.value → applySignal slice f v false b =
      (b.fenU fun x => { x with
        fences := x.fences.set f { e with stale := min 255 (e.stale + 1), staleSat := e.staleSat || decide (255 ≤ e.stale + 1) }
        staleTotal := x.staleTotal.bump }, 1)) ∧
    (e.value < v → applySignal slice f v false b =
      (b.fenU fun x => { x with fences := x.fences.set f { e with value := v } }, 0)) ∧
    (e.abandoning = false → ∀ w, satisfied b f w = true ↔ w ≤ e.value) ∧
    (e.abandoning = false → ∀ (i : Nat) (it : Item), it.slice = slice → armWait i it f 0 b = endItem i okResult b) ∧
    (e.value = BitVec.allOnes 64 → e.abandoning = false → satisfied b f v = true ∧ (applySignal slice f v false b).2 = 1)

/-- Commands of mailboxes and locks, of event sources and Pennant registers, and of regulators change only their own unit's state (R408, R411, R393, R412, R375, R388). -/
def Obligations.MailboxEventFrames : Prop :=
  ∀ (c : Instr) (p : List Instr) (b : Blk) (t : State), exec c ⟨p, b⟩ = .next t →
    (mailboxCommand c = true → t.pending = p ∧ t.blk = { b with
      pages := t.blk.pages, pwr := t.blk.pwr, evc := t.blk.evc, mbx := t.blk.mbx, out := t.blk.out, readOut := t.blk.readOut }) ∧
    (sourceCommand c = true → t.pending = p ∧ t.blk = { b with
      pages := t.blk.pages, pwr := t.blk.pwr, evc := t.blk.evc, views := t.blk.views }) ∧
    (regulatorCommand c = true → t.pending = p ∧ t.blk = { b with
      pages := t.blk.pages, pwr := t.blk.pwr, evc := t.blk.evc, bwr := t.blk.bwr, views := t.blk.views })

/-- Header writes, idling, seal and start writes, trace settings and reads change only what they name (R484, R488, R489, R451, R457, R474, R490). -/
def Obligations.SettingFrames : Prop :=
  ∀ (c : Instr) (p : List Instr) (b : Blk) (t : State), exec c ⟨p, b⟩ = .next t →
    (headerCommand c = true → t.pending = p ∧ t.blk = { b with pages := t.blk.pages, pwr := t.blk.pwr }) ∧
    (idleCommand c = true → t.pending = p ∧ t.blk = { b with pages := t.blk.pages, pwr := t.blk.pwr }) ∧
    (traceSetting c = true → t.pending = p ∧ t.blk = { b with
      pages := t.blk.pages, pwr := t.blk.pwr, trc := t.blk.trc, views := t.blk.views }) ∧
    (∀ who off size, c = .latchedPairRead who off size → t.pending = p ∧ t.blk = { b with
      readOut := t.blk.readOut, latches := t.blk.latches, mbx := t.blk.mbx, pwr := t.blk.pwr, pages := t.blk.pages })

/-- A duplicate request packet is counted and not applied, and one ahead of its turn is held (R353, R355). -/
def Obligations.RequestsAreAppliedOnceInOrder : Prop :=
  ∀ (p : List Instr) (b u v : Blk) (n : Nat) (k : Pkt), dataArrives n k b u → k.typ = 0x01 → v = leaveB1 u →
    (k.txn ≤ (v.src k.src).last → exec (.remoteWrReceive n k) ⟨p, b⟩ =
      .next ⟨p, afterPkt (reorderFull b) (oweCredit n k (v.lmfU fun l => { l with dupReq := l.dupReq.bump }))⟩) ∧
    ((v.src k.src).last + 1 < k.txn → ((v.src k.src).held.any fun h => h.1 == k.txn) = false →
      exec (.remoteWrReceive n k) ⟨p, b⟩ = .next ⟨p, afterPkt (reorderFull b)
        (oweCredit n k (v.updSrc k.src fun s => { s with held := insertOn (·.1) (k.txn, v.ft, k) s.held }))⟩)

/-- A packet for another chip is forwarded with TTL one lower, or discarded and counted where TTL would be 0 (R358). -/
def Obligations.ForwardingCountsDownTtl : Prop :=
  ∀ (p : List Instr) (b u : Blk) (n : Nat) (k : Pkt), linkOn b → portActive b n = true → pktOk k = true → k.vc < 3 → k.typ = 0x01 →
    k.dest ≠ b.chip → u = oweCredit n k (b.updPort n fun q => { q with rxCtr := q.rxCtr + 1 }) →
    (k.ttl ≤ 1 → exec (.remoteWrReceive n k) ⟨p, b⟩ =
      .next ⟨p, afterPkt (reorderFull b) (u.lmfU fun l => { l with ttlDrops := l.ttlDrops.bump })⟩) ∧
    (1 < k.ttl → exec (.remoteWrReceive n k) ⟨p, b⟩ = .next ⟨p, afterPkt (reorderFull b) (sendPkt { k with ttl := k.ttl - 1 } u)⟩)

/-- GEN_CHIP takes a write only while no Lemdy port is in service; else the write is ignored and counted (R33). -/
def Obligations.ChipNumberHoldsWhilePortsServe : Prop :=
  ∀ (p : List Instr) (b t : Blk) (who : Who) (w : W32), unitTakes who pgGEN b t → (t.hdr pgGEN).locked = false →
    (((List.range 32).any fun n => portActive t n) = true →
      exec (.genChipWrite who w) ⟨p, b⟩ = .next ⟨p, { t with pages := t.pages.set pgGEN ((t.hdr pgGEN).count t.ft 0x06) }⟩) ∧
    (((List.range 32).any fun n => portActive t n) = false →
      ∃ u, exec (.genChipWrite who w) ⟨p, b⟩ = .next ⟨p, u⟩ ∧
        u = { t with chip := bits w.toNat 0 10, pwr := { t.pwr with retained := { t.pwr.retained with chip := bits w.toNat 0 10 } }
                     lmf := u.lmf })

/-- The first error after a clear latches its code and time; later ones only count; other pages keep their headers (R484). -/
def Obligations.FirstErrorLatches : Prop :=
  (∀ (h : PageHdr) (ft code : Nat), h.err.val = 0 → h.err.sat = false →
    h.count ft code = { h with err := ⟨1, false⟩, errCode := BitVec.ofNat 8 code, errFt := BitVec.ofNat 24 (ft / 1024) }) ∧
  (∀ (h : PageHdr) (ft code : Nat), h.err.val ≠ 0 → h.count ft code = { h with err := h.err.bump }) ∧
  (∀ (pg code pg' : Nat) (b : Blk), pg' ≠ pg → (pageErr pg code b).hdr pg' = b.hdr pg') ∧
  (∀ (pg code : Nat) (b : Blk), (pageErr pg code b).hdr pg = (b.hdr pg).count b.ft code ∧
    pageErr pg code b = { b with pages := (pageErr pg code b).pages }) ∧
  (∀ (slice pg code : Nat) (b : Blk), pg ≠ pgView slice →
    (viewErr slice pg code b).hdr pg = (b.hdr pg).count b.ft code ∧
    (viewErr slice pg code b).hdr (pgView slice) = (b.hdr (pgView slice)).count b.ft code)

/-- On a locked page a write of a retained field is ignored and counted with code 0x03, for eight units (R488). -/
def Obligations.LockedPagesKeepTheirFields : Prop :=
  ∀ (p : List Instr) (b t : Blk) (who : Who) (n : Nat) (w : W32),
    (unitTakes who pgGEN b t → (t.hdr pgGEN).locked = true → exec (.genChipWrite who w) ⟨p, b⟩ = .next ⟨p, pageErr pgGEN 0x03 t⟩) ∧
    (unitTakes who pgPWR b t → (t.hdr pgPWR).locked = true → exec (.rsSealWrite who w) ⟨p, b⟩ = .next ⟨p, pageErr pgPWR 0x03 t⟩) ∧
    (unitTakes who pgEVC b t → (t.hdr pgEVC).locked = true → exec (.sourceConfigWrite who w) ⟨p, b⟩ = .next ⟨p, pageErr pgEVC 0x03 t⟩) ∧
    (unitTakes who pgBWR b t → (t.hdr pgBWR).locked = true → exec (.regulatorCtrlCommit who n w) ⟨p, b⟩ = .next ⟨p, pageErr pgBWR 0x03 t⟩) ∧
    (unitTakes who pgTRC b t → (t.hdr pgTRC).locked = true → exec (.tbModeWrite who w) ⟨p, b⟩ = .next ⟨p, pageErr pgTRC 0x03 t⟩) ∧
    (unitTakes who pgXLT b t → (t.hdr pgXLT).locked = true → exec (.xltAreaWrite who n w) ⟨p, b⟩ = .next ⟨p, pageErr pgXLT 0x03 t⟩) ∧
    (unitTakes who pgLMF b t → (t.hdr pgLMF).locked = true → exec (.portEnWrite who w) ⟨p, b⟩ = .next ⟨p, pageErr pgLMF 0x03 t⟩) ∧
    (∀ u k, unitTakes who pgRCV b u → k = (if w.getLsbD 31 then clearUnit pgRCV 0x40 u else u) → (k.hdr pgRCV).locked = true →
      plainUnit pgRCV 0x40 w k = pageErr pgRCV 0x03 k)

/-- No event of a frozen unit, or of a block that is reset, asleep or without supplies, changes anything (R489, R424, R360, R452, R48). -/
def Obligations.HeldUnitsDoNothing : Prop :=
  ∀ (c : Instr) (p : List Instr) (b : Blk),
    (∀ pg, eventPage c = some pg → frozenUnit b pg = true ∨ unitsRun b = false → exec c ⟨p, b⟩ = .next ⟨p, b⟩) ∧
    (linkEvent c = true → frozenUnit b pgLMF = true ∨ 2 ≤ b.pwr.pstate ∨ b.pwr.supplies = false → exec c ⟨p, b⟩ = .next ⟨p, b⟩)

/-- SEND, WITHDRAW, RELEASE, TAKE and ACK act as Table 12.6 lists, with their notices, and fields are writable only while EMPTY (R408, R409, R410). -/
def Obligations.MailboxSlotsFollowTheirStates : Prop :=
  ∀ (p : List Instr) (b t : Blk) (side : MbxSide) (c : Nat) (code : W16), sideTakes side c b t →
    exec (.mbxSend side c) ⟨p, b⟩ = .next ⟨p, match (t.slot (hostSends side) c).state with
      | .empty => (if hostSends side then fun x => x.emit (.mpNotice c) else hostNotice 73 c)
          (t.updSlot (hostSends side) c fun s => { s with state := .posted, wdLate := false })
      | _ => pageErr (chanPage c) 0x06 t⟩ ∧
    exec (.mbxWithdraw side c) ⟨p, b⟩ = .next ⟨p, match (t.slot (hostSends side) c).state with
      | .posted => t.updSlot (hostSends side) c fun s => { s with state := .empty }
      | .taken => t.updSlot (hostSends side) c fun s => { s with state := .empty }
      | .acked => pageErr (chanPage c) 0x06 (t.updSlot (hostSends side) c fun s => { s with wdLate := true })
      | .empty => pageErr (chanPage c) 0x06 t⟩ ∧
    exec (.mbxRelease side c) ⟨p, b⟩ = .next ⟨p, match (t.slot (hostSends side) c).state with
      | .acked => t.updSlot (hostSends side) c fun s => { s with state := .empty }
      | _ => pageErr (chanPage c) 0x06 t⟩ ∧
    exec (.mbxTake side c) ⟨p, b⟩ = .next ⟨p, match (t.slot (!hostSends side) c).state with
      | .posted => t.updSlot (!hostSends side) c fun s => { s with state := .taken }
      | _ => pageErr (chanPage c) 0x06 t⟩ ∧
    exec (.mbxAck side c code) ⟨p, b⟩ = .next ⟨p, match (t.slot (!hostSends side) c).state with
      | .posted => (if hostSends side then fun x => x.emit (.mpNotice c) else hostNotice 74 c)
          (t.updSlot (!hostSends side) c fun s => { s with state := .acked, ackCode := code })
      | .taken => (if hostSends side then fun x => x.emit (.mpNotice c) else hostNotice 74 c)
          (t.updSlot (!hostSends side) c fun s => { s with state := .acked, ackCode := code })
      | _ => pageErr (chanPage c) 0x06 t⟩ ∧
    (∀ (h2m : Bool) (w : W32), (t.slot h2m c).state ≠ .empty → ∀ rel ∈ [0x00, 0x04, 0x08, 0x0C],
      chanField h2m c rel w t = pageErr (chanPage c) 0x06 t) ∧
    (∀ (h2m : Bool) (w : W32), (t.slot h2m c).state = .empty →
      chanField h2m c 0x00 w t = t.updSlot h2m c (fun s => { s with ptr := s.ptr.extractLsb' 32 32 ++ w }) ∧
      chanField h2m c 0x04 w t = t.updSlot h2m c (fun s => { s with ptr := w ++ s.ptr.extractLsb' 0 32 }) ∧
      chanField h2m c 0x08 w t = t.updSlot h2m c (fun s => { s with len := w }) ∧
      chanField h2m c 0x0C w t = t.updSlot h2m c (fun s => { s with tag := w.setWidth 16 }))

/-- A lock is acquired by the read that returns 0, shows its owner, is freed by its owner alone or broken (R411). -/
def Obligations.LocksHaveOneOwner : Prop :=
  (∀ (p : List Instr) (b t : Blk) (who : Who) (n k : Nat), gatePower who (lockPage n) false b = (t, true) → n < 64 → isDebug who = false →
    (32 ≤ n → secureWorld t who = true) →
    (t.mbx.locks.get? n = none → ownerNumber t who = some k →
      exec (.lockRead who n) ⟨p, b⟩ = .next ⟨p, readWord 0 (t.mbxU fun m => { m with locks := m.locks.set n k })⟩) ∧
    (t.mbx.locks.get? n = some k → exec (.lockRead who n) ⟨p, b⟩ = .next ⟨p, readWord k t⟩)) ∧
  (∀ (p : List Instr) (b t : Blk) (who : Who) (n : Nat), gatePower who (lockPage n) false b = (t, true) → 32 ≤ n → n < 64 →
    secureWorld t who = false → isDebug who = false → exec (.lockRead who n) ⟨p, b⟩ = .next ⟨p, readWord 0xFFFFFFFF t⟩) ∧
  (∀ (p : List Instr) (b t : Blk) (who : Who) (n : Nat) (w : W32), unitTakes who (lockPage n) b t →
    (∀ k, t.mbx.locks.get? n = some k → ownerNumber t who = some k → w = 0 →
      exec (.lockFreeWrite who n w) ⟨p, b⟩ = .next ⟨p, t.mbxU fun m => { m with locks := m.locks.del n }⟩) ∧
    (∀ k, t.mbx.locks.get? n = some k → ownerNumber t who = some k → w ≠ 0 →
      exec (.lockFreeWrite who n w) ⟨p, b⟩ = .next ⟨p, pageErr (lockPage n) 0x05 t⟩) ∧
    (t.mbx.locks.get? n = none ∨ (∃ k, t.mbx.locks.get? n = some k ∧ ownerNumber t who ≠ some k) →
      exec (.lockFreeWrite who n w) ⟨p, b⟩ = .next ⟨p, pageErr (lockPage n) 0x02 t⟩)) ∧
  (∀ (p : List Instr) (b t : Blk) (who : Who) (secure : Bool) (w : W32),
    unitTakes who (if secure then pgMBX + 3 else pgMBX) b t →
    exec (.lockBreak who secure w) ⟨p, b⟩ = .next ⟨p,
      if (secure = true ↔ 32 ≤ bits w.toNat 0 6) then t.mbxU fun m => { m with locks := m.locks.del (bits w.toNat 0 6) }
      else pageErr (if secure then pgMBX + 3 else pgMBX) 0x05 t⟩) ∧
  (∀ (b : Blk), ownerNumber b (.mp false) = some 0x2000 ∧ ownerNumber b (.mp true) = some 0x2000 ∧
    (∀ q v, secureWorld b (.pf q v) = false → ownerNumber b (.pf q v) = some 0x1000) ∧
    (∀ q v, secureWorld b (.pf q v) = true → ownerNumber b (.pf q v) = some 0x3000))

/-- The doorbell fires under its modes only, a fire latches its first context, data and time, and counts up to 255 (R392, R393, R394, R395). -/
def Obligations.SensingModesGateFires : Prop :=
  (∀ (p : List Instr) (b t : Blk) (who : Who) (w : W32), unitTakes who pgEVC b t →
    (8175 < bits w.toNat 0 13 → exec (.evcDoorbell who w) ⟨p, b⟩ = .next ⟨p, pageErr pgEVC 0x05 t⟩) ∧
    (bits w.toNat 0 13 ≤ 8175 → t.evc.mode = 0 → exec (.evcDoorbell who w) ⟨p, b⟩ = .next ⟨p, pageErr pgEVC 0x06 t⟩) ∧
    (bits w.toNat 0 2 = 1 ∨ bits w.toNat 0 2 = 3 → exec (.evcModeWrite who w) ⟨p, b⟩ = .next ⟨p, pageErr pgEVC 0x05 t⟩)) ∧
  (∀ (p : List Instr) (b : Blk) (n : Nat) (x : Bool), b.evc.mode ≠ 0 → n < 64 → b.pwr.supplies = true → b.pwr.pstate < 3 →
    frozenUnit b pgEVC = false →
    exec (.wiredLineChange n x) ⟨p, b⟩ = .next ⟨p, b.evcU fun v => { v with
      lines := if x then v.lines ||| (1#64 <<< n) else v.lines &&& ~~~(1#64 <<< n) }⟩) ∧
  (∀ (n c : Nat) (d : BitVec 32) (b : Blk), b.pwr.pstate < 2 → (b.source n).assigned = false → fire n c d b = pageErr pgEVC 0x07 b) ∧
  (∀ (n c : Nat) (d : BitVec 32) (b : Blk), 64 ≤ n → 2 ≤ b.pwr.pstate → fire n c d b = b) ∧
  (∀ (n c : Nat) (d : BitVec 32) (b : Blk), b.pwr.pstate < 2 → (b.source n).assigned = true →
    ((fire n c d b).source n).pending = true ∧ ((fire n c d b).source n).count = min 255 ((b.source n).count + 1) ∧
    ((b.source n).pending = false → ((fire n c d b).source n).ctx = c ∧ ((fire n c d b).source n).data = d ∧
      ((fire n c d b).source n).time = b.ft ∧ ((fire n c d b).source n).mixed = false) ∧
    ((b.source n).pending = true → (b.source n).ctx ≠ c → ((fire n c d b).source n).ctx = 0xFFFF ∧
      ((fire n c d b).source n).mixed = true))

/-- A store to local memory reads back, leaves every other byte, and keeps the memory's canonical form (R28, R30). -/
def Obligations.StoredBytesReadBack : Prop :=
  ∀ (b : Blk) (k : Nat) (bs : Bytes), Memory.wf b.mem = true →
    Memory.wf (storeLocal k bs b).mem = true ∧
    (∀ i, (h : i < bs.length) → memGet (storeLocal k bs b).mem (k + i) = bs[i]) ∧
    (∀ a, a < k ∨ k + bs.length ≤ a → memGet (storeLocal k bs b).mem a = memGet b.mem a) ∧
    (b.ctx.spilled = [] → bs ≠ [] → loadLocal (storeLocal k bs b) k bs.length = bs)

/-- MARK in ring mode writes one 32-byte record at TB_TAIL, advances it modulo the buffer, and changes no other byte (R470, R471, R472). -/
def Obligations.MarkWritesOneRecord : Prop :=
  ∀ (p : List Instr) (b t : Blk) (who : Who) (w : W32), unitTakes who pgTRC b t → t.pwr.pstate < 2 → t.trc.mode = 2 →
    t.trc.frozen = false → t.trc.postPhase = false → t.trc.kindMask.getLsbD 31 = true →
    isLocal t (t.trc.base + 32 * t.trc.tail) = true → paSpace (t.trc.base + 32 * t.trc.tail) < 2 →
    ∃ u, exec (.mark who w) ⟨p, b⟩ = .next ⟨p, u⟩ ∧
      u.mem = memWrite b.mem (paKey (t.trc.base + 32 * t.trc.tail)) (traceBytes t 0x1F noOne noOne w.toNat 0 false) ∧
      (∀ a, a < paKey (t.trc.base + 32 * t.trc.tail) ∨ paKey (t.trc.base + 32 * t.trc.tail) + 32 ≤ a → memGet u.mem a = memGet b.mem a) ∧
      u.trc.tail = (t.trc.tail + 1) % 2 ^ t.trc.log2 ∧ (memOk ⟨p, b⟩ → memOk ⟨p, u⟩) ∧
      u.items = t.items ∧ u.queues = t.queues ∧ u.contexts = t.contexts ∧ u.slices = t.slices ∧ u.fen = t.fen ∧ u.lmf = t.lmf ∧
      u.sec = t.sec ∧ u.evc = t.evc ∧ u.pages = t.pages

/-- At reset the registers read the non-zero values that the register tables give, budgets are unlimited, sources 0 to 255 assigned (01_block_boundary.md, 07_dispatch_preemption.md, 10_lemdy_fabric.md, 11_bandwidth_regulation.md, 12_events_mailboxes.md, 13_faults_recovery.md, 14_security_power_startup.md, 15_trace_counters.md, 16_register_pages.md). -/
def Obligations.ResetValuesAreTheTables : Prop :=
  regWord Blk.reset 0x40 = 0x5A311012 ∧ regWord Blk.reset (pgPWR * 4096 + 0x40) = 0 ∧ regWord Blk.reset (pgPWR * 4096 + 0x4C) = 100 ∧
  regWord Blk.reset (pgSEC * 4096 + 0x40) = 3 ∧ regWord Blk.reset (pgHLU * 4096 + 0x40) = 10 ∧
  regWord Blk.reset (pgEVC * 4096 + 0x40) = 1 ∧ regWord Blk.reset (pgSCH * 4096 + 0x40) = 4 ∧
  regWord Blk.reset (pgSCH * 4096 + 0x4C) = 0xF ∧ regWord Blk.reset (pgMAR * 4096 + 0x40) = 0xFFFF ∧
  regWord Blk.reset (pgXLT * 4096 + 0x60) = 1 ∧ regWord Blk.reset (pgTRE * 4096 + 0x40) = 0xFFFFFFFF ∧
  regWord Blk.reset (pgLMF * 4096 + 0x40) = 50 ∧ regWord Blk.reset (pgLMF * 4096 + 0x44) = 255 + 15 * 256 ∧
  regWord Blk.reset (pgRCV * 4096 + 0x40) = 10 ∧ regWord Blk.reset (pgRCV * 4096 + 0x44) = 100 ∧
  regWord Blk.reset (pgRCV * 4096 + 0x4C) = 6 ∧ regWord Blk.reset (pgTRC * 4096 + 0x4C) = 10 ∧
  regWord Blk.reset (pgTRC * 4096 + 0x5C) = 0xFFFFFFFF ∧
  (∀ r c, r < 120 → c < 8 → ((Blk.reset.reg r).budget c = 0xFFFFFF ∧ (Blk.reset.reg r).winK = 0)) ∧
  (∀ n, (Blk.reset.source n).assigned = decide (n < 256))

/-- NaN and opposed infinities give the canonical NaN, sums commute and keep every value, and +0 ranks above −0 (R310). -/
def Obligations.ReductionsKeepFp32Rules : Prop :=
  (∀ (op : Nat) (a b : F32), a.num = .nan ∨ b.num = .nan → reduceOp op a b = 0x7FC00000) ∧
  (∀ a b : F32, reduceOp 0 a b = reduceOp 0 b a) ∧
  reduceOp 0 0x7F800000 0xFF800000 = 0x7FC00000 ∧
  (∀ a : F32, a.num ≠ .nan → a ≠ 0x80000000 → reduceOp 0 a 0 = a) ∧
  (∀ a b : F32, a.num ≠ .nan → b.num ≠ .nan →
    (reduceOp 1 a b = a ∨ reduceOp 1 a b = b) ∧ (reduceOp 2 a b = a ∨ reduceOp 2 a b = b) ∧
    (reduceOp 1 a b).num.below a.num = false ∧ (reduceOp 1 a b).num.below b.num = false ∧
    a.num.below (reduceOp 2 a b).num = false ∧ b.num.below (reduceOp 2 a b).num = false) ∧
  reduceOp 1 0 0x80000000 = 0 ∧ reduceOp 1 0x80000000 0 = 0 ∧
  reduceOp 2 0 0x80000000 = 0x80000000 ∧ reduceOp 2 0x80000000 0 = 0x80000000

/-- Each atomic of Table 05.5 returns the old value, leaves its new one at the location, and touches no other byte (R195). -/
def Obligations.AtomicsActAtTheirHome : Prop :=
  ∀ (op : AtomOp) (k n v c : Nat) (b : Blk), n = 4 ∨ n = 8 → (op = .addF32 → n = 4) → Memory.wf b.mem = true → b.ctx.spilled = [] →
    (atomHere op k n v c b).1 = leNat (loadLocal b k n) ∧
    (∀ a, a < k ∨ k + n ≤ a → memGet (atomHere op k n v c b).2.mem a = memGet b.mem a) ∧
    (match op with
      | .add => leNat (loadLocal (atomHere op k n v c b).2 k n) = (leNat (loadLocal b k n) + v) % 2 ^ (8 * n)
      | .exchange => leNat (loadLocal (atomHere op k n v c b).2 k n) = v % 2 ^ (8 * n)
      | .compareExchange => if leNat (loadLocal b k n) = c % 2 ^ (8 * n) then
          leNat (loadLocal (atomHere op k n v c b).2 k n) = v % 2 ^ (8 * n) else (atomHere op k n v c b).2 = b
      | .minU => leNat (loadLocal (atomHere op k n v c b).2 k n) = min (leNat (loadLocal b k n)) (v % 2 ^ (8 * n))
      | .maxU => leNat (loadLocal (atomHere op k n v c b).2 k n) = max (leNat (loadLocal b k n)) (v % 2 ^ (8 * n))
      | .minS => (BitVec.ofNat (8 * n) (leNat (loadLocal (atomHere op k n v c b).2 k n))).toInt =
          min (BitVec.ofNat (8 * n) (leNat (loadLocal b k n))).toInt (BitVec.ofNat (8 * n) v).toInt
      | .maxS => (BitVec.ofNat (8 * n) (leNat (loadLocal (atomHere op k n v c b).2 k n))).toInt =
          max (BitVec.ofNat (8 * n) (leNat (loadLocal b k n))).toInt (BitVec.ofNat (8 * n) v).toInt
      | .and => BitVec.ofNat (8 * n) (leNat (loadLocal (atomHere op k n v c b).2 k n)) =
          BitVec.ofNat (8 * n) (leNat (loadLocal b k n)) &&& BitVec.ofNat (8 * n) v
      | .or => BitVec.ofNat (8 * n) (leNat (loadLocal (atomHere op k n v c b).2 k n)) =
          BitVec.ofNat (8 * n) (leNat (loadLocal b k n)) ||| BitVec.ofNat (8 * n) v
      | .xor => BitVec.ofNat (8 * n) (leNat (loadLocal (atomHere op k n v c b).2 k n)) =
          BitVec.ofNat (8 * n) (leNat (loadLocal b k n)) ^^^ BitVec.ofNat (8 * n) v
      | .addF32 => leNat (loadLocal (atomHere op k n v c b).2 k n) =
          (reduceOp 0 (BitVec.ofNat 32 (leNat (loadLocal b k n))) (BitVec.ofNat 32 v)).toNat)

/-- Windows open at multiples of W with budgets less capped deficits; a commit waits for the first common boundary (R378, R379, R380, R388). -/
def Obligations.WindowsOpenOnFabricTime : Prop :=
  (∀ (g : Regulator) (ft : Nat), g.commit = none → g.windowFt / windowNs g.winK < ft / windowNs g.winK →
    windowNs g.winK ∣ (g.roll ft).windowFt ∧ (g.roll ft).windowFt ≤ ft ∧ ft < (g.roll ft).windowFt + windowNs g.winK) ∧
  (∀ (g : Regulator) (at' c : Nat), c < 8 →
    (g.budget c = 0xFFFFFF → (g.refill at').rem c = 0xFFFFFF) ∧
    (g.budget c ≠ 0xFFFFFF → 0 ≤ g.rem c → (g.refill at').rem c = g.budget c) ∧
    (g.budget c ≠ 0xFFFFFF → g.rem c < 0 → (g.refill at').rem c = max 0 (g.budget c + g.rem c))) ∧
  (∀ (b : Blk) (g : Regulator) (x : Waiting), g.budget x.req.cls ≠ 0xFFFFFF → g.rem x.req.cls ≤ 0 → x.req.saving = false →
    isEligible b g x = false) ∧
  (∀ (b : Blk) (g : Regulator) (x : Waiting), x.req.saving = true → isEligible b g x = true) ∧
  (∀ ft old new : Nat, ft < commitAt ft old new ∧ windowNs old ∣ commitAt ft old new ∧ windowNs new ∣ commitAt ft old new ∧
    ∀ t, ft < t → windowNs old ∣ t → windowNs new ∣ t → commitAt ft old new ≤ t) ∧
  (∀ (p : List Instr) (b t : Blk) (who : Who) (r : Nat) (w : W32), unitTakes who pgBWR b t → (t.hdr pgBWR).locked = false → r < 120 →
    10 < bits w.toNat 0 4 → exec (.regulatorCtrlCommit who r w) ⟨p, b⟩ = .next ⟨p, pageErr pgBWR 0x05 t⟩)

/-- TRG_NOW writes a TRIGGER record and starts POST_PHASE once; ARM in POST_PHASE and mode changes between modes are refused (R473, R474, R478). -/
def Obligations.TriggersStartOnePostPhase : Prop :=
  (∀ (p : List Instr) (b t : Blk) (who : Who) (w : W32), unitTakes who pgTRC b t → w.getLsbD 1 = true → w.getLsbD 0 = false →
    (t.trc.mode ≠ 0 → t.trc.frozen = false → t.trc.postPhase = false → t.pwr.pstate < 2 → (t.source 78).assigned = true →
      isLocal t (t.trc.base + 32 * t.trc.tail) = true → paSpace (t.trc.base + 32 * t.trc.tail) < 2 →
      ∃ u, exec (.trgNow who w) ⟨p, b⟩ = .next ⟨p, u⟩ ∧
        u.mem = memWrite t.mem (paKey (t.trc.base + 32 * t.trc.tail)) (traceBytes t 0x15 noOne noOne 0 0 false) ∧
        u.trc.triggers = t.trc.triggers.bump ∧ u.trc.trigFt = t.ft ∧ u.trc.postLeft = t.trc.postCount ∧
        u.trc.postPhase = decide (0 < t.trc.postCount) ∧ u.trc.frozen = (t.trc.postCount == 0) ∧
        u.trc.trigMissed = t.trc.trigMissed ∧ (u.source 78).pending = true) ∧
    (t.trc.mode ≠ 0 → t.trc.frozen = true →
      exec (.trgNow who w) ⟨p, b⟩ = .next ⟨p, t.trcU fun x => { x with trigMissed := x.trigMissed.bump }⟩) ∧
    (t.trc.mode = 0 → exec (.trgNow who w) ⟨p, b⟩ = .next ⟨p, t⟩)) ∧
  (∀ (p : List Instr) (b t : Blk) (who : Who) (w : W32), unitTakes who pgTRC b t → w.getLsbD 0 = true → w.getLsbD 1 = false →
    t.trc.postPhase = true → exec (.arm who w) ⟨p, b⟩ = .next ⟨p, pageErr pgTRC 0x06 t⟩) ∧
  (∀ (p : List Instr) (b t : Blk) (who : Who) (w : W32), unitTakes who pgTRC b t → (t.hdr pgTRC).locked = false →
    t.trc.mode ≠ 0 → bits w.toNat 0 2 ≠ 0 → bits w.toNat 0 2 ≠ t.trc.mode →
    exec (.tbModeWrite who w) ⟨p, b⟩ = .next ⟨p, pageErr pgTRC 0x06 t⟩)

/-- ENTER_B2 and ENTER_B3 answer 0x17 with a REFUSE bit while work is held, and else begin a grace of 10 µs (R452, R455). -/
def Obligations.LowPowerIsRefusedWhileWorkIsHeld : Prop :=
  ∀ (p : List Instr) (b t : Blk) (who : Who) (w : W32) (c : Instr), c = .enterB2 who w ∧ bits w.toNat 0 2 = 1 ∨ c = .enterB3 who w ∧ bits w.toNat 0 2 = 2 →
    unitTakes who pgPWR b t → t.pwr.pbusy = false → t.pwr.pstate < 2 → t.pwr.ready = true →
    (t.items ≠ [] ∨ t.mar.runs ≠ [] ∨ t.mar.seqs ≠ [] ∨ t.xlt.dirty ≠ [] ∨ t.rcv.dump ≠ none ∨ t.rcv.busy ≠ none ∨ t.mdl.waiting ≠ [] ∨
      (∃ e ∈ t.queues, e.2.isSq = true ∧ e.2.head ≠ e.2.tail) ∨ (∃ e ∈ t.contexts, e.2.records ≠ []) →
      ∃ u, exec c ⟨p, b⟩ = .next ⟨p, u⟩ ∧ u.pwr.presult = 0x17 ∧ u.pwr.refuse ≠ 0 ∧ u.pwr.graceFt = t.pwr.graceFt ∧
        u.pwr.pstate = t.pwr.pstate) ∧
    (refuseBits t = 0 → exec c ⟨p, b⟩ = .next ⟨p, t.pwrU fun x => { x with
      presult := 0, refuse := 0, graceFt := some (t.ft + 10000), toB3 := bits w.toNat 0 2 == 2 }⟩)

/-- The state at reset is dark: no supplies, no work, no object and no key (R48, R50). -/
def Obligations.ResetIsDark : Prop := dark State.reset

/-- A loss of the core supply, and the end of the grace of ENTER_B3, leave B3 with nothing but the retained store and no key (R450, R455, R456). -/
def Obligations.SupplyLossErasesEverything : Prop :=
  (∀ (p : List Instr) (b : Blk), b.pwr.supplies = true → b.pwr.pstate < 3 → Instr.suppliesValid ∉ p →
    ∃ u, exec .coreSupplyLoss ⟨p, b⟩ = .next ⟨p, u⟩ ∧ u.pwr.pstate = 3 ∧ dark ⟨p, u⟩ ∧ u.mem = b.mem ∧ u.chip = b.chip ∧ u.ft = b.ft ∧
      u.pwr.retained.sealed' = b.pwr.retained.sealed') ∧
  (∀ (p : List Instr) (b : Blk) (n : Nat), b.pwr.supplies = true → b.pwr.toB3 = true → b.pwr.graceFt = some n → n ≤ b.ft →
    Instr.suppliesValid ∉ p → ∃ u, exec .b2GraceEnd ⟨p, b⟩ = .next ⟨p, u⟩ ∧ u.pwr.pstate = 3 ∧ dark ⟨p, u⟩)

/-- A dark block stays dark through every step: of all the commands, only SUPPLIES_VALID can start it or give it a key or work (R48, R450, R453, R455, R456, R460). -/
def Obligations.DarkIsKept : Prop :=
  ∀ s t : State, dark s → step s = .next t → dark t

/-- Doorbell writes, Q_CMD, the end of a drain, and the turns of items complete (R61, R64, R106, R56, R58, R102, R77, R79, R227, R503). -/
def Obligations.QueueCommandsComplete : Prop :=
  (∀ (p : List Instr) (b : Blk) (who : Who) (page off size : Nat) (w : W32) (t : Blk) (s : Nat) (q : Queue),
    pageTakes who pgQFE page s b t →
    (size = 4 ∨ size = 8) →
    off % 8 = 0 →
    off < 4096 →
    ownAccess t who s = true →
    t.queues.get? (qkey s (off / 8)) = some q →
    q.isSq = true →
    t.rcv.blockPhase = 0 →
    ctxDestroying t q.ctx = false →
    w.toNat % 65536 < 2 ^ q.log2 →
    exec (.sqDoorbellWrite who page off size w) ⟨p, b⟩ = .next ⟨p, wakeContext q.ctx (t.updQueue (qkey s (off / 8)) fun x => { x with tail := w.toNat % 65536 })⟩) ∧
  (∀ (p : List Instr) (b : Blk) (who : Who) (page off size : Nat) (w : W32) (t : Blk) (s : Nat) (q : Queue),
    pageTakes who pgQFE page s b t →
    (size = 4 ∨ size = 8) →
    off % 8 = 0 →
    off < 4096 →
    ownAccess t who s = true →
    t.queues.get? (qkey s (off / 8)) = some q →
    q.isSq = false →
    t.rcv.blockPhase = 0 →
    w.toNat % 65536 < 2 ^ q.log2 →
    (w.toNat % 65536 + 2 ^ q.log2 - q.head) % 2 ^ q.log2 ≤ (q.tail + 2 ^ q.log2 - q.head) % 2 ^ q.log2 →
    exec (.cqDoorbellWrite who page off size w) ⟨p, b⟩ = .next ⟨p, wakePaired s (off / 8) (t.updQueue (qkey s (off / 8)) fun x => { x with head := w.toNat % 65536 })⟩) ∧
  (∀ (p : List Instr) (b : Blk) (page size : Nat) (w : W32) (t : Blk) (s ctx : Nat) (q : Queue),
    pageTakes (.core s ctx) (pgView page) page s b t →
    (size = 4 ∨ size = 8) →
    t.queues.get? (qkey s (bits w.toNat 0 9)) = some q →
    q.isSq = true →
    t.rcv.blockPhase = 0 →
    ctxDestroying t q.ctx = false →
    bits w.toNat 16 16 < 2 ^ q.log2 →
    exec (.deviceDoorbell (.core s ctx) page size w) ⟨p, b⟩ = .next ⟨p, wakeContext q.ctx (t.updQueue (qkey s (bits w.toNat 0 9)) fun x => { x with tail := bits w.toNat 16 16 })⟩) ∧
  (∀ (p : List Instr) (b : Blk) (who : Who) (page : Nat) (w : W32) (t u : Blk) (s k n : Nat) (d : Bytes),
    viewTakes who page s b t →
    (t.view s).qOp = none →
    bits w.toNat 0 2 = 0 →
    (t.view s).qDesc % 64 = 0 →
    (u = t.updView s fun v => { v with qOp := some (.create v.qDesc) }) →
    segOf u s false (t.view s).qDesc 32 = .ok ⟨(t.view s).qDesc, 32, .here k (.range s n)⟩ →
    admits u .swedikin s false k 32 = true →
    uncorrectable u k 32 = false →
    loadLocal u k 32 = d →
    queueFault u s d = none →
    exec (.queueCreate who page w) ⟨p, b⟩ = .next ⟨p, qDone s 0 { u with queues := u.queues.set (qkey s (field d 0x0A 2)) { isSq := field d 8 1 == 0, ring := field d 0 8, log2 := field d 9 1, cq := field d 0x0C 2, prio := field d 0x0E 1, pennantAll := bit (field d 0x0F 1) 0, ctx := field d 0x10 4 } }⟩) ∧
  (∀ (p : List Instr) (b : Blk) (who : Who) (page : Nat) (w : W32) (t : Blk) (s : Nat) (q : Queue),
    viewTakes who page s b t →
    (t.view s).qOp = none →
    bits w.toNat 0 2 = 1 →
    t.queues.get? (qkey s (bits w.toNat 16 9)) = some q →
    q.isSq = true →
    exec (.queueDestroy who page w) ⟨p, b⟩ = .next ⟨p, (t.updQueue (qkey s (bits w.toNat 16 9)) fun x => { x with draining := true }).updView s fun v => { v with qOp := some (.drain (bits w.toNat 16 9)) }⟩) ∧
  (∀ (p : List Instr) (b : Blk) (who : Who) (page : Nat) (w : W32) (t : Blk) (s : Nat) (q : Queue),
    viewTakes who page s b t →
    (t.view s).qOp = none →
    bits w.toNat 0 2 = 1 →
    t.queues.get? (qkey s (bits w.toNat 16 9)) = some q →
    q.isSq = false →
    ((t.queues.any fun e => e.2.isSq && e.1 / 512 == s && e.2.cq == bits w.toNat 16 9) = false) →
    exec (.queueDestroy who page w) ⟨p, b⟩ = .next ⟨p, ({ t with queues := t.queues.del (qkey s (bits w.toNat 16 9)) }).updView s fun v => { v with qOp := none, qResult := 0 }⟩) ∧
  (∀ (p : List Instr) (b : Blk) (s slot : Nat) (q : Queue),
    unitOn pgQFE b →
    b.queues.get? (qkey s slot) = some q →
    q.isSq = true →
    q.draining = true →
    (b.view s).qOp = some (.drain slot) →
    sqItems b s slot = [] →
    q.fetch = none →
    exec (.queueDrainEnd s slot) ⟨p, b⟩ = .next ⟨p, ({ b with queues := b.queues.del (qkey s slot) }).updView s fun v => { v with qOp := none, qResult := 0 }⟩) ∧
  (∀ (p : List Instr) (b u : Blk) (s : Nat) (x : Slice) (slot : Nat) (q : Queue),
    unitOn pgQFE b →
    b.pwr.ready = true →
    b.pwr.graceFt = none →
    (drrPick (readySlices b) (9 * (readySlices b).length + 1) { b with slices := b.slices.mapVals fun k x => if (readySlices b).contains k then x else { x with deficit := 0 } } = (u, some s)) →
    u.slices.get? s = some x →
    pickSlot x (readySlots u s) = some (slot, q) →
    exec .arbitrationTurn ⟨p, b⟩ = .next ⟨p, fetchGo 9 s slot (((u.updSlice s fun x => { x with deficit := x.deficit - readySize u (qkey s slot) q, lastSlot := x.lastSlot.set q.prio slot }).updQueue (qkey s q.cq) fun y => { y with reserved := y.reserved + readySize u (qkey s slot) q }).updQueue (qkey s slot) fun y => { y with fetch := some ⟨y.head, readySize u (qkey s slot) q, .issued⟩ })⟩) ∧
  (∀ (p : List Instr) (b : Blk) (s slot : Nat) (bytes : Bytes) (q : Queue) (ft : Fetch),
    unitOn pgQFE b →
    b.queues.get? (qkey s slot) = some q →
    q.fetch = some ft →
    ft.state = .issued →
    exec (.entryReceived s slot (.data bytes)) ⟨p, b⟩ = .next ⟨p, settle (takeEntries ft.count s slot 0 (.data bytes) (dropFetchReads s slot b))⟩) ∧
  (∀ (p : List Instr) (b : Blk) (i : Nat) (it : Item),
    unitOn pgQFE b →
    b.items.get? i = some it →
    it.started = false →
    it.result = none →
    mayStart b it = true →
    pastDeadline b.ft it.deadline = false →
    bit it.flags 2 = false →
    exec (.itemStart i) ⟨p, b⟩ = .next ⟨p, settle (b.updItem i fun x => { x with started := true, startFt := b.ft, st := .running })⟩) ∧
  (∀ (p : List Instr) (b : Blk) (i : Nat) (it : Item) (r : Result),
    unitOn pgQFE b →
    b.items.get? i = some it →
    it.complWait = true →
    it.result = some r →
    (it.stall = none ∨ it.stall = some .dirtyRing) →
    itemVisible b i it = true →
    exec (.completionWriteRetry i) ⟨p, b⟩ = .next ⟨p, settle (completeItem i (b.updItem i fun x => { x with stall := none }))⟩) ∧
  (∀ (p : List Instr) (b : Blk) (i : Nat) (it : Item),
    unitOn pgQFE b →
    b.items.get? i = some it →
    it.result = none →
    it.started = false →
    pastDeadline b.ft it.deadline = true →
    exec (.itemDeadlineExpiry i) ⟨p, b⟩ = .next ⟨p, settle (endItem i ⟨0x1A, 0, 0⟩ b)⟩)

/-- COPY, REDUCE, KV_MOVE, COLLECTIVE, FLUSH_RANGE, LAUNCH and STEP_RUN items begin their work (R307, R311, R308, R321, R199, R85, R92). -/
def Obligations.EngineItemsComplete : Prop :=
  (∀ (p : List Instr) (b : Blk) (i : Nat) (it : Item),
    unitOn pgTRE b →
    itemRuns i 0x02 pgTRE b it →
    exec (.copy i) ⟨p, b⟩ = .next ⟨p, settle (markIssued i (addWork (.item i) (.copy (field it.entry 0x10 8) (field it.entry 0x18 8) (field it.entry 0x20 4) (field it.entry 0x24 4) (field it.entry 0x28 8) (field it.entry 0x30 8)) it.slice it.ctx it.cls it.deadline (field it.entry 0x20 4 * field it.entry 0x24 4) b))⟩) ∧
  (∀ (p : List Instr) (b : Blk) (i : Nat) (it : Item),
    unitOn pgTRE b →
    itemRuns i 0x03 pgTRE b it →
    exec (.reduce i) ⟨p, b⟩ = .next ⟨p, settle (markIssued i (addWork (.item i) (.reduce (field it.entry 0x10 8) (field it.entry 0x28 8) (field it.entry 0x18 8) (field it.entry 0x20 4) (field it.entry 0x24 1) (field it.entry 0x25 1) (field it.entry 0x26 1) (if field it.entry 0x28 8 = 0 then field it.entry 0x26 1 else field it.entry 0x25 1)) it.slice it.ctx it.cls it.deadline (field it.entry 0x20 4 * memSize (field it.entry 0x26 1)) b))⟩) ∧
  (∀ (p : List Instr) (b : Blk) (i : Nat) (it : Item),
    unitOn pgTRE b →
    itemRuns i 0x05 pgTRE b it →
    exec (.kvMove i) ⟨p, b⟩ = .next ⟨p, settle (markIssued i (addWork (.item i) (.kvmove (field it.entry 0x10 8) (field it.entry 0x18 8) (field it.entry 0x20 4) (field it.entry 0x24 4) (field it.entry 0x28 8) (field it.entry 0x30 8) false) it.slice it.ctx it.cls it.deadline (field it.entry 0x20 4 * field it.entry 0x24 4) b))⟩) ∧
  (∀ (p : List Instr) (b : Blk) (i : Nat) (it : Item) (g : Group),
    unitOn pgTRE b →
    itemRuns i 0x04 pgTRE b it →
    b.tre.groups.get? (field it.entry 0x28 2) = some g →
    g.slice = it.slice →
    collFault b (itemColl i it g) = none →
    exec (.collective i) ⟨p, b⟩ = .next ⟨p, settle (startColl (itemColl i it g) (markIssued i b))⟩) ∧
  (∀ (p : List Instr) (b : Blk) (i : Nat) (it : Item),
    unitOn pgSCH b →
    itemRuns i 0x08 pgSCH b it →
    flushState b i = none →
    exec (.flushRange i) ⟨p, b⟩ = .next ⟨p, settle (flushWalk flushFuel i 0 b)⟩) ∧
  (∀ (p : List Instr) (b : Blk) (i : Nat) (it : Item) (d : Bytes) (u : Blk),
    unitOn pgSCH b →
    itemRuns i 0x01 pgSCH b it →
    partCores b (slicePart b it.slice) ≠ [] →
    ¬(2 ^ 56 ≤ field it.entry 0x10 8 ∧ field it.entry 0x10 8 < 2 ^ 57) →
    readDesc i it (field it.entry 0x10 8) b = .data d u →
    descFault u d (field it.entry 0x2C 4) = none →
    exec (.launch i) ⟨p, b⟩ = .next ⟨p, settle (markIssued i (addLaunch (.item i) it.slice it.ctx it.cls it.scope it.deadline (field it.entry 0x20 4) (field it.entry 0x24 2) (field it.entry 0x26 2) (field it.entry 0x30 2) (field it.entry 0x32 2) d (field it.entry 0x2C 4) (descPa u it.slice (field it.entry 0x10 8)) (field it.entry 0x18 8) u))⟩) ∧
  (∀ (p : List Instr) (b : Blk) (i : Nat) (it : Item),
    unitOn pgMAR b →
    itemRuns i 0x0B pgMAR b it →
    inOneRange b it.slice (field it.entry 0x38 8) (64 + 32 * field it.entry 0x1C 4) 1 = true →
    exec (.stepRun i) ⟨p, b⟩ = .next ⟨p, settle ((markIssued i (b.marU fun m => { m with order := m.order + 1, runs := m.runs.set m.runs.fresh { item := i, slice := it.slice, ctx := it.ctx, runId := field it.entry 0x30 4, cls := it.cls, scope := it.scope, maxSeq := field it.entry 0x1C 4, period := field it.entry 0x20 8, steps := field it.entry 0x28 4, idleNs := field it.entry 0x2C 4 * 1000, timeout := it.timeoutNs 20, batch := field it.entry 0x38 8, progDva := field it.entry 0x10 8, opsCount := field it.entry 0x18 2, order := b.mar.order } })).updItem i fun x => { x with st := .waiting })⟩)

/-- FENCE_SIGNAL, FENCE_WAIT, ALLOC and FREE items take their effect (R86, R155, R96, R97). -/
def Obligations.ObjectItemsComplete : Prop :=
  (∀ (p : List Instr) (b : Blk) (i : Nat) (it : Item) (u : Blk) (n : Nat),
    unitOn pgFEN b →
    itemRuns i 0x06 pgFEN b it →
    pastDeadline b.ft it.deadline = false →
    signalVisible b it = true →
    field it.entry 0x12 2 = b.chip →
    signalFence it.slice it.ctx (field it.entry 0x10 2) (BitVec.ofNat 64 (field it.entry 0x18 8)) (bit (field it.entry 0x14 1) 0) b.chip false it.tag b = (u, n) →
    exec (.fenceSignal i) ⟨p, b⟩ = .next ⟨p, settle (endItem i (signalResult u (field it.entry 0x10 2) n) u)⟩) ∧
  (∀ (p : List Instr) (b : Blk) (i : Nat) (it : Item),
    unitOn pgFEN b →
    itemRuns i 0x06 pgFEN b it →
    pastDeadline b.ft it.deadline = false →
    signalVisible b it = true →
    field it.entry 0x12 2 ≠ b.chip →
    exec (.fenceSignal i) ⟨p, b⟩ = .next ⟨p, settle (fsigSend i (b.updItem i fun x => { x with issued := true, st := .waiting, sig := some ⟨none, it.startFt + it.timeoutNs b.lmf.txnTimeoutUs / 2⟩ }))⟩) ∧
  (∀ (p : List Instr) (b : Blk) (i : Nat) (it : Item) (f : Fence),
    unitOn pgFEN b →
    itemRuns i 0x07 pgFEN b it →
    b.fen.fences.get? (field it.entry 0x10 2) = some f →
    f.owner = it.slice →
    f.abandoning = false →
    BitVec.ofNat 64 (field it.entry 0x18 8) ≤ f.value →
    exec (.fenceWait i) ⟨p, b⟩ = .next ⟨p, settle (endItem i ⟨0x00, 0, 0⟩ b)⟩) ∧
  (∀ (p : List Instr) (b : Blk) (i : Nat) (it : Item) (f : Fence),
    unitOn pgFEN b →
    itemRuns i 0x07 pgFEN b it →
    b.fen.fences.get? (field it.entry 0x10 2) = some f →
    f.owner = it.slice →
    f.abandoning = false →
    f.value < BitVec.ofNat 64 (field it.entry 0x18 8) →
    b.fen.table.length < 16384 →
    exec (.fenceWait i) ⟨p, b⟩ = .next ⟨p, settle (((traceRec 0x01 it.slice it.ctx (BitVec.ofNat 64 (field it.entry 0x18 8)).toNat (field it.entry 0x10 2 + it.sq * 2 ^ 16 + it.tag * 2 ^ 32) false b).fenU fun x => { x with table := x.table ++ [{ item := i, value := BitVec.ofNat 64 (field it.entry 0x18 8), deadline := it.deadline, fence := field it.entry 0x10 2, armedFt := b.ft }] }).updItem i fun x => { x with st := .waiting, issued := true })⟩) ∧
  (∀ (p : List Instr) (b : Blk) (i : Nat) (it : Item) (f : Nat) (u t : Blk),
    unitOn pgCTX b →
    itemRuns i 0x0E pgCTX b it →
    it.wants = none →
    field it.entry 0x10 1 = 2 →
    ((b.slices.get? it.slice).all (fun s => decide (sliceFences b it.slice < s.maxFences)) = true) →
    takeFenceNumber b = some (f, u) →
    itemWrite i it (field it.entry 0x20 8) (leBytes 8 f) u = .done t →
    ((t.lmf.outstanding.any fun q => q.why == .itemWrite i) = false) →
    exec (.alloc i) ⟨p, b⟩ = .next ⟨p, settle (endItem i ⟨0, 5, fenceDetail t.chip f⟩ (t.fenU fun x => { x with fences := x.fences.set f { value := BitVec.ofNat 64 (field it.entry 0x28 8), owner := it.slice, creator := it.ctx } }))⟩) ∧
  (∀ (p : List Instr) (b : Blk) (i : Nat) (it : Item) (g a : Nat) (t : Blk),
    unitOn pgCTX b →
    itemRuns i 0x0E pgCTX b it →
    it.wants = none →
    field it.entry 0x10 1 < 2 →
    field it.entry 0x28 8 = 0 →
    b.xlt.areaEn = true →
    (rangesOf b it.slice).length < 1024 →
    firstFit (freePages b it.slice (field it.entry 0x10 1)) (field it.entry 0x18 8 / 65536) = some g →
    placeRange b it.slice (field it.entry 0x18 8) = some a →
    itemWrite i it (field it.entry 0x20 8) (leBytes 8 a) (setRange it.slice (rangesOf b it.slice).fresh (some { start := a, len := field it.entry 0x18 8, pa := mkPa b (field it.entry 0x10 1) (g % 2 ^ 30 * 65536), creator := it.ctx, valid := false }) b) = .done t →
    ((t.lmf.outstanding.any fun q => q.why == .itemWrite i) = false) →
    exec (.alloc i) ⟨p, b⟩ = .next ⟨p, settle (endItem i ⟨0, 1, (rangesOf b it.slice).fresh⟩ (match (rangesOf t it.slice).get? (rangesOf b it.slice).fresh with | some r => setRange it.slice (rangesOf b it.slice).fresh (some { r with valid := true }) t | none => t))⟩) ∧
  (∀ (p : List Instr) (b : Blk) (i : Nat) (it : Item),
    unitOn pgCTX b →
    itemRuns i 0x0F pgCTX b it →
    field it.entry 0x10 1 = 2 →
    ownsFence b it.slice (field it.entry 0x18 8) = true →
    exec (.free i) ⟨p, b⟩ = .next ⟨p, settle (abandonFence (field it.entry 0x18 8) (finishAbandon (field it.entry 0x18 8) ((markIssued i b).fenU fun x => { x with freeing := x.freeing.set i (field it.entry 0x18 8) })))⟩) ∧
  (∀ (p : List Instr) (b : Blk) (i : Nat) (it : Item) (n : Nat) (r : Range),
    unitOn pgCTX b →
    itemRuns i 0x0F pgCTX b it →
    field it.entry 0x10 1 < 2 →
    ((rangesOf b it.slice).find? fun x => x.2.start == field it.entry 0x18 8 && x.2.valid && !x.2.peer && paSpace x.2.pa == field it.entry 0x10 1) = some (n, r) →
    rangeNamed b it.slice r = false →
    exec (.free i) ⟨p, b⟩ = .next ⟨p, settle (startInval it.slice [.range it.slice n] false (.free i) (markIssued i b))⟩)

/-- MODEL_LOAD, MODEL_PIN, SEQ_JOIN and SEQ_LEAVE items take their effect (R90, R91, R93, R95). -/
def Obligations.ModelItemsComplete : Prop :=
  (∀ (p : List Instr) (b : Blk) (i : Nat) (it : Item) (n : Nat) (m : Model),
    unitOn pgMDL b →
    itemRuns i 0x09 pgMDL b it →
    modelOf b it.slice (field it.entry 0x10 4) = some (n, m) →
    m.src = field it.entry 0x18 8 →
    m.len = field it.entry 0x20 8 →
    m.invalidating = false →
    m.state = .resident →
    exec (.modelLoad i) ⟨p, b⟩ = .next ⟨p, settle (endItem i ⟨0, 1, n⟩ (touchModel n b))⟩) ∧
  (∀ (p : List Instr) (b : Blk) (i : Nat) (it : Item),
    unitOn pgMDL b →
    itemRuns i 0x09 pgMDL b it →
    modelOf b it.slice (field it.entry 0x10 4) = none →
    b.mdl.models.length < 1024 →
    exec (.modelLoad i) ⟨p, b⟩ = .next ⟨p, settle (awaitModel i b.mdl.models.fresh it false { slice := it.slice, ctx := it.ctx, modelId := field it.entry 0x10 4, src := field it.entry 0x18 8, len := field it.entry 0x20 8, state := .registered } (b.mdlU fun x => { x with models := x.models.set b.mdl.models.fresh { slice := it.slice, ctx := it.ctx, modelId := field it.entry 0x10 4, src := field it.entry 0x18 8, len := field it.entry 0x20 8, state := .registered } }))⟩) ∧
  (∀ (p : List Instr) (b : Blk) (i : Nat) (it : Item) (n : Nat) (m : Model),
    unitOn pgMDL b →
    itemRuns i 0x0A pgMDL b it →
    modelOf b it.slice (field it.entry 0x10 4) = some (n, m) →
    field it.entry 0x14 1 = 0 →
    exec (.modelPin i) ⟨p, b⟩ = .next ⟨p, settle (endItem i ⟨0, 0, 0⟩ (serveAll (b.updModel n fun x => { x with pinned := false })))⟩) ∧
  (∀ (p : List Instr) (b : Blk) (i : Nat) (it : Item) (n : Nat) (m : Model),
    unitOn pgMDL b →
    itemRuns i 0x0A pgMDL b it →
    modelOf b it.slice (field it.entry 0x10 4) = some (n, m) →
    field it.entry 0x14 1 ≠ 0 →
    m.pinned = false →
    slicePinned b it.slice + m.need ≤ sliceShare b it.slice →
    m.invalidating = false →
    m.state = .resident →
    exec (.modelPin i) ⟨p, b⟩ = .next ⟨p, settle (endItem i ⟨0, 0, 0⟩ (touchModel n (b.updModel n fun x => { x with pinned := true })))⟩) ∧
  (∀ (p : List Instr) (b : Blk) (i : Nat) (it : Item) (n : Nat) (r : Run) (d : Bytes) (u : Blk),
    unitOn pgMAR b →
    itemRuns i 0x0C pgMAR b it →
    findRun b it.slice (field it.entry 0x10 4) = .run n r →
    seqInRun b n r (field it.entry 0x14 4) = false →
    itemRead i it (field it.entry 0x18 8) 64 b = .data d u →
    imageOk d = true →
    exec (.seqJoin i) ⟨p, b⟩ = .next ⟨p, settle (applyPlan n (((markIssued i (u.marU fun m => { m with order := m.order + 1 })).updItem i fun x => { x with st := .waiting }).updRun n fun x => { x with waiting := x.waiting ++ [{ item := i, seqId := field it.entry 0x14 4, image := d, deadline := it.deadline, order := u.mar.order }], emptyFt := none }))⟩) ∧
  (∀ (p : List Instr) (b : Blk) (i : Nat) (it : Item) (n : Nat) (r : Run),
    unitOn pgMAR b →
    itemRuns i 0x0D pgMAR b it →
    findRun b it.slice (field it.entry 0x10 4) = .run n r →
    seqInRun b n r (field it.entry 0x14 4) = true →
    ((r.waiting.any fun x => x.seqId == field it.entry 0x14 4) = true) →
    exec (.seqLeave i) ⟨p, b⟩ = .next ⟨p, settle (endItem i ⟨0, 0, 0⟩ (dropWaiting n (field it.entry 0x14 4) (if isLead b r then b else sendLeave r (field it.entry 0x14 4) b)))⟩) ∧
  (∀ (p : List Instr) (b : Blk) (i : Nat) (it : Item) (n : Nat) (r : Run),
    unitOn pgMAR b →
    itemRuns i 0x0D pgMAR b it →
    findRun b it.slice (field it.entry 0x10 4) = .run n r →
    seqInRun b n r (field it.entry 0x14 4) = true →
    ((r.waiting.any fun x => x.seqId == field it.entry 0x14 4) = false) →
    exec (.seqLeave i) ⟨p, b⟩ = .next ⟨p, settle (((markIssued i (if isLead b r then b else sendLeave r (field it.entry 0x14 4) b)).updItem i fun x => { x with st := .waiting }).updRun n fun x => { x with leaves := x.leaves ++ [(i, field it.entry 0x14 4)] })⟩)

/-- Work groups are placed and end, records go to their cores, a failed port is taken out, PCMD and SCH_LWA act (R249, R85, R266, R269, R244). -/
def Obligations.PlacementComplete : Prop :=
  (∀ (p : List Instr) (b : Blk) (part : Nat) (u : Blk) (n k : Nat) (l : Launch),
    unitOn pgSCH b →
    schReady b = true →
    startPreempt part b = u →
    nextPlacing u part = some (.launch n, k) →
    u.sch.launches.get? n = some l →
    exec (.workGroupPlace part) ⟨p, b⟩ = .next ⟨p, placeGroup n k l u⟩) ∧
  (∀ (p : List Instr) (b : Blk) (k n : Nat),
    unitOn pgSCH b →
    (((b.core k).groups.any fun g => g.launch == n) = true) →
    exec (.workGroupEnd k n) ⟨p, b⟩ = .next ⟨p, settle (checkLaunch n ((b.updCore k fun x => idleCore { x with groups := dropGroup n x.groups }).schU fun s => { s with launches := s.launches.upd n fun l => { l with ended := l.ended + 1 } }))⟩) ∧
  (∀ (p : List Instr) (b : Blk) (c : Nat) (e : Context) (n k : Nat),
    unitOn pgSCH b →
    schReady b = true →
    b.contexts.get? c = some e →
    nextPlacing b (slicePart b e.slice) = some (.record c n, k) →
    exec (.restoreDispatch c) ⟨p, b⟩ = .next ⟨p, syncSaveArea c (((issueWord k (restoreWord e c n) b).updContext c fun x => { x with records := x.records.upd n fun r => { r with recState := 3 } }).updCore k fun x => { x with ctx := some c, restoring := some (c, n) })⟩) ∧
  (∀ (p : List Instr) (b : Blk) (k c n : Nat) (u : Blk),
    unitOn pgSCH b →
    (b.core k).restoring = some (c, n) →
    (u = freeRecord c n (b.updCore k fun x => idleCore { x with restoring := none, groups := ((((b.contexts.get? c).bind fun e => e.records.get? n).map fun r => r.groups).getD []).filter fun g => (b.sch.launches.get? g.launch).any fun l => l.stop.isNone, placedFt := b.ft })) →
    exec (.recordRestored k) ⟨p, b⟩ = .next ⟨p, settle (settleLaunches (if u.sch.pbusy = some c then stopCore k true none u else u))⟩) ∧
  (∀ (p : List Instr) (b : Blk) (n : Nat),
    unitOn pgSCH b →
    n < 4 →
    b.sch.portsUp.getLsbD n = true →
    exec (.dispatchPortFailure n) ⟨p, b⟩ = .next ⟨p, absorb (portLeaves n b)⟩) ∧
  (∀ (p : List Instr) (b : Blk) (who : Who) (w : W32) (t : Blk) (e : Context) (u : Blk),
    unitTakes who pgSCH b t →
    t.sch.pbusy = none →
    t.contexts.get? (bits w.toNat 16 16) = some e →
    e.state ≠ .destroying →
    bit w.toNat 0 = false →
    (u = syncSaveArea (bits w.toNat 16 16) (t.updContext (bits w.toNat 16 16) fun x => { x with held := bit w.toNat 1 })) →
    exec (.preempt who w) ⟨p, b⟩ = .next ⟨p, settlePreempt (((u.sch.cores.filter fun k => k.2.ctx == some (bits w.toNat 16 16)).map fun k => k.1).foldl (fun b k => stopCore k true none b) (u.schU fun s => { s with pbusy := some (bits w.toNat 16 16) }))⟩) ∧
  (∀ (p : List Instr) (b : Blk) (who : Who) (w : W32) (t : Blk) (e : Context),
    unitTakes who pgSCH b t →
    t.sch.pbusy = none →
    t.contexts.get? (bits w.toNat 16 16) = some e →
    e.state ≠ .destroying →
    bit w.toNat 0 = true →
    exec (.resume who w) ⟨p, b⟩ = .next ⟨p, syncSaveArea (bits w.toNat 16 16) ((t.updContext (bits w.toNat 16 16) fun x => { x with held := false }).schU fun s => { s with presult := 0 })⟩) ∧
  (∀ (p : List Instr) (b : Blk) (who : Who) (w : W32) (t : Blk),
    unitTakes who pgSCH b t →
    (t.hdr pgSCH).locked = false →
    1 ≤ bits w.toNat 0 5 →
    bits w.toNat 0 5 ≤ 16 →
    noScratchpad t = true →
    t.mdl.storeEn = false →
    t.contexts = [] →
    exec (.schLwaWrite who w) ⟨p, b⟩ = .next ⟨p, t.schU fun s => { s with lwa := bits w.toNat 0 5 }⟩)

/-- A core's stop is acknowledged, forced at the end of its grace, ends with a record or with nothing left, or fails (R256, R504, R252). -/
def Obligations.StopsComplete : Prop :=
  (∀ (p : List Instr) (b : Blk) (k : Nat) (st : CoreStop),
    unitOn pgSCH b →
    (b.core k).stop = some st →
    exec (.cheapPointAck k) ⟨p, b⟩ = .next ⟨p, b.updCore k fun x => { x with stop := x.stop.map fun st => if st.forced then st else { st with ack := true } }⟩) ∧
  (∀ (p : List Instr) (b : Blk) (k : Nat) (st : CoreStop),
    unitOn pgSCH b →
    (b.core k).stop = some st →
    st.ack = false →
    st.forced = false →
    st.graceFt ≤ b.ft →
    exec (.graceExpiry k false) ⟨p, b⟩ = .next ⟨p, ((b.schU fun s => { s with forced := s.forced.bump }).updStop k fun st => { st with forced := true, forcedFt := b.ft }).emit (.forcedStop k)⟩) ∧
  (∀ (p : List Instr) (b : Blk) (k : Nat) (image : Bytes) (st : CoreStop) (c : Nat) (e : Context) (a : Nat) (u : Blk),
    unitOn pgSCH b →
    (b.core k).stop = some st →
    (b.core k).ctx = some c →
    (b.core k).groups ≠ [] →
    (st.ack = true ∨ st.forced = true) →
    b.contexts.get? c = some e →
    st.save = true →
    a = recordDva b e (savePos b k e) →
    ctlWrite e.slice c none a (image.take (recordBytes b)) b = .done u →
    exec (.coreIdle k image) ⟨p, b⟩ = .next ⟨p, coreSaved k c (savePos b k e) e st u⟩) ∧
  (∀ (p : List Instr) (b : Blk) (k : Nat) (image : Bytes) (st : CoreStop) (c : Nat) (e : Context),
    unitOn pgSCH b →
    (b.core k).stop = some st →
    (b.core k).ctx = some c →
    (st.ack = true ∨ st.forced = true) →
    b.contexts.get? c = some e →
    st.save = false →
    exec (.coreIdle k image) ⟨p, b⟩ = .next ⟨p, settle (settleLaunches (freeCore k (match st.only with | some n => (b.core k).groups.filter fun g => g.launch != n | none => []) b))⟩) ∧
  (∀ (p : List Instr) (b : Blk) (k : Nat) (st : CoreStop) (c : Nat) (e : Context),
    unitOn pgSCH b →
    (b.core k).stop = some st →
    (b.core k).ctx = some c →
    st.save = true →
    b.contexts.get? c = some e →
    exec (.saveStopFailure k .lost) ⟨p, b⟩ = .next ⟨p, saveFailed k 0x13 (recordDva b e (savePos b k e)) (Config.recordCause b.free).toNat { b with free := b.free + 1 }⟩) ∧
  (∀ (p : List Instr) (b : Blk) (k : Nat) (st : CoreStop) (c : Nat) (e : Context),
    unitOn pgSCH b →
    (b.core k).stop = some st →
    (b.core k).ctx = some c →
    st.save = true →
    b.contexts.get? c = some e →
    exec (.saveStopFailure k .refused) ⟨p, b⟩ = .next ⟨p, saveFailed k 0x11 (recordDva b e (savePos b k e)) 0x06 b⟩) ∧
  (∀ (p : List Instr) (b : Blk) (k : Nat) (st : CoreStop) (c : Nat) (e : Context) (a n : Nat),
    unitOn pgSCH b →
    (b.core k).stop = some st →
    (b.core k).ctx = some c →
    st.save = true →
    b.contexts.get? c = some e →
    spanCause b e.slice (recordDva b e (savePos b k e)) (recordBytes b) true = some (a, n) →
    exec (.saveStopFailure k .untranslated) ⟨p, b⟩ = .next ⟨p, saveFailed k (causeStatus n) a n b⟩) ∧
  (∀ (p : List Instr) (b : Blk) (k c n : Nat) (e : Context),
    unitOn pgSCH b →
    (b.core k).restoring = some (c, n) →
    b.contexts.get? c = some e →
    exec (.restoreFailure k true) ⟨p, b⟩ = .next ⟨p, settle ((((((e.records.get? n).map fun r => r.groups).getD []).map fun g => g.launch).dedup).foldl (fun b id => stopLaunch id ⟨0x16, 0, 0⟩ b) (freeRecord c n ((saveFault c e (recordDva b e n) (Config.recordCause b.free).toNat false ((((e.records.get? n).map fun r => r.groups).getD []).map fun g => g.launch).dedup { b with free := b.free + 1 }).updCore k fun x => idleCore { x with restoring := none })))⟩) ∧
  (∀ (p : List Instr) (b : Blk) (k : Nat) (lines : FlushLines) (f : FlushWord) (it : Item),
    unitOn pgSCH b →
    ((b.sch.flush.find? fun x => x.cores.contains k) = some f) →
    b.items.get? f.item = some it →
    f.cores.filter (· ≠ k) = [] →
    exec (.cacheMaintenanceAck k lines) ⟨p, b⟩ = .next ⟨p, settle (flushWalk flushFuel f.item f.bytes (flushAt f.item f.bytes [] f.pa f.span (lines.foldl (fun b l => writeBack f.item it f l b) b)))⟩)

/-- The signal port, polls, wait deadlines, FSIGs, fence reads, and lost requests of every kind complete (R152, R159, R160, R165, R163, R170, R171, R192, R194, R193, R36, R42). -/
def Obligations.FenceCommandsComplete : Prop :=
  (∀ (p : List Instr) (b : Blk) (who : Who) (page off : Nat) (bytes : Bytes) (t : Blk) (s : Nat) (u : Blk) (n : Nat),
    pageTakes who (pgView page) page s b t →
    portWriter t who s = true →
    off = 0x200 →
    bytes.length = 16 →
    field bytes 0x0A 2 = 0 →
    field bytes 0x0C 4 = 0 →
    ownsFence t s (field bytes 8 2) = true →
    signalFence s (portCtx who) (field bytes 8 2) (BitVec.ofNat 64 (field bytes 0 8)) false t.chip false 0 t = (u, n) →
    exec (.signalPortWrite who page off bytes) ⟨p, b⟩ = .next ⟨p, settle u⟩) ∧
  (∀ (p : List Instr) (b : Blk),
    unitOn pgFEN b →
    exec .pollRecheck ⟨p, b⟩ = .next ⟨p, settle (recheck b)⟩) ∧
  (∀ (p : List Instr) (b : Blk) (i : Nat) (wt : Wait),
    unitOn pgFEN b →
    ((b.fen.table.find? fun x => x.item == i && pastDeadline b.ft x.deadline) = some wt) →
    exec (.waitDeadlineExpiry i) ⟨p, b⟩ = .next ⟨p, settle (finishAbandon wt.fence (endWait wt ⟨0x1A, 0, 0⟩ (b.fenU fun x => { x with table := x.table.filter fun y => y.item != wt.item })))⟩) ∧
  (∀ (p : List Instr) (b : Blk) (i : Nat) (it : Item) (rs : RemoteSig),
    unitOn pgFEN b →
    b.items.get? i = some it →
    it.sig = some rs →
    it.result = none →
    it.startFt + it.timeoutNs b.lmf.txnTimeoutUs ≤ b.ft →
    exec (.remoteSignalTimeout i) ⟨p, b⟩ = .next ⟨p, settle (sendWaiting (endItem i ⟨0x14, 6, field it.entry 0x12 2 % 1024⟩ (b.lmfU fun l => { l with outstanding := l.outstanding.filter fun q => q.why != .fsig i })))⟩) ∧
  (∀ (p : List Instr) (b : Blk) (i : Nat) (it : Item) (n : Nat) (u t : Blk),
    unitOn pgFEN b →
    b.items.get? i = some it →
    it.sig = some ⟨none, n⟩ →
    it.result = none →
    pastDeadline b.ft it.deadline = false →
    fsigOut b (field it.entry 0x12 2 % 1024) < 64 →
    u = openSession (field it.entry 0x12 2 % 1024) b →
    t = traceRec 0x04 it.slice it.ctx (field it.entry 0x18 8) (field it.entry 0x10 2 + field it.entry 0x12 2 % 1024 * 2 ^ 16 + nextTxn u (field it.entry 0x12 2 % 1024) % 2 ^ 32 * 2 ^ 32) false u →
    exec (.fsigSend i) ⟨p, b⟩ = .next ⟨p, (sendReq 0x04 (field it.entry 0x12 2 % 1024) (List.replicate 16 0) (fsigPayload (burgee it.slice it.ctx it.cls (deadlineField b.ft it.deadline) it.scope) (nextTxn u (field it.entry 0x12 2 % 1024)) (field it.entry 0x18 8) n (field it.entry 0x10 2) t.chip (bit (field it.entry 0x14 1) 0)) (.fsig i) (it.startFt + it.timeoutNs t.lmf.txnTimeoutUs - t.ft) t).updItem i fun x => { x with sig := some ⟨some (nextTxn u (field it.entry 0x12 2 % 1024)), n⟩ }⟩) ∧
  (∀ (p : List Instr) (b : Blk) (who : Who) (page size : Nat) (t : Blk) (s : Nat),
    readTakes who (pgView page) size b t →
    pageSlice t who page = some s →
    exec (.fenceQueryRead who page size) ⟨p, b⟩ = .next ⟨p, readPair who (viewOff s + 0x218) size (queryFence t s (t.view s).fqSel).2 (some (viewOff s + 0x214, (queryFence t s (t.view s).fqSel).1)) t⟩) ∧
  (∀ (p : List Instr) (b : Blk) (who : Who) (size : Nat) (t : Blk),
    readTakes who pgFEN size b t →
    exec (.managerFenceQueryRead who size) ⟨p, b⟩ = .next ⟨p, readPair who (pgFEN * 4096 + 0x068) size (managerFence t t.fen.mqSel).2 (some (pgFEN * 4096 + 0x064, (managerFence t t.fen.mqSel).1)) t⟩) ∧
  (∀ (p : List Instr) (b : Blk) (who : Who) (page : Nat) (w : W32) (t : Blk) (s : Nat),
    viewTakes who page s b t →
    bit w.toNat 16 = true →
    ownsFence t s (t.view s).fqSel = true →
    exec (.fenceStaleClear who page w) ⟨p, b⟩ = .next ⟨p, t.fenU fun x => { x with fences := x.fences.upd (t.view s).fqSel fun e => { e with stale := 0, staleSat := false } }⟩) ∧
  (∀ (p : List Instr) (b : Blk) (dest txn : Nat) (rq : Request'),
    unitOn pgLMF b →
    answered b dest txn = some rq →
    rq.limitFt ≤ b.ft →
    rq.why.isWrite = true →
    exec (.remoteWriteLost dest txn) ⟨p, b⟩ = .next ⟨p, settle (lostWrite rq (dropRequest dest txn b))⟩) ∧
  (∀ (p : List Instr) (b : Blk) (dest txn : Nat) (rq : Request'),
    unitOn pgLMF b →
    answered b dest txn = some rq →
    rq.limitFt ≤ b.ft →
    rq.why.isRead = true →
    rq.why.isWrite = false →
    exec (.remoteReadTimeout dest txn) ⟨p, b⟩ = .next ⟨p, settle (lostRead rq (dropRequest dest txn b))⟩) ∧
  (∀ (p : List Instr) (b : Blk) (fn : Nat),
    unitOn pgHLU b →
    ((b.hlu.stores.any fun x => x.fn == fn && x.flush.isNone) = true) →
    exec (.hostFlushReadIssue fn) ⟨p, b⟩ = .next ⟨p, (b.hluU fun h => { h with tagNext := (b.hlu.tagNext + 1) % 4096, flushReads := h.flushReads.bump, reads := h.reads ++ [{ tag := b.hlu.tagNext, why := .flush fn, fn := fn, limitFt := b.ft + b.hlu.cplToMs * 1000000 }], stores := h.stores.map fun x => if x.fn = fn ∧ x.flush = none then { x with flush := some b.hlu.tagNext } else x }).emit (.flushRead fn b.hlu.tagNext)⟩) ∧
  (∀ (p : List Instr) (b : Blk) (tag : Nat) (bytes : Bytes) (hr : HostRead),
    unitOn pgHLU b →
    hostReadOf b tag = some hr →
    (∀ s q, hr.why ≠ .fetch s q) →
    exec (.hostReadCompletion tag (.data bytes)) ⟨p, b⟩ = .next ⟨p, settle (hostReadData hr bytes (dropHostRead hr.tag b))⟩) ∧
  (∀ (p : List Instr) (b : Blk) (tag : Nat) (hr : HostRead) (fn : Nat),
    unitOn pgHLU b →
    hostReadOf b tag = some hr →
    hr.limitFt ≤ b.ft →
    hr.why = .flush fn →
    exec (.hostReadTimeout tag) ⟨p, b⟩ = .next ⟨p, settle (flushLost fn tag (hostReadBad (dropHostRead tag b)))⟩) ∧
  (∀ (p : List Instr) (b : Blk) (n : Nat),
    b.pwr.supplies = true →
    b.pwr.pstate < 2 →
    ((b.own.pushes.any fun x => x.id == n) = true) →
    exec (.ownershipPushAck n) ⟨p, b⟩ = .next ⟨p, settle ((b.own.pushes.filter fun x => decide (x.id ≤ n)).foldl (fun b x => applyPush x b) b)⟩)

/-- Translations, range-cache misses, invalidations and their ends complete (R215, R213, R222, R220, R224, R229, R230). -/
def Obligations.TranslationEventsComplete : Prop :=
  (∀ (p : List Instr) (b : Blk) (s page hpa : Nat) (read write : Bool),
    unitOn pgXLT b →
    ((b.xlt.atsWaits.any fun x => x.slice == s && x.page == page) = true) →
    exec (.atsCompletion s page hpa read write) ⟨p, b⟩ = .next ⟨p, settle (atsArrived { slice := s, page := page, hpa := hpa, read := read, write := write } b)⟩) ∧
  (∀ (p : List Instr) (b : Blk) (n : Nat) (m : Miss) (k : Nat),
    unitOn pgXLT b →
    ((b.xlt.misses.find? fun x => x.id == n) = some m) →
    m.work = none →
    m.core = some k →
    exec (.rangeCacheMissDone n) ⟨p, b⟩ = .next ⟨p, settle (answerWindow k m.launch m.slice m.dva m.write (b.xltU fun x => { x with misses := x.misses.filter fun y => y.id != n }))⟩) ∧
  (∀ (p : List Instr) (b : Blk) (fn pasid hva pages itag : Nat),
    unitOn pgXLT b →
    b.hlu.invalRequests < 32 →
    exec (.atsInvalidationRequest fn pasid hva pages itag) ⟨p, b⟩ = .next ⟨p, settle (startInval (((b.slices.find? fun e => e.2.fn == fn && e.2.pasid == pasid).map fun e => e.1).getD 0) (pagesIn b fn pasid hva pages) true (.hostRequest fn itag) (b.hluU fun h => { h with invalRequests := h.invalRequests + 1 }))⟩) ∧
  (∀ (p : List Instr) (b : Blk) (holder : Holder),
    unitOn pgXLT b →
    atBoundary b holder = true →
    exec (.holdRelease holder) ⟨p, b⟩ = .next ⟨p, settle (retryParked (releaseAffected holder b))⟩) ∧
  (∀ (p : List Instr) (b : Blk) (k : Nat) (x : Inval),
    unitOn pgXLT b →
    ((b.xlt.invals.find? fun y => y.cores.contains k) = some x) →
    (∀ y ∈ b.lmf.outstanding, ∀ n, y.why ≠ .coreWrite k n ∧ y.why ≠ .coreRead k n) →
    exec (.shootdownAck k) ⟨p, b⟩ = .next ⟨p, settle (settleInvals ((b.updCore k fun y => { y with window := y.window.filter fun e => !windowHit x e }).xltU fun z => { z with invals := z.invals.map fun y => if y = x then { y with cores := y.cores.filter (· ≠ k) } else y }))⟩) ∧
  (∀ (p : List Instr) (b : Blk) (n : Nat) (x : Inval),
    unitOn pgXLT b →
    ((b.xlt.invals.find? fun y => y.epoch == n && !y.aborted) = some x) →
    x.startFt + 8000 ≤ b.ft →
    exec (.invalidationAbort n) ⟨p, b⟩ = .next ⟨p, settle (settleInvals (abortAffected x b))⟩) ∧
  (∀ (p : List Instr) (b : Blk) (n lines a : Nat),
    unitOn pgXLT b →
    (b.xlt.aborted.find? fun x => x.1 == n) = some (n, a) →
    a + 10000 ≤ b.ft →
    exec (.abortDrainExpiry n lines) ⟨p, b⟩ = .next ⟨p, pageErrs pgXLT 0x10 lines (b.xltU fun x => { x with aborted := x.aborted.filter fun y => y != (n, a) })⟩) ∧
  (∀ (p : List Instr) (b : Blk) (s : Nat) (x : Batch),
    unitOn pgXLT b →
    ((b.xlt.batches.find? fun y => y.slice == s && y.prg.isNone && (decide (64 ≤ y.pages.length) || decide (y.openFt + 1000 ≤ b.ft))) = some x) →
    pagesAsked b x.fn + x.pages.length ≤ b.xlt.priAlloc →
    (batchRecords x).length ≤ fqSlots (b.view s) →
    exec (.faultBatchClose s) ⟨p, b⟩ = .next ⟨p, closeBatch x b⟩) ∧
  (∀ (p : List Instr) (b : Blk) (fn prg n : Nat) (x : Batch),
    unitOn pgXLT b →
    ((b.xlt.batches.find? fun y => y.fn == fn && y.prg == some prg) = some x) →
    n = 0 →
    exec (.prgResponse fn prg n) ⟨p, b⟩ = .next ⟨p, settle (x.pages.foldl (fun b y => y.streams.foldl (fun b s => groupServed x.slice y s b) b) (b.xltU fun z => { z with batches := z.batches.filter fun y => y != x }))⟩) ∧
  (∀ (p : List Instr) (b : Blk) (fn prg n : Nat) (x : Batch),
    unitOn pgXLT b →
    ((b.xlt.batches.find? fun y => y.fn == fn && y.prg == some prg) = some x) →
    n ≠ 0 →
    exec (.prgResponse fn prg n) ⟨p, b⟩ = .next ⟨p, settle (x.pages.foldl (fun b y => y.streams.foldl (fun b s => groupFailed y s b) b) (b.xltU fun z => { z with batches := z.batches.filter fun y => y != x, priStopped := if n = 15 ∧ !z.priStopped.contains fn then z.priStopped ++ [fn] else z.priStopped }))⟩)

/-- The fault queue, notices, dirty logging and the commands of XLT complete (R228, R243, R239, R234, R236, R212, R242, R237, R240). -/
def Obligations.FaultQueueComplete : Prop :=
  (∀ (p : List Instr) (b : Blk) (who : Who) (page : Nat) (w : W32) (t : Blk) (s : Nat),
    viewTakes who page s b t →
    (bits w.toNat 0 12 + 4096 - (t.view s).fqHead) % 4096 ≤ ((t.view s).fqTail + 4096 - (t.view s).fqHead) % 4096 →
    exec (.fqHeadWrite who page w) ⟨p, b⟩ = .next ⟨p, settle (putWaiting s t.xlt.recordWaits.length (t.updView s fun v => { v with fqHead := bits w.toNat 0 12 }))⟩) ∧
  (∀ (p : List Instr) (b : Blk) (who : Who) (page : Nat) (w : W32) (t : Blk) (s : Nat),
    viewTakes who page s b t →
    bit w.toNat 0 = true →
    bit w.toNat 1 = false →
    (t.view s).fqEn = false →
    fqPlaced t s (t.view s).fqBase = true →
    exec (.fqEnWrite who page w) ⟨p, b⟩ = .next ⟨p, t.updView s fun v => { v with fqEn := true, fqHead := 0, fqTail := 0, fqPhase := true }⟩) ∧
  (∀ (p : List Instr) (b : Blk) (who : Who) (page : Nat) (w : W32) (t : Blk) (s : Nat),
    viewTakes who page s b t →
    bit w.toNat 0 = false →
    bit w.toNat 1 = false →
    exec (.fqEnWrite who page w) ⟨p, b⟩ = .next ⟨p, settle (dropWaitingRecords s (t.updView s fun v => { v with fqEn := false }))⟩) ∧
  (∀ (p : List Instr) (b : Blk) (s n : Nat) (a : AccCtr),
    unitOn pgXLT b →
    ((b.xlt.acc.find? fun x => x.slice == s && x.granule == n) = some a) →
    (b.view s).hotThresh ≠ 0 →
    (b.view s).hotThresh ≤ a.value →
    a.noticed = false →
    (b.view s).fqEn = true →
    (b.view s).fqRoom = true →
    exec (.hotNotice s n) ⟨p, b⟩ = .next ⟨p, (putFault s (faultBytes b.ft { dva := 2 ^ 56 + n * 65536, ctx := noOne, sq := 0, tag := 0, cause := 0x10, write := false, source := 0x23, outcome := 3, count := a.value }) noOne b).xltU fun x => { x with acc := x.acc.map fun y => if y.slice = s ∧ y.granule = n then { y with noticed := true } else y }⟩) ∧
  (∀ (p : List Instr) (b : Blk) (who : Who) (page : Nat) (w : W32) (t : Blk) (s : Nat),
    viewTakes who page s b t →
    bit w.toNat 0 = true →
    exec (.accClear who page w) ⟨p, b⟩ = .next ⟨p, t.xltU fun x => { x with acc := x.acc.filter fun a => a.slice != s }⟩) ∧
  (∀ (p : List Instr) (b : Blk) (s a : Nat) (d : Dirty) (e : HostEntry),
    unitOn pgXLT b →
    b.xlt.dirty.get? s = some d →
    hostEntry b s a = some e →
    e.logged = false →
    ringRoom d = true →
    exec (.dirtyRecord s a true) ⟨p, b⟩ = .next ⟨p, logHostPage s a b⟩) ∧
  (∀ (p : List Instr) (b : Blk) (s a : Nat) (d : Dirty),
    unitOn pgXLT b →
    b.xlt.dirty.get? s = some d →
    d.pendingBits.contains a = true →
    exec (.dirtyRecord s a false) ⟨p, b⟩ = .next ⟨p, finishDirty s (setDirtyBit s a b)⟩) ∧
  (∀ (p : List Instr) (b : Blk) (s n : Nat) (d : Dirty),
    unitOn pgXLT b →
    b.xlt.dirty.get? s = some d →
    n < 2 ^ d.ringLog2 →
    (n + 2 ^ d.ringLog2 - d.head) % 2 ^ d.ringLog2 ≤ (d.tail + 2 ^ d.ringLog2 - d.head) % 2 ^ d.ringLog2 →
    exec (.dirtyRingHeadAdvance s n) ⟨p, b⟩ = .next ⟨p, settle (resumeRing s (b.xltU fun x => { x with dirty := x.dirty.upd s fun d => { d with head := n } }))⟩) ∧
  (∀ (p : List Instr) (b : Blk) (who : Who) (w : W32) (ext : ExtRead) (t u : Blk) (d : Bytes),
    unitTakes who pgXLT b t →
    t.xlt.xbusy = false →
    bits w.toNat 0 4 = 0 →
    (u = t.xltU fun x => { x with xbusy := true }) →
    paRead u u.xlt.xcmd 64 ext = .data d →
    xFieldsOk u 0 d = true →
    u.xlt.areaEn = true →
    (rangesOf u (field d 0 2)).length < 1024 →
    paChip (field d 0x10 8) ≠ u.chip →
    0x10000 ≤ field d 8 8 →
    overlapsRange u (field d 0 2) (field d 8 8) (field d 0x18 8) = false →
    field d 8 8 + field d 0x18 8 ≤ 2 ^ 56 →
    exec (.mapPeer who w ext) ⟨p, b⟩ = .next ⟨p, settle (xDone 0 (rangesOf u (field d 0 2)).fresh (setRange (field d 0 2) (rangesOf u (field d 0 2)).fresh (some { start := field d 8 8, len := field d 0x18 8, pa := field d 0x10 8, creator := 0xFFFF, readOnly := bit (field d 2 1) 0, peer := true }) u))⟩) ∧
  (∀ (p : List Instr) (b : Blk) (who : Who) (w : W32) (ext : ExtRead) (t u : Blk) (d : Bytes) (n : Nat) (r : Range),
    unitTakes who pgXLT b t →
    t.xlt.xbusy = false →
    bits w.toNat 0 4 = 1 →
    (u = t.xltU fun x => { x with xbusy := true }) →
    paRead u u.xlt.xcmd 64 ext = .data d →
    xFieldsOk u 1 d = true →
    ((rangesOf u (field d 0 2)).find? fun x => x.2.start == field d 8 8 && x.2.peer && x.2.valid) = some (n, r) →
    exec (.unmapPeer who w ext) ⟨p, b⟩ = .next ⟨p, settle (startInval (field d 0 2) [.range (field d 0 2) n] false (.unmapPeer (field d 0 2) n) u)⟩) ∧
  (∀ (p : List Instr) (b : Blk) (who : Who) (w : W32) (ext : ExtRead) (t u : Blk) (d : Bytes),
    unitTakes who pgXLT b t →
    t.xlt.xbusy = false →
    bits w.toNat 0 4 = 2 →
    (u = t.xltU fun x => { x with xbusy := true }) →
    paRead u u.xlt.xcmd 64 ext = .data d →
    xFieldsOk u 2 d = true →
    u.xlt.dirty.has (field d 0 2) = false →
    exec (.dirtyStart who w ext) ⟨p, b⟩ = .next ⟨p, settle (xDone 0 0 (u.xltU fun x => { x with dirty := x.dirty.set (field d 0 2) { hbmMap := field d 0x20 8, spMap := field d 0x28 8, ring := field d 0x30 8, ringLog2 := field d 0x38 1 }, hostCache := x.hostCache.map fun e => if e.slice = field d 0 2 then { e with logged := false } else e }))⟩) ∧
  (∀ (p : List Instr) (b : Blk) (who : Who) (w : W32) (ext : ExtRead) (t u : Blk) (d : Bytes),
    unitTakes who pgXLT b t →
    t.xlt.xbusy = false →
    bits w.toNat 0 4 = 3 →
    (u = t.xltU fun x => { x with xbusy := true }) →
    paRead u u.xlt.xcmd 64 ext = .data d →
    xFieldsOk u 3 d = true →
    u.xlt.dirty.has (field d 0 2) = true →
    exec (.dirtyStop who w ext) ⟨p, b⟩ = .next ⟨p, settle (finishDirty (field d 0 2) (u.xltU fun x => { x with dirty := x.dirty.upd (field d 0 2) fun e => { e with stopping := true } }))⟩) ∧
  (∀ (p : List Instr) (b : Blk) (who : Who) (w : W32) (ext : ExtRead) (t u : Blk) (d : Bytes),
    unitTakes who pgXLT b t →
    t.xlt.xbusy = false →
    bits w.toNat 0 4 = 4 →
    (u = t.xltU fun x => { x with xbusy := true }) →
    paRead u u.xlt.xcmd 64 ext = .data d →
    xFieldsOk u 4 d = true →
    u.xlt.dirty.has (field d 0 2) = true →
    exec (.dirtyRearm who w ext) ⟨p, b⟩ = .next ⟨p, settle (xDone 0 0 (u.xltU fun x => { x with hostCache := x.hostCache.map fun e => if e.slice = field d 0 2 then { e with logged := false } else e }))⟩) ∧
  (∀ (p : List Instr) (b : Blk) (who : Who) (w : W32) (ext : ExtRead) (t u : Blk) (d : Bytes),
    unitTakes who pgXLT b t →
    t.xlt.xbusy = false →
    bits w.toNat 0 4 = 5 →
    (u = t.xltU fun x => { x with xbusy := true }) →
    paRead u u.xlt.xcmd 64 ext = .data d →
    xFieldsOk u 5 d = true →
    exec (.invalSlice who w ext) ⟨p, b⟩ = .next ⟨p, settle (invalSlice (field d 0 2) u)⟩) ∧
  (∀ (p : List Instr) (b : Blk) (who : Who) (w : W32) (t : Blk),
    unitTakes who pgXLT b t →
    (t.hdr pgXLT).locked = false →
    bit w.toNat 0 = true →
    exec (.xltAreaWrite who 0x48 w) ⟨p, b⟩ = .next ⟨p, t.xltU fun x => { x with areaEn := true }⟩) ∧
  (∀ (p : List Instr) (b : Blk) (who : Who) (w : W32) (t : Blk),
    unitTakes who pgXLT b t →
    (t.hdr pgXLT).locked = false →
    t.xlt.areaEn = false →
    exec (.xltAreaWrite who 0x40 w) ⟨p, b⟩ = .next ⟨p, t.xltU fun x => { x with area := bits x.area 32 14 * 2 ^ 32 + bits w.toNat 21 11 * 2 ^ 21 }⟩) ∧
  (∀ (p : List Instr) (b : Blk) (who : Who) (w : W32) (t : Blk),
    unitTakes who pgXLT b t →
    (t.hdr pgXLT).locked = false →
    t.xlt.areaEn = false →
    exec (.xltAreaWrite who 0x44 w) ⟨p, b⟩ = .next ⟨p, t.xltU fun x => { x with area := bits x.area 0 32 + bits w.toNat 0 14 * 2 ^ 32 }⟩)

/-- CTX commands on partitions and slices, and GRANT and RECLAIM, complete (R114, R140, R118, R119, R139, R120, R121). -/
def Obligations.PartitionCommandsComplete : Prop :=
  (∀ (p : List Instr) (b : Blk) (who : Who) (w : W32) (ext : ExtRead) (t u : Blk) (d : Bytes),
    unitTakes who pgCTX b t →
    t.ctx.busy = false →
    t.ctx.tablesEn = true →
    bits w.toNat 0 4 = 0 →
    (u = t.ctxU fun x => { x with busy := true }) →
    paRead u u.ctx.cmd 64 ext = .data d →
    cFieldsOk 0 d = true →
    zeroSpan d 0x30 16 = true →
    field d 0x2C 2 ≤ 12288 →
    field d 0x2E 2 ≤ 320 →
    u.partitions.length < 64 →
    shareSum u (·.hbmShare) + field d 0x28 4 ≤ hbmTotal →
    shareSum u (·.spShare) + field d 0x2C 2 ≤ spTotal u →
    shareSum u (·.storeBlocks) + field d 0x2E 2 ≤ blockTotal u →
    u.partitions.has (cNumber u.partitions d) = false →
    ((u.partitions.any fun e => e.2.mask &&& BitVec.ofNat 64 (field d 0x20 8) != 0) = false) →
    exec (.createPartition who w ext) ⟨p, b⟩ = .next ⟨p, settle (cDone 0 (cNumber u.partitions d) (syncPartition (cNumber u.partitions d) { u with partitions := u.partitions.set (cNumber u.partitions d) { mask := BitVec.ofNat 64 (field d 0x20 8), hbmShare := field d 0x28 4, spShare := field d 0x2C 2, storeBlocks := field d 0x2E 2 } }))⟩) ∧
  (∀ (p : List Instr) (b : Blk) (who : Who) (w : W32) (ext : ExtRead) (t u : Blk) (d : Bytes),
    unitTakes who pgCTX b t →
    t.ctx.busy = false →
    t.ctx.tablesEn = true →
    bits w.toNat 0 4 = 1 →
    (u = t.ctxU fun x => { x with busy := true }) →
    paRead u u.ctx.cmd 64 ext = .data d →
    cFieldsOk 1 d = true →
    u.partitions.has (field d 0 2) = true →
    ((u.slices.any fun e => e.2.part == field d 0 2) = false) →
    exec (.destroyPartition who w ext) ⟨p, b⟩ = .next ⟨p, settle (cDone 0 0 (syncPartition (field d 0 2) { u with partitions := u.partitions.del (field d 0 2) }))⟩) ∧
  (∀ (p : List Instr) (b : Blk) (who : Who) (w : W32) (ext : ExtRead) (t u : Blk) (d : Bytes),
    unitTakes who pgCTX b t →
    t.ctx.busy = false →
    t.ctx.tablesEn = true →
    bits w.toNat 0 4 = 2 →
    (u = t.ctxU fun x => { x with busy := true }) →
    paRead u u.ctx.cmd 64 ext = .data d →
    cFieldsOk 2 d = true →
    sliceImageOk u d = true →
    u.slices.length < 4096 →
    ((sliceOf d).fn = 0 ∨ (u.slices.count fun _ e => e.fn == (sliceOf d).fn) < 256) →
    (u.slices.has 0 = true ∨ cNumber u.slices d = 0) →
    u.slices.has (cNumber u.slices d) = false →
    identityOk u (cNumber u.slices d) (sliceOf d) = true →
    exec (.createSlice who w ext) ⟨p, b⟩ = .next ⟨p, settle (cDone 0 (cNumber u.slices d) (syncPartition (sliceOf d).part (syncSlice (cNumber u.slices d) { u with slices := u.slices.set (cNumber u.slices d) (sliceOf d), views := u.views.set (cNumber u.slices d) {} })))⟩) ∧
  (∀ (p : List Instr) (b : Blk) (who : Who) (w : W32) (ext : ExtRead) (t u : Blk) (d : Bytes) (sl : Slice),
    unitTakes who pgCTX b t →
    t.ctx.busy = false →
    t.ctx.tablesEn = true →
    bits w.toNat 0 4 = 3 →
    (u = t.ctxU fun x => { x with busy := true }) →
    paRead u u.ctx.cmd 64 ext = .data d →
    cFieldsOk 3 d = true →
    sliceImageOk u d = true →
    u.slices.get? (field d 0 2) = some sl →
    sl.draining = false →
    sl.fn = (sliceOf d).fn →
    sl.pasid = (sliceOf d).pasid →
    sl.localIdx = (sliceOf d).localIdx →
    sl.part = (sliceOf d).part →
    exec (.modifySlice who w ext) ⟨p, b⟩ = .next ⟨p, settle (cDone 0 0 (syncSlice (field d 0 2) (u.updSlice (field d 0 2) fun x => { x with weight := (sliceOf d).weight, clsMax := (sliceOf d).clsMax, maxQueues := (sliceOf d).maxQueues, inflight := (sliceOf d).inflight, maxContexts := (sliceOf d).maxContexts, maxFences := (sliceOf d).maxFences, storeBlocks := (sliceOf d).storeBlocks })))⟩) ∧
  (∀ (p : List Instr) (b : Blk) (who : Who) (w : W32) (ext : ExtRead) (t u : Blk) (d : Bytes) (sl : Slice),
    unitTakes who pgCTX b t →
    t.ctx.busy = false →
    t.ctx.tablesEn = true →
    bits w.toNat 0 4 = 4 →
    (u = t.ctxU fun x => { x with busy := true }) →
    paRead u u.ctx.cmd 64 ext = .data d →
    cFieldsOk 4 d = true →
    u.slices.get? (field d 0 2) = some sl →
    sl.draining = false →
    (field d 0 2 ≠ 0 ∨ u.slices.length = 1) →
    exec (.destroySlice who w ext) ⟨p, b⟩ = .next ⟨p, settle (syncSlice (field d 0 2) (u.updSlice (field d 0 2) fun x => { x with draining := true, drainPhase := 1, drainFt := u.ft }))⟩) ∧
  (∀ (p : List Instr) (b : Blk) (who : Who) (w : W32) (ext : ExtRead) (t u : Blk) (d : Bytes) (pt : Partition),
    unitTakes who pgCTX b t →
    t.ctx.busy = false →
    t.ctx.tablesEn = true →
    bits w.toNat 0 4 = 5 →
    (u = t.ctxU fun x => { x with busy := true }) →
    paRead u u.ctx.cmd 64 ext = .data d →
    cFieldsOk 5 d = true →
    sliceActive u (field d 4 2) = true →
    u.partitions.get? (slicePart u (field d 4 2)) = some pt →
    (if field d 3 1 = 0 then pt.hbmGranted + field d 0x10 4 ≤ pt.hbmShare else pt.spGranted + field d 0x10 4 ≤ pt.spShare) →
    pagesFree u (field d 3 1) (field d 8 8 / 65536) (field d 0x10 4) = true →
    exec (.grant who w ext) ⟨p, b⟩ = .next ⟨p, settle (fillRuns .grantFill 0 (runsOf ((pageSpan (field d 3 1) (field d 8 8 / 65536) (field d 0x10 4)).filter fun g => !u.own.scrubbed.has g)) (u.ownU fun o => { o with grant := some (field d 4 2, field d 3 1, field d 8 8 / 65536, field d 0x10 4) }))⟩) ∧
  (∀ (p : List Instr) (b : Blk) (who : Who) (w : W32) (ext : ExtRead) (t u : Blk) (d : Bytes),
    unitTakes who pgCTX b t →
    t.ctx.busy = false →
    t.ctx.tablesEn = true →
    bits w.toNat 0 4 = 6 →
    (u = t.ctxU fun x => { x with busy := true }) →
    paRead u u.ctx.cmd 64 ext = .data d →
    cFieldsOk 6 d = true →
    sliceActive u (field d 4 2) = true →
    field d 0x10 4 ≤ u.own.owner.length →
    (((pageSpan (field d 3 1) (field d 8 8 / 65536) (field d 0x10 4)).all fun g => u.own.owner.get? g == some (field d 4 2) && !coveredBy u (field d 4 2) g) = true) →
    exec (.reclaim who w ext) ⟨p, b⟩ = .next ⟨p, settle (fillRuns .reclaimFill (field d 4 2) [(field d 3 1 * 2 ^ 30 + field d 8 8 / 65536, field d 0x10 4)] (u.ownU fun o => { o with reclaim := some (field d 4 2, field d 3 1, field d 8 8 / 65536, field d 0x10 4) }))⟩)

/-- Contexts are created, destroyed and pinned; the carve-out, the teardown log, spills and restores complete (R125, R134, R132, R126, R110, R136, R130). -/
def Obligations.ContextCommandsComplete : Prop :=
  (∀ (p : List Instr) (b : Blk) (who : Who) (w : W32) (ext : ExtRead) (t u : Blk) (d : Bytes),
    unitTakes who pgCTX b t →
    t.ctx.busy = false →
    t.ctx.tablesEn = true →
    bits w.toNat 0 4 = 7 →
    (u = t.ctxU fun x => { x with busy := true }) →
    paRead u u.ctx.cmd 64 ext = .data d →
    cFieldsOk 7 d = true →
    contextRefused u (field d 4 2) = none →
    u.contexts.has (cNumber u.contexts d) = false →
    saveAreaOk u (field d 4 2) (field d 8 8) = true →
    exec (.createContext who w ext) ⟨p, b⟩ = .next ⟨p, settle (cDone 0 (cNumber u.contexts d) (newContext (cNumber u.contexts d) (field d 4 2) (field d 8 8) u))⟩) ∧
  (∀ (p : List Instr) (b : Blk) (who : Who) (w : W32) (ext : ExtRead) (t u : Blk) (d : Bytes) (e : Context),
    unitTakes who pgCTX b t →
    t.ctx.busy = false →
    t.ctx.tablesEn = true →
    bits w.toNat 0 4 = 8 →
    (u = t.ctxU fun x => { x with busy := true }) →
    paRead u u.ctx.cmd 64 ext = .data d →
    cFieldsOk 8 d = true →
    u.contexts.get? (field d 0 2) = some e →
    e.state ≠ .destroying →
    e.destroyNext = none →
    exec (.destroyContext who w ext) ⟨p, b⟩ = .next ⟨p, settle (beginDestroy (field d 0 2) .manager u)⟩) ∧
  (∀ (p : List Instr) (b : Blk) (who : Who) (w : W32) (ext : ExtRead) (t u : Blk) (d : Bytes) (e : Context),
    unitTakes who pgCTX b t →
    t.ctx.busy = false →
    t.ctx.tablesEn = true →
    bits w.toNat 0 4 = 9 →
    (u = t.ctxU fun x => { x with busy := true }) →
    paRead u u.ctx.cmd 64 ext = .data d →
    cFieldsOk 9 d = true →
    u.contexts.get? (field d 0 2) = some e →
    e.state ≠ .destroying →
    (e.pinned = true ∨ pinnedCount u < 2048) →
    exec (.pinContext who w ext) ⟨p, b⟩ = .next ⟨p, settle (syncContext (field d 0 2) (seekSlot (field d 0 2) ((u.updContext (field d 0 2) fun x => { x with pinned := true }).ctxU fun x => { x with pinWait := some (field d 0 2) })))⟩) ∧
  (∀ (p : List Instr) (b : Blk) (who : Who) (w : W32) (ext : ExtRead) (t u : Blk) (d : Bytes) (e : Context),
    unitTakes who pgCTX b t →
    t.ctx.busy = false →
    t.ctx.tablesEn = true →
    bits w.toNat 0 4 = 10 →
    (u = t.ctxU fun x => { x with busy := true }) →
    paRead u u.ctx.cmd 64 ext = .data d →
    cFieldsOk 10 d = true →
    u.contexts.get? (field d 0 2) = some e →
    e.state ≠ .destroying →
    exec (.unpinContext who w ext) ⟨p, b⟩ = .next ⟨p, settle (cDone 0 0 (syncContext (field d 0 2) (u.updContext (field d 0 2) fun x => { x with pinned := false })))⟩) ∧
  (∀ (p : List Instr) (b : Blk) (who : Who) (page : Nat) (w : W32) (t : Blk) (s : Nat),
    viewTakes who page s b t →
    (t.view s).vBusy = false →
    bit w.toNat 0 = false →
    contextRefused t s = none →
    saveAreaOk t s (t.view s).save = true →
    exec (.viewContextCreate who page w) ⟨p, b⟩ = .next ⟨p, settle (vDone s 0 t.contexts.fresh (newContext t.contexts.fresh s (t.view s).save t))⟩) ∧
  (∀ (p : List Instr) (b : Blk) (who : Who) (page : Nat) (w : W32) (t : Blk) (s : Nat) (e : Context),
    viewTakes who page s b t →
    (t.view s).vBusy = false →
    bit w.toNat 0 = true →
    t.contexts.get? (bits w.toNat 16 16) = some e →
    e.slice = s →
    e.state ≠ .destroying →
    e.destroyNext = none →
    exec (.viewContextDestroy who page w) ⟨p, b⟩ = .next ⟨p, settle (beginDestroy (bits w.toNat 16 16) .view (t.updView s fun v => { v with vBusy := true }))⟩) ∧
  (∀ (p : List Instr) (b : Blk) (who : Who) (w : W32) (t : Blk),
    unitTakes who pgCTX b t →
    (t.hdr pgCTX).locked = false →
    bit w.toNat 0 = true →
    6 ≤ t.ctx.tdLog2 →
    t.ctx.tdLog2 ≤ 16 →
    exec (.ctxTablesWrite who 0x48 w) ⟨p, b⟩ = .next ⟨p, t.ctxU fun x => { x with tablesEn := true }⟩) ∧
  (∀ (p : List Instr) (b : Blk) (who : Who) (w : W32) (t : Blk),
    unitTakes who pgCTX b t →
    (t.hdr pgCTX).locked = false →
    t.ctx.tablesEn = false →
    exec (.ctxTablesWrite who 0x40 w) ⟨p, b⟩ = .next ⟨p, t.ctxU fun x => { x with base := bits x.base 32 14 * 2 ^ 32 + bits w.toNat 21 11 * 2 ^ 21 }⟩) ∧
  (∀ (p : List Instr) (b : Blk) (who : Who) (w : W32) (t : Blk),
    unitTakes who pgCTX b t →
    (t.hdr pgCTX).locked = false →
    t.ctx.tablesEn = false →
    exec (.ctxTablesWrite who 0x44 w) ⟨p, b⟩ = .next ⟨p, t.ctxU fun x => { x with base := bits x.base 0 32 + bits w.toNat 0 14 * 2 ^ 32 }⟩) ∧
  (∀ (p : List Instr) (b : Blk) (who : Who) (w : W32) (t u : Blk),
    unitTakes who pgCTX b t →
    bits w.toNat 0 16 < 2 ^ t.ctx.tdLog2 →
    (bits w.toNat 0 16 + 2 ^ t.ctx.tdLog2 - t.ctx.tdHead % 2 ^ t.ctx.tdLog2) % 2 ^ t.ctx.tdLog2 ≤ (t.ctx.tdTail + 2 ^ t.ctx.tdLog2 - t.ctx.tdHead % 2 ^ t.ctx.tdLog2) % 2 ^ t.ctx.tdLog2 →
    (u = t.ctxU fun x => { x with tdHead := bits w.toNat 0 16 }) →
    exec (.tdHeadWrite who w) ⟨p, b⟩ = .next ⟨p, settle (u.items.foldl (fun b e => if e.2.complWait ∧ ctxDestroying b e.2.ctx ∧ e.2.stall.isNone then completeItem e.1 b else b) u)⟩) ∧
  (∀ (p : List Instr) (b : Blk) (n : Nat) (e : Context) (k a a2 : Nat) (u : Blk),
    unitOn pgCTX b →
    b.contexts.get? n = some e →
    e.state = .spilling →
    e.slot = some k →
    (u = putSpill n (b.updContext n fun x => { x with state := .defined, slot := none })) →
    (u.ctx.pairs.find? fun x => x.2 == n + 1) = some (a, a2) →
    exec (.spillDone n) ⟨p, b⟩ = .next ⟨p, settle (rejoin n (syncContext n (transitionEnded n (startRestore a k u))))⟩) ∧
  (∀ (p : List Instr) (b : Blk) (n : Nat) (e : Context),
    unitOn pgCTX b →
    b.contexts.get? n = some e →
    e.state = .restoring →
    exec (.restoreDone n) ⟨p, b⟩ = .next ⟨p, settle (syncContext n (transitionEnded n (endPair n (b.updContext n fun x => { x with state := .resident }))))⟩) ∧
  (∀ (p : List Instr) (b : Blk) (n : Nat) (rest : Nats),
    unitOn pgCTX b →
    b.ctx.admitQ = n :: rest →
    ((freeSlot b).isSome = true ∨ (victim b).isSome = true) →
    exec .admissionServe ⟨p, b⟩ = .next ⟨p, settle (syncContext n (seekSlot n ((b.ctxU fun x => { x with admitQ := rest }).updContext n fun x => { x with admitting := false })))⟩)

/-- Transfer engines take and serve work, fail, and lose late peers; GCREATE and GDESTROY complete (R304, R305, R306, R328, R330, R319). -/
def Obligations.EngineEventsComplete : Prop :=
  (∀ (p : List Instr) (b : Blk) (n : Nat) (wk : Work) (k : Nat),
    unitOn pgTRE b →
    intakeNext b = some n →
    b.tre.works.get? n = some wk →
    engineFor b wk = some k →
    exec (.treItemAssign n) ⟨p, b⟩ = .next ⟨p, (b.treU fun t => { t with intake := t.intake.filter (· ≠ n) }).updWork n fun x => { x with engine := some k }⟩) ∧
  (∀ (p : List Instr) (b : Blk) (n : Nat),
    unitOn pgTRE b →
    n < 32 →
    b.tre.up.getLsbD n = true →
    exec (.treChunkDone n) ⟨p, b⟩ = .next ⟨p, settle (serveEngine n b)⟩) ∧
  (∀ (p : List Instr) (b : Blk) (n : Nat),
    unitOn pgTRE b →
    n < 32 →
    b.tre.up.getLsbD n = true →
    exec (.treFailure n) ⟨p, b⟩ = .next ⟨p, settle (absorb (treDown n b))⟩) ∧
  (∀ (p : List Instr) (b : Blk),
    unitOn pgTRE b →
    ((b.tre.staging.any fun c => decide (c.atFt + 20000 ≤ b.ft)) = true) →
    exec .stageChunkExpiry ⟨p, b⟩ = .next ⟨p, settle (drainStaging (b.treU fun t => { t with staging := t.staging.filter fun c => !decide (c.atFt + 20000 ≤ b.ft), stageDrops := t.stageDrops.add (b.tre.staging.filter fun c => decide (c.atFt + 20000 ≤ b.ft)).length }))⟩) ∧
  (∀ (p : List Instr) (b : Blk) (n : Nat) (c : Coll) (k : Nat),
    unitOn pgTRE b →
    b.tre.colls.get? n = some c →
    c.ended = false →
    lateRank b c = some k →
    exec (.collPeerTimeout n) ⟨p, b⟩ = .next ⟨p, settle (failColl n ⟨0x14, 6, c.chipOf k⟩ b)⟩) ∧
  (∀ (p : List Instr) (b : Blk) (who : Who) (w : W32) (ext : ExtRead) (t u : Blk) (d bytes : Bytes),
    unitTakes who pgTRE b t →
    t.tre.gbusy = false →
    bits w.toNat 0 2 = 0 →
    (u = t.treU fun x => { x with gbusy := true }) →
    paRead u u.tre.gcmd 64 ext = .data d →
    groupFieldsOk u d = true →
    u.tre.groups.has (field d 0 2) = false →
    paRead u (field d 0x10 8) (2 * field d 4 2) (.data []) = .data bytes →
    (membersOk u d ((List.range (field d 4 2)).map fun i => field bytes (2 * i) 2) = true) →
    exec (.gcreate who w ext) ⟨p, b⟩ = .next ⟨p, gDone 0 (u.treU fun x => { x with groups := x.groups.set (field d 0 2) { slice := field d 2 2, size := field d 4 2, rank := field d 6 2, ring := field d 8 1 == 1, members := (List.range (field d 4 2)).map fun i => field bytes (2 * i) 2, resendBase := field d 0x18 8, resendBytes := field d 0x20 8 } })⟩) ∧
  (∀ (p : List Instr) (b : Blk) (who : Who) (w : W32) (ext : ExtRead) (t u : Blk) (d : Bytes),
    unitTakes who pgTRE b t →
    t.tre.gbusy = false →
    bits w.toNat 0 2 = 1 →
    (u = t.treU fun x => { x with gbusy := true }) →
    paRead u u.tre.gcmd 64 ext = .data d →
    u.tre.groups.has (field d 0 2) = true →
    groupInUse u (field d 0 2) = false →
    exec (.gdestroy who w ext) ⟨p, b⟩ = .next ⟨p, gDone 0 (u.treU fun x => { x with groups := x.groups.del (field d 0 2), colls := x.colls.keep fun _ c => c.group != field d 0 2, ended := x.ended.filter fun e => e.1 != field d 0 2 })⟩)

/-- Loaded blocks, failed banks and pages, reloaded pieces and the registers of the model store complete (R296, R298, R302). -/
def Obligations.ModelStoreComplete : Prop :=
  (∀ (p : List Instr) (b : Blk) (n : Nat) (wk : Work) (k : Nat) (m : Model),
    unitOn pgMDL b →
    b.tre.works.get? n = some wk →
    wk.owner = .load k →
    b.mdl.models.get? k = some m →
    m.state = .loading →
    m.loaded < wk.next / 2097152 →
    exec (.modelBlockLoaded n) ⟨p, b⟩ = .next ⟨p, if wk.next / 2097152 = m.need then settle (residentNow k (dropWork n (b.mdlU fun d => { d with loads := d.loads.add (wk.next / 2097152 - m.loaded), models := d.models.set k { m with loaded := wk.next / 2097152 } }))) else b.mdlU fun d => { d with loads := d.loads.add (wk.next / 2097152 - m.loaded), models := d.models.set k { m with loaded := wk.next / 2097152 } }⟩) ∧
  (∀ (p : List Instr) (b : Blk) (n k : Nat),
    unitOn pgMDL b →
    b.mdl.storeEn = true →
    exec (.modelStoreError (.piece n k)) ⟨p, b⟩ = .next ⟨p, settle (absorb ((piecesWhere b fun x => x == (n, k)).foldl (fun b x => retirePiece x.1 x.2 b) (loseSpares (fun x => x == (n, k)) b)))⟩) ∧
  (∀ (p : List Instr) (b : Blk) (n : Nat),
    unitOn pgMDL b →
    b.mdl.storeEn = true →
    exec (.modelStoreError (.bank n)) ⟨p, b⟩ = .next ⟨p, settle (absorb ((piecesWhere b fun x => x.1 == n).foldl (fun b x => retirePiece x.1 x.2 b) (loseSpares (fun x => x.1 == n) b)))⟩) ∧
  (∀ (p : List Instr) (b : Blk) (n k a : Nat) (m : Model),
    unitOn pgMDL b →
    repairedWork b n k = some a →
    b.mdl.models.get? n = some m →
    exec (.modelPieceReloaded n k) ⟨p, b⟩ = .next ⟨p, settle (resumeLost ((dropWork a b).updModel n fun x => { x with lost := m.lost.filter (· ≠ k), state := if (m.lost.filter (· ≠ k)).isEmpty then .resident else x.state }))⟩) ∧
  (∀ (p : List Instr) (b : Blk) (who : Who) (w : W32) (t : Blk),
    unitTakes who pgMDL b t →
    (t.hdr pgMDL).locked = false →
    t.mdl.storeEn = false →
    bits w.toNat 0 6 ≤ 54 →
    bits w.toNat 16 9 ≤ 320 →
    exec (.storeConfigWrite who 0x40 w) ⟨p, b⟩ = .next ⟨p, t.mdlU fun d => { d with rows := bits w.toNat 0 6, storeBlocks := bits w.toNat 16 9 }⟩) ∧
  (∀ (p : List Instr) (b : Blk) (who : Who) (w : W32) (t : Blk),
    unitTakes who pgMDL b t →
    (t.hdr pgMDL).locked = false →
    t.mdl.storeEn = false →
    bit w.toNat 0 = true →
    storeFits t = true →
    exec (.storeConfigWrite who 0x44 w) ⟨p, b⟩ = .next ⟨p, openStore t⟩)

/-- A request packet that is the next of its source is applied, then what was held behind it, and its credit is owed (R353, R196, R164, R271, R272, R352). -/
def Obligations.RequestPacketsComplete : Prop :=
  (∀ (p : List Instr) (b : Blk) (n : Nat) (pk : Pkt) (u v : Blk),
    pk.typ = 0x01 →
    requestArrives n pk b u v →
    exec (.remoteWrReceive n pk) ⟨p, b⟩ = .next ⟨p, afterPkt (reorderFull b) (oweCredit n pk (drainHeld applyAny (((applyWr pk v).src pk.src).held.length + 1) pk.src (applyWr pk v)))⟩) ∧
  (∀ (p : List Instr) (b : Blk) (n : Nat) (pk : Pkt) (u v : Blk),
    pk.typ = 0x02 →
    requestArrives n pk b u v →
    exec (.remoteRdReceive n pk) ⟨p, b⟩ = .next ⟨p, afterPkt (reorderFull b) (oweCredit n pk (drainHeld applyAny (((applyRd pk v).src pk.src).held.length + 1) pk.src (applyRd pk v)))⟩) ∧
  (∀ (p : List Instr) (b : Blk) (n : Nat) (pk : Pkt) (u v : Blk),
    pk.typ = 0x03 →
    requestArrives n pk b u v →
    exec (.remoteAtReceive n pk) ⟨p, b⟩ = .next ⟨p, afterPkt (reorderFull b) (oweCredit n pk (drainHeld applyAny (((applyAt pk v).src pk.src).held.length + 1) pk.src (applyAt pk v)))⟩) ∧
  (∀ (p : List Instr) (b : Blk) (n : Nat) (pk : Pkt) (u v : Blk),
    pk.typ = 0x04 →
    requestArrives n pk b u v →
    exec (.fsigReceive n pk) ⟨p, b⟩ = .next ⟨p, afterPkt (reorderFull b) (oweCredit n pk (drainHeld applyAny (((applyFsig pk v).src pk.src).held.length + 1) pk.src (applyFsig pk v)))⟩) ∧
  (∀ (p : List Instr) (b : Blk) (n : Nat) (pk : Pkt) (u v : Blk),
    pk.typ = 0x05 →
    requestArrives n pk b u v →
    exec (.planReceive n pk) ⟨p, b⟩ = .next ⟨p, afterPkt (reorderFull b) (oweCredit n pk (drainHeld applyAny (((applyPlanPkt pk v).src pk.src).held.length + 1) pk.src (applyPlanPkt pk v)))⟩) ∧
  (∀ (p : List Instr) (b : Blk) (n : Nat) (pk : Pkt) (u v : Blk),
    pk.typ = 0x06 →
    requestArrives n pk b u v →
    exec (.readyReceive n pk) ⟨p, b⟩ = .next ⟨p, afterPkt (reorderFull b) (oweCredit n pk (drainHeld applyAny (((applyReady pk v).src pk.src).held.length + 1) pk.src (applyReady pk v)))⟩) ∧
  (∀ (p : List Instr) (b : Blk) (n : Nat) (pk : Pkt) (u v : Blk),
    pk.typ = 0x07 →
    requestArrives n pk b u v →
    exec (.leaveReceive n pk) ⟨p, b⟩ = .next ⟨p, afterPkt (reorderFull b) (oweCredit n pk (drainHeld applyAny (((applyLeave pk v).src pk.src).held.length + 1) pk.src (applyLeave pk v)))⟩) ∧
  (∀ (p : List Instr) (b : Blk) (n : Nat) (pk : Pkt) (u : Blk),
    pk.typ = 0x08 →
    dataArrives n pk b u →
    exec (.sessionReceive n pk) ⟨p, b⟩ = .next ⟨p, afterPkt (reorderFull b) (oweCredit n pk (drainHeld applyAny (((recvSession pk u).src pk.src).held.length + 1) pk.src (recvSession pk u)))⟩)

/-- Responses and signal answers reach their request, and collective chunks their collective (R191, R347, R164, R328, R333, R353). -/
def Obligations.ResponsePacketsComplete : Prop :=
  (∀ (p : List Instr) (b : Blk) (n : Nat) (pk : Pkt) (u : Blk),
    pk.typ = 0x10 →
    dataArrives n pk b u →
    exec (.remoteWriteAck n pk) ⟨p, b⟩ = .next ⟨p, afterPkt (reorderFull b) (applyResp pk (oweCredit n pk u))⟩) ∧
  (∀ (p : List Instr) (b : Blk) (n : Nat) (pk : Pkt) (u : Blk),
    pk.typ = 0x11 →
    dataArrives n pk b u →
    exec (.responseReceive n pk) ⟨p, b⟩ = .next ⟨p, afterPkt (reorderFull b) (applyResp pk (oweCredit n pk u))⟩) ∧
  (∀ (p : List Instr) (b : Blk) (n : Nat) (pk : Pkt) (u : Blk),
    pk.typ = 0x12 →
    dataArrives n pk b u →
    exec (.responseReceive n pk) ⟨p, b⟩ = .next ⟨p, afterPkt (reorderFull b) (applyResp pk (oweCredit n pk u))⟩) ∧
  (∀ (p : List Instr) (b : Blk) (n : Nat) (pk : Pkt) (u : Blk),
    pk.typ = 0x13 →
    dataArrives n pk b u →
    exec (.fackReceive n pk) ⟨p, b⟩ = .next ⟨p, afterPkt (reorderFull b) (sendWaiting (applyFack pk (oweCredit n pk u)))⟩) ∧
  (∀ (p : List Instr) (b : Blk) (n : Nat) (pk : Pkt) (u : Blk),
    pk.typ = 0x20 →
    bit (field pk.spec 0xF 1) 6 = false →
    dataArrives n pk b u →
    exec (.collChunkReceive n pk) ⟨p, b⟩ = .next ⟨p, afterPkt (reorderFull b) (recvChunk n pk (leaveB1 u))⟩) ∧
  (∀ (p : List Instr) (b : Blk) (n : Nat) (pk : Pkt) (u : Blk),
    pk.typ = 0x20 →
    bit (field pk.spec 0xF 1) 6 = true →
    dataArrives n pk b u →
    exec (.collRreqReceive n pk) ⟨p, b⟩ = .next ⟨p, afterPkt (reorderFull b) (answerRreq pk (oweCredit n pk (leaveB1 u)))⟩) ∧
  (∀ (p : List Instr) (b : Blk) (n : Nat),
    linkOn b →
    exec (.txnGapTimeout n) ⟨p, b⟩ = .next ⟨p, settle (skipGap applyAny n b)⟩)

/-- Control packets, codewords, markers and key checks act on their port (R368, R349, R343, R339, R363). -/
def Obligations.LinkPacketsComplete : Prop :=
  (∀ (p : List Instr) (b : Blk) (n : Nat) (pk : Pkt) (u : Blk),
    pk.typ = 0x30 →
    controlArrives n pk b u →
    exec (.kiteReceive n pk) ⟨p, b⟩ = .next ⟨p, afterPkt (reorderFull b) (recvKite n pk u)⟩) ∧
  (∀ (p : List Instr) (b : Blk) (n : Nat) (pk : Pkt) (u : Blk),
    pk.typ = 0x31 →
    controlArrives n pk b u →
    portActive u n = true →
    exec (.creditReceive n pk) ⟨p, b⟩ = .next ⟨p, afterPkt (reorderFull b) (recvCredit n pk u)⟩) ∧
  (∀ (p : List Instr) (b : Blk) (n : Nat) (pk : Pkt) (u : Blk),
    pk.typ = 0x32 →
    controlArrives n pk b u →
    exec (.lackReceive n pk) ⟨p, b⟩ = .next ⟨p, afterPkt (reorderFull b) (recvLack n (field pk.spec 0 2 % 4096) u)⟩) ∧
  (∀ (p : List Instr) (b : Blk) (n : Nat) (pk : Pkt) (u : Blk),
    pk.typ = 0x33 →
    controlArrives n pk b u →
    exec (.retryReceive n pk) ⟨p, b⟩ = .next ⟨p, afterPkt (reorderFull b) (recvRetry n (field pk.spec 0 2 % 4096) u)⟩) ∧
  (∀ (p : List Instr) (b : Blk) (n : Nat) (pk : Pkt) (u : Blk),
    pk.typ = 0x34 →
    controlArrives n pk b u →
    exec (.laneReceive n pk) ⟨p, b⟩ = .next ⟨p, afterPkt (reorderFull b) (recvLane n (BitVec.ofNat 8 (field pk.spec 0 1)) u)⟩) ∧
  (∀ (p : List Instr) (b : Blk) (n : Nat) (cw : Codeword),
    linkOn b →
    kitePort (b.port n) = true →
    cw.badSymbols ≤ 15 →
    cw.marker = none →
    cw.seq = (b.port n).rxSeq →
    exec (.codewordReceive n cw) ⟨p, b⟩ = .next ⟨p, takeCodeword n cw (b.updPort n fun q => { q with corrected := q.corrected.add cw.badSymbols })⟩) ∧
  (∀ (p : List Instr) (b : Blk) (n : Nat) (cw : Codeword) (mk : Marker),
    linkOn b →
    kitePort (b.port n) = true →
    cw.badSymbols ≤ 15 →
    cw.marker = some mk →
    exec (.codewordReceive n cw) ⟨p, b⟩ = .next ⟨p, takeMarker n mk (b.updPort n fun q => { q with corrected := q.corrected.add cw.badSymbols })⟩) ∧
  (∀ (p : List Instr) (b : Blk) (n : Nat) (cipher tag : Bytes),
    linkOn b →
    (b.port n).state = .key →
    keychkPasses b n cipher tag = true →
    exec (.keychkReceive n cipher tag) ⟨p, b⟩ = .next ⟨p, b.updPort n fun q => { q with state := .measure, rxCtr := q.rxCtr + 1 }⟩) ∧
  (∀ (p : List Instr) (b : Blk) (n : Nat) (cipher tag : Bytes),
    linkOn b →
    (b.port n).state = .key →
    keychkPasses b n cipher tag = false →
    exec (.keychkReceive n cipher tag) ⟨p, b⟩ = .next ⟨p, absorb (downPort n 5 b)⟩)

/-- Runs get a Marionette, start, run and commit their steps, roll back, time out and end (R270, R271, R272, R283, R275, R286, R288, R92). -/
def Obligations.RunEventsComplete : Prop :=
  (∀ (p : List Instr) (b : Blk) (n : Nat) (r : Run) (k sl : Nat),
    unitOn pgMAR b →
    assignNext b = some (n, r) →
    r.mar = none →
    freeMarionette b = some k →
    freeRunSlot b = some sl →
    exec .marionetteAssign ⟨p, b⟩ = .next ⟨p, settle (loadProgram n k sl r (b.updRun n fun x => { x with mar := some k, slot := some sl }))⟩) ∧
  (∀ (p : List Instr) (b : Blk) (n : Nat) (r : Run) (a : Nat),
    unitOn pgMAR b →
    b.mar.runs.get? n = some r →
    r.planWaitFt = some a →
    isLead b r = false →
    (feedPlan r.heldPlans r).planDone = false →
    a + r.timeout ≤ b.ft →
    exec (.planTimeout n) ⟨p, b⟩ = .next ⟨p, settle (closeRun n 5 (fun _ => ⟨0x14, 6, leadChip b r⟩) b)⟩) ∧
  (∀ (p : List Instr) (b : Blk) (n k : Nat) (r x : Run),
    unitOn pgMAR b →
    b.mar.runs.get? n = some r →
    x = feedPlan r.heldPlans r →
    isLead b x = false →
    x.planDone = true →
    ((x.plan.any fun c => c.seqId == k && !c.depart) = true) →
    ((x.waiting.all fun w => w.seqId != k) = true) →
    x.planRecv + x.timeout ≤ b.ft →
    exec (.admittedJoinTimeout n k) ⟨p, b⟩ = .next ⟨p, settle (failRun n ⟨0x12, 0, 0⟩ b)⟩) ∧
  (∀ (p : List Instr) (b : Blk) (n : Nat) (r x : Run) (u : Blk),
    unitOn pgMAR b →
    b.mar.runs.get? n = some r →
    r.phase = .planned →
    r.startFt ≤ b.ft →
    runIdle b r = true →
    (r.steps = 0 ∨ r.committed < r.steps) →
    x = { r with phase := .running, startedOps := 1, doneOps := [], liveOps := [], staged := [], attempt := 0, planWaitFt := none } →
    (u = runWrite x (batchDesc ((dropOldColls n r b).updRun n fun _ => x) x) (batchBytes ((dropOldColls n r b).updRun n fun _ => x) x) ((dropOldColls n r b).updRun n fun _ => x)) →
    exec (.stepStart n) ⟨p, b⟩ = .next ⟨p, settle (notePlanWait n (runWrite x (journalAt x + 0x2100) ((x.rows.map fun i => leBytes 2 i).flatten) (writeJournal x 0 u)))⟩) ∧
  (∀ (p : List Instr) (b : Blk) (n : Nat) (r : Run) (o : Bytes),
    unitOn pgMAR b →
    b.mar.runs.get? n = some r →
    r.program[r.startedOps]? = some o →
    r.phase = .running →
    1 ≤ r.startedOps →
    runIdle b r = true →
    r.opFail = [] →
    opReady b n r r.startedOps o = true →
    exec (.operationStart n) ⟨p, b⟩ = .next ⟨p, settle (startOp n r.startedOps r o (holdMar n r b))⟩) ∧
  (∀ (p : List Instr) (b : Blk) (n k : Nat) (r : Run) (a : Result),
    unitOn pgMAR b →
    b.mar.runs.get? n = some r →
    r.phase = .running →
    r.liveOps.contains k = true →
    r.opFail = [] →
    opOver b n k r (r.program.getD k []) = some a →
    a.status = 0 →
    exec (.operationComplete n k) ⟨p, b⟩ = .next ⟨p, settle (completeOp n k r (r.program.getD k []) b)⟩) ∧
  (∀ (p : List Instr) (b : Blk) (n : Nat) (r : Run),
    unitOn pgMAR b →
    b.mar.runs.get? n = some r →
    r.phase = .running →
    stepDone r = true →
    r.opFail = [] →
    (((runSeqs b n).all fun e => !readPending b e.2.item) = true) →
    exec (.stepCommit n) ⟨p, b⟩ = .next ⟨p, settle (commitStep n b)⟩) ∧
  (∀ (p : List Instr) (b : Blk) (n k : Nat) (fault : StepFault) (r : Run),
    unitOn pgMAR b →
    b.mar.runs.get? n = some r →
    r.phase = .running →
    1 ≤ k →
    k < r.startedOps →
    stepFaultReplayable fault = true →
    nokeepAt b n k r = false →
    exec (.stepRollback n k fault) ⟨p, b⟩ = .next ⟨p, settle (rollback n k (stepFaultResult fault) b)⟩) ∧
  (∀ (p : List Instr) (b : Blk) (n k : Nat) (r : Run) (a a2 a3 : Nat),
    unitOn pgMAR b →
    b.mar.runs.get? n = some r →
    r.phase = .running →
    1 ≤ k →
    k < r.startedOps →
    exec (.stepRollback n k (.final a a2 a3)) ⟨p, b⟩ = .next ⟨p, settle (failRun n ⟨a, a2, a3⟩ b)⟩) ∧
  (∀ (p : List Instr) (b : Blk) (n : Nat),
    unitOn pgMAR b →
    n < 16 →
    b.mar.up.getLsbD n = true →
    exec (.marionetteFailure n) ⟨p, b⟩ = .next ⟨p, settle (absorb (marDown n b))⟩) ∧
  (∀ (p : List Instr) (b : Blk) (n : Nat) (r : Run),
    unitOn pgMAR b →
    b.mar.runs.get? n = some r →
    runOver b n r = true →
    exec (.runEnd n) ⟨p, b⟩ = .next ⟨p, settle (closeRun n 4 (fun r => ⟨0, 1, r.committed⟩) b)⟩)

/-- A port's states, lanes, markers and acknowledgements move on (R339, R342, R343, R359, R371, R366, R372, R374). -/
def Obligations.PortEventsComplete : Prop :=
  (∀ (p : List Instr) (b : Blk) (n k : Nat),
    linkOn b →
    portActive b n = true →
    k < 8 →
    (laneMap (b.port n)).getLsbD k = true →
    exec (.laneRemove n k) ⟨p, b⟩ = .next ⟨p, absorb (keepLanes n (~~~(1#8 <<< k)) b)⟩) ∧
  (∀ (p : List Instr) (b : Blk) (n : Nat),
    linkOn b →
    portActive b n = true →
    exec (.markersMissed n) ⟨p, b⟩ = .next ⟨p, (leaveService n .align b).updPort n freshLink⟩) ∧
  (∀ (p : List Instr) (b : Blk) (n : Nat),
    linkOn b →
    portActive b n = true →
    0 < (b.port n).lackCount →
    ((b.port n).lackFt + 200 ≤ b.ft ∨ 64 ≤ (b.port n).lackCount) →
    exec (.lackSendTimer n) ⟨p, b⟩ = .next ⟨p, sendLack n b⟩) ∧
  (∀ (p : List Instr) (b : Blk) (n k : Nat),
    linkOn b →
    n < 32 →
    2 ≤ k →
    k ≤ 9 →
    (b.port n).state ≠ .off →
    (b.port n).state ≠ .down →
    exec (.portDown n k) ⟨p, b⟩ = .next ⟨p, absorb (downPort n k b)⟩) ∧
  (∀ (p : List Instr) (b : Blk) (n : Nat),
    linkOn b →
    (b.port n).state = .down →
    portEnabled b n = true →
    (b.port n).downFt + 10000000 ≤ b.ft →
    exec (.portRetryTimer n) ⟨p, b⟩ = .next ⟨p, startCal n b⟩) ∧
  (∀ (p : List Instr) (b : Blk) (n : Nat),
    linkOn b →
    (b.port n).state = .cal →
    portEnabled b n = true →
    exec (.calDone n true) ⟨p, b⟩ = .next ⟨p, (b.updPort n fun q => { q with calibrated := true }).updPort n fun q => { q with state := .train }⟩) ∧
  (∀ (p : List Instr) (b : Blk) (n : Nat),
    linkOn b →
    (b.port n).state = .cal →
    exec (.calDone n false) ⟨p, b⟩ = .next ⟨p, downPort n 8 b⟩) ∧
  (∀ (p : List Instr) (b : Blk) (n : Nat) (lanes : Lanes),
    linkOn b →
    (b.port n).state = .train →
    4 ≤ laneCount lanes →
    exec (.trainDone n lanes) ⟨p, b⟩ = .next ⟨p, b.updPort n fun q => { q with state := .align, lanes := lanes }⟩) ∧
  (∀ (p : List Instr) (b : Blk) (n chip k : Nat),
    linkOn b →
    (b.port n).state = .align →
    chip ≠ b.chip →
    exec (.alignDone n true chip k) ⟨p, b⟩ = .next ⟨p, sendCtl n 0x35 (List.replicate 16 0) (List.replicate 16 0) (b.updPort n fun q => { q with state := .key, peerChip := chip % 1024, peerPort := k % 32 })⟩) ∧
  (∀ (p : List Instr) (b : Blk) (n : Nat) (delays : Nats),
    linkOn b →
    (b.port n).state = .measure →
    delays.length = 64 →
    portEnabled b n = true →
    exec (.measureDone n delays) ⟨p, b⟩ = .next ⟨p, settle (pumpAll (pumpSendq ((b.updPort n fun q => { q with delay := median delays % 65536 }).updPort n fun q => { q with state := .active, lackFt := b.ft, draining := false, offFt := b.ft })))⟩) ∧
  (∀ (p : List Instr) (b : Blk) (n : Nat) (delays : Nats),
    linkOn b →
    portActive b n = true →
    delays.length = 16 →
    exec (.measureDone n delays) ⟨p, b⟩ = .next ⟨p, b.updPort n fun q => { q with delay := median delays % 65536 }⟩) ∧
  (∀ (p : List Instr) (b : Blk) (n : Nat),
    linkOn b →
    (b.port n).state = .active →
    (b.port n).draining = true →
    ((b.port n).replay = [] ∨ (b.port n).offFt + 10000 ≤ b.ft) →
    portEnabled b n = false →
    (portEnabled (portEvent n 1 ((portOff n (leaveService n .off b)).updPort n fun q => { q with downCause := 1 })) n = false) →
    exec (.portOffDrainEnd n) ⟨p, b⟩ = .next ⟨p, portEvent n 1 ((portOff n (leaveService n .off b)).updPort n fun q => { q with downCause := 1 })⟩) ∧
  (∀ (p : List Instr) (b : Blk) (who : Who) (w : W32) (t : Blk),
    unitTakes who pgLMF b t →
    (t.hdr pgLMF).locked = false →
    exec (.portEnWrite who w) ⟨p, b⟩ = .next ⟨p, (List.range 32).foldl (fun b n => setPortEn n (w.getLsbD n) b) (t.lmfU fun l => { l with portEn := w })⟩) ∧
  (∀ (p : List Instr) (b : Blk) (who : Who) (n : Nat) (w : W32) (t : Blk),
    unitTakes who pgLMF b t →
    n < 32 →
    (t.hdr pgLMF).locked = false →
    portActive t n = true →
    w.getLsbD 0 = true →
    exec (.retrain who n w) ⟨p, b⟩ = .next ⟨p, (leaveService n .train (t.updPort n fun q => { q with dateline := w.getLsbD 1 })).updPort n fun q => { freshLink q with lanes := 0, downCause := 10, draining := false }⟩) ∧
  (∀ (p : List Instr) (b : Blk) (who : Who) (n : Nat) (w : W32) (t : Blk) (x : Route),
    unitTakes who pgLMF b t →
    t.lmf.staged.get? n = some x →
    exec (.routingCommit who n w) ⟨p, b⟩ = .next ⟨p, pumpAll (pumpSendq (t.lmfU fun l => { l with routes := l.routes.set n x, staged := l.staged.del n }))⟩)

/-- Kites leave, holdover begins, key banks switch, and lost transactions reach their requester (R365, R370, R362, R354). -/
def Obligations.TimeAndKeysComplete : Prop :=
  (∀ (p : List Instr) (b : Blk) (n k : Nat),
    linkOn b →
    kitePort (b.port n) = true →
    (b.port n).kiteTx ≠ b.ft / 1000 →
    exec (.kiteSend n k) ⟨p, b⟩ = .next ⟨p, sendCtl n 0x30 (List.replicate 16 0) (kitePayload b (b.port n) k) (b.updPort n fun q => { q with kiteTx := b.ft / 1000 })⟩) ∧
  (∀ (p : List Instr) (b : Blk),
    linkOn b →
    b.lmf.ftState = .locked →
    0 < b.lmf.stratum →
    b.lmf.lastRootKite + 16000 ≤ b.ft →
    exec .holdoverTimeout ⟨p, b⟩ = .next ⟨p, elect (holdover b)⟩) ∧
  (∀ (p : List Instr) (b : Blk) (n : Nat),
    linkOn b →
    portActive b n = true →
    (b.port n).keyTx = true →
    (b.port n).keyRx = true →
    exec (.keySwitch n) ⟨p, b⟩ = .next ⟨p, b.updPort n fun q => { q with keyBank := 1 - q.keyBank, keyTx := false, keyRx := false, txCtr := 0, rxCtr := 0, rekeyed := false }⟩) ∧
  (∀ (p : List Instr) (b : Blk) (n : Nat),
    linkOn b →
    portActive b n = true →
    (b.port n).rekeyed = false →
    exec (.rekeyThreshold n) ⟨p, b⟩ = .next ⟨p, fire 70 noOne (BitVec.ofNat 32 n) (b.updPort n fun q => { q with rekeyed := true })⟩) ∧
  (∀ (p : List Instr) (b : Blk) (n : Nat),
    linkOn b →
    portActive b n = true →
    (b.port n).rekeyed = true →
    exec (.rekeyThreshold n) ⟨p, b⟩ = .next ⟨p, downPort n 5 b⟩) ∧
  (∀ (p : List Instr) (b : Blk) (dest txn : Nat) (rq : Request') (i : Nat),
    unitOn pgLMF b →
    answered b dest txn = some rq →
    rq.limitFt ≤ b.ft →
    rq.why = .fsig i →
    exec (.transactionTimeout dest txn) ⟨p, b⟩ = .next ⟨p, settle (sendWaiting (loseItem i ⟨0x14, 6, dest⟩ (dropRequest dest txn b)))⟩) ∧
  (∀ (p : List Instr) (b : Blk) (dest txn : Nat) (rq : Request'),
    unitOn pgLMF b →
    answered b dest txn = some rq →
    rq.limitFt ≤ b.ft →
    rq.why.isWrite = true →
    exec (.transactionTimeout dest txn) ⟨p, b⟩ = .next ⟨p, settle (lostWrite rq (dropRequest dest txn b))⟩)

/-- A regulator's window opens, its next request issues, levels change, and a CTRL write commits staged budgets (R379, R381, R383, R388). -/
def Obligations.RegulatorsComplete : Prop :=
  (∀ (p : List Instr) (b : Blk) (n : Nat),
    unitOn pgBWR b →
    n < 120 →
    exec (.regulatorWindow n) ⟨p, b⟩ = .next ⟨p, b.updReg n (Regulator.roll b.ft)⟩) ∧
  (∀ (p : List Instr) (b : Blk) (n : Nat) (arrivals : Requests) (u : Blk) (i : Nat) (wt : Waiting),
    unitOn pgBWR b →
    n < 120 →
    (u = b.updReg n (fun g => notePauses b { g.roll b.ft with waiting := (g.roll b.ft).waiting ++ arrivals.map (arriveReq b.ft) })) →
    (serviceOrder (u.reg n)).find? (fun e => isEligible u (u.reg n) e.2) = some (i, wt) →
    exec (.regulatorIssue n arrivals) ⟨p, b⟩ = .next ⟨p, issueReq n i wt u⟩) ∧
  (∀ (p : List Instr) (b : Blk) (n level : Nat),
    unitOn pgBWR b →
    n < 16 →
    ctrlLevel b (some n) = 0 →
    level % 4 = 1 →
    exec (.feedbackLevelChange n level) ⟨p, b⟩ = .next ⟨p, b.bwrU fun x => { x with levels := (x.levels &&& ~~~(3#32 <<< (2 * n))) ||| (1#32 <<< (2 * n)), ambers := x.ambers.bump }⟩) ∧
  (∀ (p : List Instr) (b : Blk) (n level : Nat),
    unitOn pgBWR b →
    n < 16 →
    ctrlLevel b (some n) = 1 →
    level % 4 = 2 →
    exec (.feedbackLevelChange n level) ⟨p, b⟩ = .next ⟨p, fire 67 noOne (BitVec.ofNat 32 n) (b.bwrU fun x => { x with levels := (x.levels &&& ~~~(3#32 <<< (2 * n))) ||| (2#32 <<< (2 * n)), reds := x.reds.bump })⟩) ∧
  (∀ (p : List Instr) (b : Blk) (n level : Nat),
    unitOn pgBWR b →
    n < 16 →
    level % 4 = 0 →
    exec (.feedbackLevelChange n level) ⟨p, b⟩ = .next ⟨p, b.bwrU fun x => { x with levels := x.levels &&& ~~~(3#32 <<< (2 * n)) }⟩) ∧
  (∀ (p : List Instr) (b : Blk) (who : Who) (n : Nat) (w : W32) (t : Blk),
    unitTakes who pgBWR b t →
    n < 120 →
    (t.hdr pgBWR).locked = false →
    bits w.toNat 0 4 ≤ 10 →
    exec (.regulatorCtrlCommit who n w) ⟨p, b⟩ = .next ⟨p, t.updReg n fun g => { g.roll t.ft with commit := some (bits w.toNat 0 4, (g.roll t.ft).staged, commitAt t.ft (g.roll t.ft).winK (bits w.toNat 0 4)) }⟩)

/-- Sources fire and are withdrawn and configured; a Pennant ring is enabled, read and written (R394, R397, R395, R393, R398, R392, R399, R401). -/
def Obligations.SourcesComplete : Prop :=
  (∀ (p : List Instr) (b : Blk) (n : Nat) (lbool : Bool),
    n < 64 →
    b.pwr.supplies = true →
    b.pwr.pstate < 2 →
    frozenUnit b pgEVC = false →
    b.evc.mode = 0 →
    b.evc.lines.getLsbD n = (b.source n).activeLow →
    lbool = !(b.source n).activeLow →
    exec (.wiredLineChange n lbool) ⟨p, b⟩ = .next ⟨p, fire n noOne 0 (b.evcU fun v => { v with lines := if lbool then v.lines ||| (1#64 <<< n) else v.lines &&& ~~~(1#64 <<< n) })⟩) ∧
  (∀ (p : List Instr) (b : Blk) (who : Who) (page : Nat) (bytes : Bytes) (t : Blk) (n : Nat) (u : Blk),
    pageTakes who (pgView page) page n b t →
    portWriter t who n = true →
    (bytes.length = 4 ∨ bytes.length = 8) →
    pendingFire n (portCtx who) (field bytes 0 4 % 8192) (BitVec.ofNat 32 (field bytes 4 4)) t = some u →
    exec (.pendingWrite who page 0x310 bytes) ⟨p, b⟩ = .next ⟨p, u⟩) ∧
  (∀ (p : List Instr) (b : Blk) (who : Who) (w : W32) (t : Blk),
    unitTakes who pgEVC b t →
    bits w.toNat 0 13 ≤ 8175 →
    t.evc.mode ≠ 0 →
    exec (.evcDoorbell who w) ⟨p, b⟩ = .next ⟨p, fire (bits w.toNat 0 13) noOne 0 t⟩) ∧
  (∀ (p : List Instr) (b : Blk) (who : Who) (w : W32) (t : Blk),
    unitTakes who pgEVC b t →
    (bits w.toNat 0 2 = 0 ∨ bits w.toNat 0 2 = 2) →
    exec (.evcModeWrite who w) ⟨p, b⟩ = .next ⟨p, t.evcU fun v => { v with mode := bits w.toNat 0 2 }⟩) ∧
  (∀ (p : List Instr) (b : Blk) (who : Who) (n : Nat) (w : W32) (t : Blk),
    unitTakes who pgEVC b t →
    exec (.pendSet who n w) ⟨p, b⟩ = .next ⟨p, (wordSources n w).foldl (fun x i => fire i noOne 0 x) t⟩) ∧
  (∀ (p : List Instr) (b : Blk) (who : Who) (n : Nat) (w : W32) (t : Blk),
    unitTakes who pgEVC b t →
    exec (.pendClr who n w) ⟨p, b⟩ = .next ⟨p, (wordSources n w).foldl (fun x i => if (x.source i).pending then (x.updSource i Source'.cleared).evcU fun v => { v with withdrawn := v.withdrawn.bump } else x) t⟩) ∧
  (∀ (p : List Instr) (b : Blk) (who : Who) (w : W32) (t : Blk),
    unitTakes who pgEVC b t →
    (t.hdr pgEVC).locked = false →
    t.evc.srcSel ≤ 8175 →
    (t.source t.evc.srcSel).enabled = false →
    (t.source t.evc.srcSel).pending = false →
    exec (.sourceConfigWrite who w) ⟨p, b⟩ = .next ⟨p, t.updSource t.evc.srcSel fun _ => configured t.evc.srcSel w (t.source t.evc.srcSel)⟩) ∧
  (∀ (p : List Instr) (b : Blk) (who : Who) (page : Nat) (w : W32) (t : Blk) (n : Nat),
    viewTakes who page n b t →
    (t.view n).pnEn = false →
    bits w.toNat 0 4 = 4 →
    bit w.toNat 4 = true →
    pnBaseOk (t.view n).pnBase 4 = true →
    exec (.pnEnWrite who page w) ⟨p, b⟩ = .next ⟨p, (t.updView n fun v => { v with pnLog2 := 4, pnEn := true, pnVector := bits w.toNat 16 8, pnHead := 0, pnTail := 0, pnPhase := true }).evcU fun e => { e with shadow := e.shadow.filter fun x => x.slice != n }⟩) ∧
  (∀ (p : List Instr) (b : Blk) (who : Who) (page : Nat) (w : W32) (t : Blk) (n : Nat),
    viewTakes who page n b t →
    bits w.toNat 0 10 < (t.view n).pnSize →
    (bits w.toNat 0 10 + (t.view n).pnSize - (t.view n).pnHead) % (t.view n).pnSize ≤ ((t.view n).pnTail + (t.view n).pnSize - (t.view n).pnHead) % (t.view n).pnSize →
    exec (.pnHeadWrite who page w) ⟨p, b⟩ = .next ⟨p, (t.evcU fun e => { e with shadow := e.shadow.filter fun x => !(x.slice == n && inSpan (t.view n).pnSize (t.view n).pnHead (bits w.toNat 0 10) x.slot) }).updView n fun v => { v with pnHead := bits w.toNat 0 10 }⟩) ∧
  (∀ (p : List Instr) (b : Blk) (n i : Nat) (src : Source'),
    unitOn pgEVC b →
    nextPennant b = some n →
    owedRecord b n = none →
    (competing b n).head? = some (i, src) →
    (needsShadow src && shadowFull b) = false →
    exec .pennantRecordIssue ⟨p, b⟩ = .next ⟨p, takeWinner n i src (b.evcU fun e => { e with lastSlice := n })⟩)

/-- Monitors and fault lines name their culprit; RST_CMD and the management processor start each recovery (R416, R419, R421, R422, R423, R424, R430). -/
def Obligations.HangsAndRungsComplete : Prop :=
  (∀ (p : List Instr) (b : Blk) (mon : Monitor) (x : Hang),
    unitOn pgRCV b →
    hangOf b mon = some x →
    b.rcv.fired.contains x.key = false →
    hangMuted b x = false →
    exec (.monitorFire mon) ⟨p, b⟩ = .next ⟨p, settle (actOnHang x (nameCulprit x b))⟩) ∧
  (∀ (p : List Instr) (b : Blk) (k : Nat) (u : Blk) (x : Hang),
    k < 192 →
    unitsRun b = true →
    (b.core k).faultLine = false →
    (u = b.updCore k (fun y => { y with faultLine := true })) →
    (x = { heldHang b 6 0x20 k pgSCH ((launchesOn (b.core k)).filterMap fun l => (b.sch.launches.get? l).bind fun y => launchItem b y.owner) with ctx := ((b.core k).ctx).getD noOne, key := (6, k, b.rcv.hangs.val.toNat) }) →
    hangMuted u x = false →
    exec (.coreFaultLine k true) ⟨p, b⟩ = .next ⟨p, settle (actOnHang x (nameCulprit x u))⟩) ∧
  (∀ (p : List Instr) (b : Blk) (who : Who) (w : W32) (t : Blk),
    unitTakes who pgRCV b t →
    bits w.toNat 0 4 = 0 →
    t.rcv.busy = none →
    rungRefused t 0 (bits w.toNat 16 16) = none →
    exec (.contextReset (.cmd who w)) ⟨p, b⟩ = .next ⟨p, settle (beginRung 0 (bits w.toNat 16 16) t)⟩) ∧
  (∀ (p : List Instr) (b : Blk) (who : Who) (w : W32) (t : Blk),
    unitTakes who pgRCV b t →
    bits w.toNat 0 4 = 1 →
    t.rcv.busy = none →
    rungRefused t 1 (bits w.toNat 16 16) = none →
    exec (.engineReset (.cmd who w)) ⟨p, b⟩ = .next ⟨p, settle (beginRung 1 (bits w.toNat 16 16) t)⟩) ∧
  (∀ (p : List Instr) (b : Blk) (who : Who) (w : W32) (t : Blk),
    unitTakes who pgRCV b t →
    bits w.toNat 0 4 = 2 →
    t.rcv.busy = none →
    rungRefused t 2 (bits w.toNat 16 16) = none →
    exec (.partitionReset (.cmd who w)) ⟨p, b⟩ = .next ⟨p, settle (beginRung 2 (bits w.toNat 16 16) t)⟩) ∧
  (∀ (p : List Instr) (b : Blk) (who : Who) (w : W32) (t : Blk),
    unitTakes who pgRCV b t →
    bits w.toNat 0 4 = 3 →
    exec (.blockReset (.cmd who w)) ⟨p, b⟩ = .next ⟨p, beginBlockReset t⟩) ∧
  (∀ (p : List Instr) (b : Blk),
    b.pwr.pstate < 2 →
    b.pwr.supplies = true →
    exec (.blockReset .mp) ⟨p, b⟩ = .next ⟨p, beginBlockReset b⟩) ∧
  (∀ (p : List Instr) (b : Blk) (who : Who) (w : W32) (t : Blk),
    unitTakes who pgRCV b t →
    bits w.toNat 0 4 = 4 →
    t.rcv.busy = none →
    t.rcv.dumpBase ≠ 0 →
    t.rcv.dump = none →
    exec (.dump (.cmd who w)) ⟨p, b⟩ = .next ⟨p, t.rcvU fun r => { r with result := 0, dump := some { reason := 0, cause := 0, culprit := noOne, startFt := t.ft, discards := t.rcv.brDiscards.val.toNat } }⟩)

/-- A dump's missing words are marked, its end writes the rest, and a self-test's end returns its engine (R431, R433, R422). -/
def Obligations.DumpAndTestsComplete : Prop :=
  (∀ (p : List Instr) (b : Blk) (n k : Nat),
    n < 18 →
    k < 8192 →
    b.pwr.pstate < 2 →
    b.pwr.supplies = true →
    exec (.dumpReadTimeout n k) ⟨p, b⟩ = .next ⟨p, dumpTimeout n k b⟩) ∧
  (∀ (p : List Instr) (b : Blk) (x : Dump),
    b.rcv.dump = some x →
    x.reason ≠ 4 →
    b.pwr.pstate < 2 →
    b.pwr.supplies = true →
    exec .dumpComplete ⟨p, b⟩ = .next ⟨p, finishDump b⟩) ∧
  (∀ (p : List Instr) (b : Blk) (x : Dump),
    b.rcv.dump = some x →
    x.reason = 4 →
    b.pwr.pstate < 2 →
    b.pwr.supplies = true →
    b.rcv.blockPhase = 1 →
    exec .dumpComplete ⟨p, b⟩ = .next ⟨p, stepBlock (blockLose (finishDump b))⟩) ∧
  (∀ (p : List Instr) (b : Blk) (pass : Bool) (n : Nat),
    b.pwr.pstate < 2 →
    b.pwr.supplies = true →
    n < 32 →
    b.tre.up.getLsbD n = false →
    exec (.selfTestDone (.tre n) pass) ⟨p, b⟩ = .next ⟨p, settle (testEnds (0x2400 + n) (b.treU fun x => { x with up := withBit x.up n pass }))⟩) ∧
  (∀ (p : List Instr) (b : Blk) (pass : Bool) (n : Nat),
    b.pwr.pstate < 2 →
    b.pwr.supplies = true →
    n < 16 →
    b.mar.up.getLsbD n = false →
    exec (.selfTestDone (.mar n) pass) ⟨p, b⟩ = .next ⟨p, settle (testEnds (0x2100 + n) (b.marU fun x => { x with up := withBit x.up n pass }))⟩) ∧
  (∀ (p : List Instr) (b : Blk) (pass : Bool) (n : Nat),
    b.pwr.pstate < 2 →
    b.pwr.supplies = true →
    n < 4 →
    b.sch.portsUp.getLsbD n = false →
    exec (.selfTestDone (.port n) pass) ⟨p, b⟩ = .next ⟨p, settle (testEnds (0x2000 + n) (b.schU fun x => { x with portsUp := withBit x.portsUp n pass }))⟩) ∧
  (∀ (p : List Instr) (b : Blk) (pass : Bool),
    b.pwr.pstate < 2 →
    b.pwr.supplies = true →
    b.rcv.blockPhase = 3 →
    exec (.selfTestDone .block pass) ⟨p, b⟩ = .next ⟨p, settle (endBlockReset pass b)⟩) ∧
  (∀ (p : List Instr) (b : Blk),
    b.pwr.pstate < 2 →
    b.pwr.supplies = true →
    b.rcv.blockPhase = 0 →
    b.pwr.starting = true →
    b.pwr.selfTestDone = false →
    exec (.selfTestDone .block true) ⟨p, b⟩ = .next ⟨p, b.pwrU fun x => { x with selfTestDone := true }⟩)

/-- Delivery records are taken and answered; debug levels, challenges, alarms and level-1 grants change (R436, R440, R362, R448, R442, R443, R449). -/
def Obligations.SecurityCommandsComplete : Prop :=
  (∀ (p : List Instr) (b : Blk) (rec : Bytes),
    recordTakes 1 rec b →
    bits (field rec 8 4) 0 2 ≠ 3 →
    field rec 8 4 < 2 ^ 12 →
    field rec 12 4 < 2 ^ 20 →
    b.pwr.startKind ≠ 1 →
    exec (.identity rec) ⟨p, b⟩ = .next ⟨p, answerRecord 0 (takeIdentity (bits (field rec 8 4) 0 2) (bits (field rec 8 4) 2 10) (field rec 12 4) b)⟩) ∧
  (∀ (p : List Instr) (b : Blk) (rec : Bytes) (x : SliceKey),
    recordTakes 2 rec b →
    field rec 2 2 < 4096 →
    (b.slices.get? (field rec 2 2)).all (·.draining) = false →
    b.sec.sliceKeys.get? (field rec 2 2) = some x →
    x.gen < field rec 4 1 →
    exec (.sliceKey rec) ⟨p, b⟩ = .next ⟨p, answerRecord 0 (withHolds (fun y => endNiMgr (field rec 2 2) (y.secU fun s => { s with sliceKeys := s.sliceKeys.set (field rec 2 2) { x with key := some ((rec.drop 0x20).take 32), gen := field rec 4 1, bound := true, holdKey := false } })) b)⟩) ∧
  (∀ (p : List Instr) (b : Blk) (rec : Bytes),
    recordTakes 3 rec b →
    field rec 2 2 < 32 →
    field rec 1 1 = 0 →
    portActive b (field rec 2 2) = false →
    b.sec.linkKeys.get? (field rec 2 2) = none →
    (b.port (field rec 2 2)).keyBank = 0 →
    exec (.linkKey rec) ⟨p, b⟩ = .next ⟨p, answerRecord 0 ((b.secU fun s => { s with linkKeys := s.linkKeys.set (field rec 2 2) { bank0 := some { key := (rec.drop 0x20).take 32, salt := field rec 8 4 }, gen := field rec 4 1 } }).updPort (field rec 2 2) fun q => { q with keyBank := 0 })⟩) ∧
  (∀ (p : List Instr) (b : Blk) (rec : Bytes),
    recordTakes 4 rec b →
    field rec 2 2 < 4096 →
    exec (.erase rec) ⟨p, b⟩ = .next ⟨p, answerRecord 0 (withHolds (eraseSlice (field rec 2 2)) b)⟩) ∧
  (∀ (p : List Instr) (b : Blk) (rec : Bytes),
    recordTakes 5 rec b →
    (field rec 5 1 = 2 ∨ field rec 5 1 = 3) →
    b.sec.lifecycle ≠ 1 →
    challengeMet b rec (some (field rec 5 1)) = true →
    exec (.dbgGrant rec) ⟨p, b⟩ = .next ⟨p, answerRecord 0 (withHolds (fun x => (setDebug (field rec 5 1) x).secU fun s => { s with dbgFails := 0, chal := none }) b)⟩) ∧
  (∀ (p : List Instr) (b : Blk) (rec : Bytes),
    recordTakes 6 rec b →
    challengeMet b rec none = true →
    (b.sec.dbgFails + 1) % 8 ≠ 0 →
    exec (.dbgDeny rec) ⟨p, b⟩ = .next ⟨p, answerRecord 0 (b.secU fun s => { s with dbgFails := min 255 (b.sec.dbgFails + 1) })⟩) ∧
  (∀ (p : List Instr) (b : Blk) (w : W32) (t : Blk),
    gatePower .debug pgSEC true b = (t, true) →
    bits w.toNat 2 2 = 3 →
    bit w.toNat 4 = false →
    (t.sec.lifecycle = 0 ∨ t.sec.lifecycle = 2) →
    t.sec.lockoutFt = none →
    exec (.dbgReq .debug w) ⟨p, b⟩ = .next ⟨p, { t with free := t.free + 1 }.secU fun s => { s with chal := some (newChallenge t 3), chalWords := (newChallenge t 3).bits }⟩) ∧
  (∀ (p : List Instr) (b : Blk) (w : W32) (t : Blk),
    gatePower .debug pgSEC true b = (t, true) →
    bits w.toNat 2 2 = 2 →
    bit w.toNat 4 = false →
    t.sec.lifecycle = 0 →
    exec (.dbgReq .debug w) ⟨p, b⟩ = .next ⟨p, withHolds (fun x => (setDebug 2 x).secU fun s => { s with chal := none }) t⟩) ∧
  (∀ (p : List Instr) (b : Blk) (who : Who) (w : W32) (t : Blk),
    gatePower who pgSEC true b = (t, true) →
    (isDebug who = true ∨ secureWorld t who = true) →
    bits w.toNat 2 2 = 0 →
    bit w.toNat 4 = true →
    exec (.dbgDrop who w) ⟨p, b⟩ = .next ⟨p, withHolds (fun x => (setDebug 0 x).secU fun s => { s with chal := none }) t⟩) ∧
  (∀ (p : List Instr) (b : Blk) (x : Challenge),
    b.pwr.supplies = true →
    b.sec.chal = some x →
    x.expireFt ≤ b.ft →
    exec (.challengeExpiry none) ⟨p, b⟩ = .next ⟨p, b.secU fun s => { s with chal := none }⟩) ∧
  (∀ (p : List Instr) (b : Blk) (n : Nat) (x : Challenge),
    b.pwr.supplies = true →
    (b.view n).niChal = some x →
    x.expireFt ≤ b.ft →
    exec (.challengeExpiry (some n)) ⟨p, b⟩ = .next ⟨p, b.updView n fun v => { v with niChal := none }⟩) ∧
  (∀ (p : List Instr) (b : Blk) (a : Nat),
    b.pwr.supplies = true →
    b.sec.lockoutFt = some a →
    a ≤ b.ft →
    exec .debugLockoutExpiry ⟨p, b⟩ = .next ⟨p, b.secU fun s => { s with lockoutFt := none }⟩) ∧
  (∀ (p : List Instr) (b : Blk) (n k : Nat),
    n ≤ 10 →
    n ≠ 7 →
    n ≠ 9 →
    b.pwr.supplies = true →
    b.pwr.pstate < 3 →
    b.pwr.armedFt ≤ b.ft →
    exec (.alarmTrip n k) ⟨p, b⟩ = .next ⟨p, tripSensor n k b⟩) ∧
  (∀ (p : List Instr) (b : Blk) (who : Who) (page : Nat) (w : W32) (t : Blk) (n : Nat),
    viewTakes who page n b t →
    ownAccess t who n = true →
    bit w.toNat 2 = false →
    bit w.toNat 3 = false →
    exec (.niSelfWrite who page w) ⟨p, b⟩ = .next ⟨p, t.updView n fun v => { v with niSelf := bit w.toNat 0 }⟩) ∧
  (∀ (p : List Instr) (b : Blk) (who : Who) (page : Nat) (w : W32) (t : Blk) (n : Nat),
    viewTakes who page n b t →
    ownAccess t who n = false →
    isManager t who = true →
    bit w.toNat 2 = true →
    bit w.toNat 3 = false →
    exec (.niMgrReq who page w) ⟨p, b⟩ = .next ⟨p, requestNi n t⟩) ∧
  (∀ (p : List Instr) (b : Blk) (who : Who) (page : Nat) (w : W32) (t : Blk) (n : Nat),
    viewTakes who page n b t →
    ownAccess t who n = false →
    bit w.toNat 2 = false →
    bit w.toNat 3 = true →
    exec (.niMgrDrop who page w) ⟨p, b⟩ = .next ⟨p, endNiMgr n t⟩) ∧
  (∀ (p : List Instr) (b : Blk) (who : Who) (page : Nat) (w : W32) (t : Blk) (n : Nat) (u : Blk) (x : Challenge) (y : SliceKey) (z : Bytes),
    viewTakes who page n b t →
    (u = t.updView n (fun v => { v with niResp := v.niResp.set 3 w })) →
    (u.view n).niChal = some x →
    u.sec.sliceKeys.get? n = some y →
    u.ft < x.expireFt →
    y.key = some z →
    (responseOf z x = (u.view n).niResp.foldr (fun d m => d.toNat + m * 2 ^ 32) 0) →
    exec (.niRespSubmit who page w) ⟨p, b⟩ = .next ⟨p, (u.secU fun s => { s with sliceKeys := s.sliceKeys.set n { y with fails := 0 } }).updView n fun v => { v with niMgr := true, niChal := none }⟩)

/-- B1 is entered and left, ENTER_B2 and ENTER_B3 begin their grace, its end retains or powers off, and a wake follows (R451, R452, R455, R454). -/
def Obligations.PowerStatesComplete : Prop :=
  (∀ (p : List Instr) (b : Blk),
    b.pwr.supplies = true →
    b.pwr.pstate = 0 →
    b.pwr.ready = true →
    b.pwr.graceFt = none →
    0 < b.pwr.idleB1Us →
    blockIdle b = true →
    b.pwr.idleFt + b.pwr.idleB1Us * 1000 ≤ b.ft →
    exec .b1Entry ⟨p, b⟩ = .next ⟨p, b.pwrU fun x => { x with pstate := 1, b1Entries := x.b1Entries.bump }⟩) ∧
  (∀ (p : List Instr) (b : Blk),
    b.pwr.pstate = 1 →
    exec (.b1Exit .hostTlp) ⟨p, b⟩ = .next ⟨p, { b with pwr := { b.pwr with pstate := 0, idleFt := b.ft } }⟩) ∧
  (∀ (p : List Instr) (b : Blk) (k : Nat),
    b.pwr.pstate = 1 →
    packetWakes k = true →
    exec (.b1Exit (.packet k)) ⟨p, b⟩ = .next ⟨p, { b with pwr := { b.pwr with pstate := 0, idleFt := b.ft } }⟩) ∧
  (∀ (p : List Instr) (b : Blk),
    b.pwr.pstate = 1 →
    exec (.b1Exit .register) ⟨p, b⟩ = .next ⟨p, { b with pwr := { b.pwr with pstate := 0, idleFt := b.ft } }⟩) ∧
  (∀ (p : List Instr) (b : Blk),
    b.pwr.pstate = 1 →
    exec (.b1Exit .fire) ⟨p, b⟩ = .next ⟨p, { b with pwr := { b.pwr with pstate := 0, idleFt := b.ft } }⟩) ∧
  (∀ (p : List Instr) (b : Blk) (who : Who) (w : W32) (t : Blk),
    unitTakes who pgPWR b t →
    bits w.toNat 0 2 = 1 →
    t.pwr.pbusy = false →
    t.pwr.pstate < 2 →
    t.pwr.ready = true →
    refuseBits t = 0 →
    exec (.enterB2 who w) ⟨p, b⟩ = .next ⟨p, t.pwrU fun x => { x with presult := 0, refuse := 0, graceFt := some (t.ft + 10000), toB3 := false }⟩) ∧
  (∀ (p : List Instr) (b : Blk) (who : Who) (w : W32) (t : Blk),
    unitTakes who pgPWR b t →
    bits w.toNat 0 2 = 2 →
    t.pwr.pbusy = false →
    t.pwr.pstate < 2 →
    t.pwr.ready = true →
    refuseBits t = 0 →
    exec (.enterB3 who w) ⟨p, b⟩ = .next ⟨p, t.pwrU fun x => { x with presult := 0, refuse := 0, graceFt := some (t.ft + 10000), toB3 := true }⟩) ∧
  (∀ (p : List Instr) (b : Blk) (a : Nat),
    b.pwr.supplies = true →
    b.pwr.graceFt = some a →
    a ≤ b.ft →
    exec .b2GraceEnd ⟨p, b⟩ = .next ⟨p, endGrace b⟩) ∧
  (∀ (p : List Instr) (b : Blk),
    b.pwr.pstate = 2 →
    exec (.wake .hostTlp false) ⟨p, b⟩ = .next ⟨p, elect (bringUp b.lmf.portEn (retestEngines (((b.pwrU fun x => { x with pstate := 0, starting := true, ready := false, selfTestDone := false, startKind := 2, coldStart := false, wakeCause := 0, wakePending := some (1, 0) }).xltU fun x => { x with epoch := x.epoch + 1 }).lmfU fun l => { l with ftState := .free, stratum := 15, followPrio := 255, slew := 0, txn := [], joined := false, joinFt := b.ft })))⟩) ∧
  (∀ (p : List Instr) (b : Blk),
    b.pwr.pstate = 2 →
    exec (.wake .mp false) ⟨p, b⟩ = .next ⟨p, wake 3 0 false b⟩) ∧
  (∀ (p : List Instr) (b : Blk) (n : Nat),
    b.pwr.pstate = 2 →
    b.pwr.wakePending = some (2, n) →
    exec (.wake (.wired n) false) ⟨p, b⟩ = .next ⟨p, wake 2 n false b⟩) ∧
  (∀ (p : List Instr) (b : Blk),
    b.pwr.pstate = 2 →
    b.pwr.wakeAt ≠ 0 →
    b.pwr.wakeAt ≤ b.ft →
    exec (.wake .time false) ⟨p, b⟩ = .next ⟨p, wake 4 0 false b⟩) ∧
  (∀ (p : List Instr) (b : Blk) (w : W32),
    b.pwr.pstate = 2 →
    b.pwr.supplies = true →
    bits w.toNat 0 2 = 3 →
    exec (.wake (.pcmd .debug w) false) ⟨p, b⟩ = .next ⟨p, wake 5 0 false b⟩)

/-- A loss of supply is B3 at once; valid supplies start the block; START_GO, readiness, seal, chip and power cycle follow (R48, R458, R460, R459, R463, R33, R425). -/
def Obligations.StartsComplete : Prop :=
  (∀ (p : List Instr) (b : Blk),
    b.pwr.supplies = true →
    b.pwr.pstate < 3 →
    exec .coreSupplyLoss ⟨p, b⟩ = .next ⟨p, goB3 b⟩) ∧
  (∀ (p : List Instr) (b : Blk),
    b.pwr.supplies = false →
    b.pwr.retained.sealed' = false →
    exec .suppliesValid ⟨p, b⟩ = .next ⟨p, coldStart { b with ft := 0, pwr := { b.pwr with armedFt := if b.pwr.pstate = 3 then 0 else 10000 } }⟩) ∧
  (∀ (p : List Instr) (b : Blk),
    b.pwr.supplies = false →
    b.pwr.retained.sealed' = true →
    b.pwr.retained.crcOk = true →
    exec .suppliesValid ⟨p, b⟩ = .next ⟨p, warmStart { b with ft := 0, pwr := { b.pwr with armedFt := if b.pwr.pstate = 3 then 0 else 10000 } }⟩) ∧
  (∀ (p : List Instr) (b : Blk) (who : Who) (w : W32) (t : Blk),
    unitTakes who pgPWR b t →
    w.getLsbD 2 = true →
    t.pwr.starting = true →
    t.pwr.coldStart = true →
    exec (.startGo who w) ⟨p, b⟩ = .next ⟨p, t.pwrU fun x => { x with startGo := true }⟩) ∧
  (∀ (p : List Instr) (b : Blk),
    b.pwr.supplies = true →
    b.pwr.starting = true →
    readyNow b = true →
    b.pwr.startKind ≠ 2 →
    exec .readyReport ⟨p, b⟩ = .next ⟨p, b.pwrU fun x => { x with ready := true, readyFt := b.ft, idleFt := b.ft, starting := false }⟩) ∧
  (∀ (p : List Instr) (b : Blk),
    b.pwr.supplies = true →
    b.pwr.starting = true →
    readyNow b = true →
    b.pwr.startKind = 2 →
    exec .readyReport ⟨p, b⟩ = .next ⟨p, endWake (b.pwrU fun x => { x with ready := true, readyFt := b.ft, idleFt := b.ft, starting := false })⟩) ∧
  (∀ (p : List Instr) (b : Blk) (who : Who) (w : W32) (t : Blk),
    unitTakes who pgPWR b t →
    (t.hdr pgPWR).locked = false →
    exec (.rsSealWrite who w) ⟨p, b⟩ = .next ⟨p, t.pwrU fun x => { x with retained := { x.retained with sealed' := w.getLsbD 0 } }⟩) ∧
  (∀ (p : List Instr) (b : Blk) (who : Who) (w : W32) (t : Blk),
    unitTakes who pgGEN b t →
    (t.hdr pgGEN).locked = false →
    (((List.range 32).any fun i => portActive t i) = false) →
    255 ≤ t.lmf.rootPrio →
    exec (.genChipWrite who w) ⟨p, b⟩ = .next ⟨p, { t with chip := bits w.toNat 0 10, pwr := { t.pwr with retained := { t.pwr.retained with chip := bits w.toNat 0 10 } } }⟩) ∧
  (∀ (p : List Instr) (b : Blk),
    exec .powerCycle ⟨p, b⟩ = .next ⟨p, { free := b.free, out := b.out, mem := b.mem.filter fun c => decide (2 ^ 47 ≤ c.1) }⟩)

/-- A trigger, ARM, MARK, the buffer's head and mode, and a slice's ring complete (R473, R474, R478, R472, R479). -/
def Obligations.TraceComplete : Prop :=
  (∀ (p : List Instr) (b : Blk) (who : Who) (w : W32) (t : Blk),
    unitTakes who pgTRC b t →
    w.getLsbD 1 = true →
    w.getLsbD 0 = false →
    exec (.trgNow who w) ⟨p, b⟩ = .next ⟨p, traceTrigger 0 t⟩) ∧
  (∀ (p : List Instr) (b : Blk) (who : Who) (w : W32) (t : Blk),
    unitTakes who pgTRC b t →
    w.getLsbD 0 = true →
    w.getLsbD 1 = false →
    t.trc.postPhase = false →
    exec (.arm who w) ⟨p, b⟩ = .next ⟨p, t.trcU fun x => { x with frozen := false, postPhase := false, wrapped := false, head := 0, tail := 0, written := 0 }⟩) ∧
  (∀ (p : List Instr) (b : Blk) (who : Who) (w : W32) (t : Blk),
    unitTakes who pgTRC b t →
    exec (.mark who w) ⟨p, b⟩ = .next ⟨p, traceRec 0x1F noOne noOne w.toNat 0 false t⟩) ∧
  (∀ (p : List Instr) (b : Blk) (who : Who) (w : W32) (t : Blk),
    unitTakes who pgTRC b t →
    t.trc.mode ≠ 1 →
    exec (.tbHeadWrite who w) ⟨p, b⟩ = .next ⟨p, t.trcU fun x => { x with head := bits w.toNat 0 20 }⟩) ∧
  (∀ (p : List Instr) (b : Blk) (who : Who) (w : W32) (t : Blk),
    unitTakes who pgTRC b t →
    (t.hdr pgTRC).locked = false →
    (bits w.toNat 0 2 = 0 ∨ t.trc.mode = 0) →
    exec (.tbModeWrite who w) ⟨p, b⟩ = .next ⟨p, t.trcU fun x => { x with mode := bits w.toNat 0 2 }⟩) ∧
  (∀ (p : List Instr) (b : Blk) (who : Who) (page : Nat) (w : W32) (t : Blk) (n : Nat),
    viewTakes who page n b t →
    bits w.toNat 0 16 < (t.view n).stSize →
    (bits w.toNat 0 16 + (t.view n).stSize - (t.view n).stHead % (t.view n).stSize) % (t.view n).stSize ≤ ((t.view n).stTail + (t.view n).stSize - (t.view n).stHead % (t.view n).stSize) % (t.view n).stSize →
    exec (.stHeadWrite who page w) ⟨p, b⟩ = .next ⟨p, settle (settleStGap n (t.updView n fun v => { v with stHead := bits w.toNat 0 16 }))⟩) ∧
  (∀ (p : List Instr) (b : Blk) (who : Who) (page : Nat) (w : W32) (t : Blk) (n : Nat),
    viewTakes who page n b t →
    (t.view n).stEn = false →
    bits w.toNat 0 4 ≤ 10 →
    bit w.toNat 4 = true →
    stPlaced t n (t.view n).stBase (bits w.toNat 0 4) = true →
    exec (.stEnWrite who page w) ⟨p, b⟩ = .next ⟨p, t.updView n fun v => { v with stLog2 := bits w.toNat 0 4, stEn := true, stHead := 0, stTail := 0 }⟩)

/-- Words are read, page headers written, counters cleared and plain fields changed by those a page admits (R491, R476, R488, R489, R484, R486, R213). -/
def Obligations.RegistersComplete : Prop :=
  (∀ (p : List Instr) (b : Blk) (who : Who) (n : Nat) (t : Blk) (k : Nat) (i : PageInfo) (a : Nat),
    isDebug who = false →
    gatePower who (gatePage who n) false b = (t, true) →
    n % 4 = 0 →
    viewAt who n = none →
    pageAt n = some (k, i, a) →
    exec (.latchedPairRead who n 4) ⟨p, b⟩ = .next ⟨p, (fun x : Blk × Nat => readWord x.2 x.1) (readUnit who n k i a t)⟩) ∧
  (∀ (p : List Instr) (b : Blk) (who : Who) (n : Nat) (w : W32) (t : Blk) (k : Nat) (i : PageInfo) (a : Nat),
    viewAt who n = none →
    pageAt n = some (k, i, a) →
    unitTakes who k b t →
    w.getLsbD 31 = true →
    exec (.counterSatClear who n w) ⟨p, b⟩ = .next ⟨p, clearUnit k a t⟩) ∧
  (∀ (p : List Instr) (b : Blk) (who : Who) (n : Nat) (w : W32) (t : Blk) (k : Nat) (i : PageInfo) (a : Nat),
    viewAt who n = none →
    pageAt n = some (k, i, a) →
    unitTakes who k b t →
    w.getLsbD 0 = true →
    exec (.pageLockWrite who n w) ⟨p, b⟩ = .next ⟨p, { t with pages := t.pages.set k { t.hdr k with locked := true } }⟩) ∧
  (∀ (p : List Instr) (b : Blk) (n : Nat) (w : W32) (t : Blk) (k : Nat) (i : PageInfo) (a : Nat),
    pageAt n = some (k, i, a) →
    viewAt .debug n = none →
    gatePower .debug k true b = (t, true) →
    freezeLevel k ≤ t.sec.dbgLevel →
    exec (.pageFreezeWrite .debug n w) ⟨p, b⟩ = .next ⟨p, { t with pages := t.pages.set k { t.hdr k with freeze := w.getLsbD 0 } }⟩) ∧
  (∀ (p : List Instr) (b : Blk) (who : Who) (n : Nat) (w : W32) (t : Blk) (k : Nat) (i : PageInfo) (a : Nat),
    viewAt who n = none →
    pageAt n = some (k, i, a) →
    unitTakes who k b t →
    w.getLsbD 31 = true →
    exec (.pageErrorClear who n w) ⟨p, b⟩ = .next ⟨p, { t with pages := t.pages.set k { t.hdr k with errCode := 0, errFt := 0, err := Ctr.zero } }⟩) ∧
  (∀ (p : List Instr) (b : Blk) (who : Who) (n : Nat) (w hi : W32) (t : Blk) (k : Nat) (i : PageInfo) (a : Nat),
    debugBars who n b = false →
    n % 4 = 0 →
    viewAt who n = none →
    pageAt n = some (k, i, a) →
    0x40 ≤ a →
    k ≠ pgMBX + 1 →
    k ≠ pgMBX + 2 →
    ownLow who k a w .timedOut = none →
    ownHigh who k a w .timedOut = none →
    unitTakes who k b t →
    exec (.registerWrite who n 4 w hi) ⟨p, b⟩ = .next ⟨p, plainUnit k a w (if w.getLsbD 31 then clearUnit k a t else t)⟩) ∧
  (∀ (p : List Instr) (b : Blk) (k n dva size : Nat) (l : Launch) (segs : List Seg),
    unitOn pgXLT b →
    coreRuns b k n = true →
    b.sch.launches.get? n = some l →
    planSpan b l.slice dva size false = .ok segs →
    exec (.coreMemoryRequest k (.load n dva size)) ⟨p, b⟩ = .next ⟨p, settle (segs.foldl (fun x s => coreLoadSeg k n l s x) (touchSegs l.slice segs b))⟩) ∧
  (∀ (p : List Instr) (b : Blk) (k n dva : Nat) (bytes : Bytes) (l : Launch) (segs : List Seg),
    unitOn pgXLT b →
    coreRuns b k n = true →
    b.sch.launches.get? n = some l →
    planSpan b l.slice dva bytes.length true = .ok segs →
    exec (.coreMemoryRequest k (.store n dva bytes)) ⟨p, b⟩ = .next ⟨p, settle (coreStoreSegs k n l segs bytes (touchSegs l.slice segs b))⟩) ∧
  (∀ (p : List Instr) (b : Blk) (k n dva size : Nat) (op : AtomOp) (x y : Nat) (l : Launch) (s : Seg) (segs : List Seg),
    unitOn pgXLT b →
    coreRuns b k n = true →
    b.sch.launches.get? n = some l →
    dva < 2 ^ 56 →
    planSpan b l.slice dva size true = .ok (s :: segs) →
    exec (.coreMemoryRequest k (.atomic n dva size op x y)) ⟨p, b⟩ = .next ⟨p, settle (coreAtomSeg k n l s op size x y (touchSegs l.slice (s :: segs) b))⟩) ∧
  (∀ (p : List Instr) (b : Blk) (k n dva : Nat) (l : Launch),
    unitOn pgXLT b →
    coreRuns b k n = true →
    b.sch.launches.get? n = some l →
    exec (.coreMemoryRequest k (.window n dva)) ⟨p, b⟩ = .next ⟨p, settle (coreWindow k n l dva b)⟩)
end

