-- ==== Sys2Proof/Laws/State.lean ====
section
/-! SUPPORT. What each named update of the block changes and leaves, field by field, so that no proof unfolds a record update; and the laws of
tables. -/

set_option Elab.async false

namespace Sys2Proof.Machine

/-! ## Unit updates -/

@[simp] theorem Blk.xltU_ft (b : Blk) (f : Xlt → Xlt) : (b.xltU f).ft = b.ft := rfl
@[simp] theorem Blk.xltU_free (b : Blk) (f : Xlt → Xlt) : (b.xltU f).free = b.free := rfl
@[simp] theorem Blk.xltU_out (b : Blk) (f : Xlt → Xlt) : (b.xltU f).out = b.out := rfl
@[simp] theorem Blk.xltU_readOut (b : Blk) (f : Xlt → Xlt) : (b.xltU f).readOut = b.readOut := rfl
@[simp] theorem Blk.xltU_mem (b : Blk) (f : Xlt → Xlt) : (b.xltU f).mem = b.mem := rfl
@[simp] theorem Blk.xltU_uncorr (b : Blk) (f : Xlt → Xlt) : (b.xltU f).uncorr = b.uncorr := rfl
@[simp] theorem Blk.xltU_own (b : Blk) (f : Xlt → Xlt) : (b.xltU f).own = b.own := rfl
@[simp] theorem Blk.xltU_pages (b : Blk) (f : Xlt → Xlt) : (b.xltU f).pages = b.pages := rfl
@[simp] theorem Blk.xltU_latches (b : Blk) (f : Xlt → Xlt) : (b.xltU f).latches = b.latches := rfl
@[simp] theorem Blk.xltU_chip (b : Blk) (f : Xlt → Xlt) : (b.xltU f).chip = b.chip := rfl
@[simp] theorem Blk.xltU_pwr (b : Blk) (f : Xlt → Xlt) : (b.xltU f).pwr = b.pwr := rfl
@[simp] theorem Blk.xltU_sec (b : Blk) (f : Xlt → Xlt) : (b.xltU f).sec = b.sec := rfl
@[simp] theorem Blk.xltU_hlu (b : Blk) (f : Xlt → Xlt) : (b.xltU f).hlu = b.hlu := rfl
@[simp] theorem Blk.xltU_qfe (b : Blk) (f : Xlt → Xlt) : (b.xltU f).qfe = b.qfe := rfl
@[simp] theorem Blk.xltU_ctx (b : Blk) (f : Xlt → Xlt) : (b.xltU f).ctx = b.ctx := rfl
@[simp] theorem Blk.xltU_fen (b : Blk) (f : Xlt → Xlt) : (b.xltU f).fen = b.fen := rfl
@[simp] theorem Blk.xltU_evc (b : Blk) (f : Xlt → Xlt) : (b.xltU f).evc = b.evc := rfl
@[simp] theorem Blk.xltU_mbx (b : Blk) (f : Xlt → Xlt) : (b.xltU f).mbx = b.mbx := rfl
@[simp] theorem Blk.xltU_sch (b : Blk) (f : Xlt → Xlt) : (b.xltU f).sch = b.sch := rfl
@[simp] theorem Blk.xltU_mar (b : Blk) (f : Xlt → Xlt) : (b.xltU f).mar = b.mar := rfl
@[simp] theorem Blk.xltU_mdl (b : Blk) (f : Xlt → Xlt) : (b.xltU f).mdl = b.mdl := rfl
@[simp] theorem Blk.xltU_xlt (b : Blk) (f : Xlt → Xlt) : (b.xltU f).xlt = f b.xlt := rfl
@[simp] theorem Blk.xltU_tre (b : Blk) (f : Xlt → Xlt) : (b.xltU f).tre = b.tre := rfl
@[simp] theorem Blk.xltU_bwr (b : Blk) (f : Xlt → Xlt) : (b.xltU f).bwr = b.bwr := rfl
@[simp] theorem Blk.xltU_lmf (b : Blk) (f : Xlt → Xlt) : (b.xltU f).lmf = b.lmf := rfl
@[simp] theorem Blk.xltU_rcv (b : Blk) (f : Xlt → Xlt) : (b.xltU f).rcv = b.rcv := rfl
@[simp] theorem Blk.xltU_trc (b : Blk) (f : Xlt → Xlt) : (b.xltU f).trc = b.trc := rfl
@[simp] theorem Blk.xltU_slices (b : Blk) (f : Xlt → Xlt) : (b.xltU f).slices = b.slices := rfl
@[simp] theorem Blk.xltU_partitions (b : Blk) (f : Xlt → Xlt) : (b.xltU f).partitions = b.partitions := rfl
@[simp] theorem Blk.xltU_contexts (b : Blk) (f : Xlt → Xlt) : (b.xltU f).contexts = b.contexts := rfl
@[simp] theorem Blk.xltU_queues (b : Blk) (f : Xlt → Xlt) : (b.xltU f).queues = b.queues := rfl
@[simp] theorem Blk.xltU_items (b : Blk) (f : Xlt → Xlt) : (b.xltU f).items = b.items := rfl
@[simp] theorem Blk.xltU_views (b : Blk) (f : Xlt → Xlt) : (b.xltU f).views = b.views := rfl

@[simp] theorem Blk.lmfU_ft (b : Blk) (f : Lmf → Lmf) : (b.lmfU f).ft = b.ft := rfl
@[simp] theorem Blk.lmfU_free (b : Blk) (f : Lmf → Lmf) : (b.lmfU f).free = b.free := rfl
@[simp] theorem Blk.lmfU_out (b : Blk) (f : Lmf → Lmf) : (b.lmfU f).out = b.out := rfl
@[simp] theorem Blk.lmfU_readOut (b : Blk) (f : Lmf → Lmf) : (b.lmfU f).readOut = b.readOut := rfl
@[simp] theorem Blk.lmfU_mem (b : Blk) (f : Lmf → Lmf) : (b.lmfU f).mem = b.mem := rfl
@[simp] theorem Blk.lmfU_uncorr (b : Blk) (f : Lmf → Lmf) : (b.lmfU f).uncorr = b.uncorr := rfl
@[simp] theorem Blk.lmfU_own (b : Blk) (f : Lmf → Lmf) : (b.lmfU f).own = b.own := rfl
@[simp] theorem Blk.lmfU_pages (b : Blk) (f : Lmf → Lmf) : (b.lmfU f).pages = b.pages := rfl
@[simp] theorem Blk.lmfU_latches (b : Blk) (f : Lmf → Lmf) : (b.lmfU f).latches = b.latches := rfl
@[simp] theorem Blk.lmfU_chip (b : Blk) (f : Lmf → Lmf) : (b.lmfU f).chip = b.chip := rfl
@[simp] theorem Blk.lmfU_pwr (b : Blk) (f : Lmf → Lmf) : (b.lmfU f).pwr = b.pwr := rfl
@[simp] theorem Blk.lmfU_sec (b : Blk) (f : Lmf → Lmf) : (b.lmfU f).sec = b.sec := rfl
@[simp] theorem Blk.lmfU_hlu (b : Blk) (f : Lmf → Lmf) : (b.lmfU f).hlu = b.hlu := rfl
@[simp] theorem Blk.lmfU_qfe (b : Blk) (f : Lmf → Lmf) : (b.lmfU f).qfe = b.qfe := rfl
@[simp] theorem Blk.lmfU_ctx (b : Blk) (f : Lmf → Lmf) : (b.lmfU f).ctx = b.ctx := rfl
@[simp] theorem Blk.lmfU_fen (b : Blk) (f : Lmf → Lmf) : (b.lmfU f).fen = b.fen := rfl
@[simp] theorem Blk.lmfU_evc (b : Blk) (f : Lmf → Lmf) : (b.lmfU f).evc = b.evc := rfl
@[simp] theorem Blk.lmfU_mbx (b : Blk) (f : Lmf → Lmf) : (b.lmfU f).mbx = b.mbx := rfl
@[simp] theorem Blk.lmfU_sch (b : Blk) (f : Lmf → Lmf) : (b.lmfU f).sch = b.sch := rfl
@[simp] theorem Blk.lmfU_mar (b : Blk) (f : Lmf → Lmf) : (b.lmfU f).mar = b.mar := rfl
@[simp] theorem Blk.lmfU_mdl (b : Blk) (f : Lmf → Lmf) : (b.lmfU f).mdl = b.mdl := rfl
@[simp] theorem Blk.lmfU_xlt (b : Blk) (f : Lmf → Lmf) : (b.lmfU f).xlt = b.xlt := rfl
@[simp] theorem Blk.lmfU_tre (b : Blk) (f : Lmf → Lmf) : (b.lmfU f).tre = b.tre := rfl
@[simp] theorem Blk.lmfU_bwr (b : Blk) (f : Lmf → Lmf) : (b.lmfU f).bwr = b.bwr := rfl
@[simp] theorem Blk.lmfU_lmf (b : Blk) (f : Lmf → Lmf) : (b.lmfU f).lmf = f b.lmf := rfl
@[simp] theorem Blk.lmfU_rcv (b : Blk) (f : Lmf → Lmf) : (b.lmfU f).rcv = b.rcv := rfl
@[simp] theorem Blk.lmfU_trc (b : Blk) (f : Lmf → Lmf) : (b.lmfU f).trc = b.trc := rfl
@[simp] theorem Blk.lmfU_slices (b : Blk) (f : Lmf → Lmf) : (b.lmfU f).slices = b.slices := rfl
@[simp] theorem Blk.lmfU_partitions (b : Blk) (f : Lmf → Lmf) : (b.lmfU f).partitions = b.partitions := rfl
@[simp] theorem Blk.lmfU_contexts (b : Blk) (f : Lmf → Lmf) : (b.lmfU f).contexts = b.contexts := rfl
@[simp] theorem Blk.lmfU_queues (b : Blk) (f : Lmf → Lmf) : (b.lmfU f).queues = b.queues := rfl
@[simp] theorem Blk.lmfU_items (b : Blk) (f : Lmf → Lmf) : (b.lmfU f).items = b.items := rfl
@[simp] theorem Blk.lmfU_views (b : Blk) (f : Lmf → Lmf) : (b.lmfU f).views = b.views := rfl

@[simp] theorem Blk.ctxU_ft (b : Blk) (f : Ctx → Ctx) : (b.ctxU f).ft = b.ft := rfl
@[simp] theorem Blk.ctxU_free (b : Blk) (f : Ctx → Ctx) : (b.ctxU f).free = b.free := rfl
@[simp] theorem Blk.ctxU_out (b : Blk) (f : Ctx → Ctx) : (b.ctxU f).out = b.out := rfl
@[simp] theorem Blk.ctxU_readOut (b : Blk) (f : Ctx → Ctx) : (b.ctxU f).readOut = b.readOut := rfl
@[simp] theorem Blk.ctxU_mem (b : Blk) (f : Ctx → Ctx) : (b.ctxU f).mem = b.mem := rfl
@[simp] theorem Blk.ctxU_uncorr (b : Blk) (f : Ctx → Ctx) : (b.ctxU f).uncorr = b.uncorr := rfl
@[simp] theorem Blk.ctxU_own (b : Blk) (f : Ctx → Ctx) : (b.ctxU f).own = b.own := rfl
@[simp] theorem Blk.ctxU_pages (b : Blk) (f : Ctx → Ctx) : (b.ctxU f).pages = b.pages := rfl
@[simp] theorem Blk.ctxU_latches (b : Blk) (f : Ctx → Ctx) : (b.ctxU f).latches = b.latches := rfl
@[simp] theorem Blk.ctxU_chip (b : Blk) (f : Ctx → Ctx) : (b.ctxU f).chip = b.chip := rfl
@[simp] theorem Blk.ctxU_pwr (b : Blk) (f : Ctx → Ctx) : (b.ctxU f).pwr = b.pwr := rfl
@[simp] theorem Blk.ctxU_sec (b : Blk) (f : Ctx → Ctx) : (b.ctxU f).sec = b.sec := rfl
@[simp] theorem Blk.ctxU_hlu (b : Blk) (f : Ctx → Ctx) : (b.ctxU f).hlu = b.hlu := rfl
@[simp] theorem Blk.ctxU_qfe (b : Blk) (f : Ctx → Ctx) : (b.ctxU f).qfe = b.qfe := rfl
@[simp] theorem Blk.ctxU_ctx (b : Blk) (f : Ctx → Ctx) : (b.ctxU f).ctx = f b.ctx := rfl
@[simp] theorem Blk.ctxU_fen (b : Blk) (f : Ctx → Ctx) : (b.ctxU f).fen = b.fen := rfl
@[simp] theorem Blk.ctxU_evc (b : Blk) (f : Ctx → Ctx) : (b.ctxU f).evc = b.evc := rfl
@[simp] theorem Blk.ctxU_mbx (b : Blk) (f : Ctx → Ctx) : (b.ctxU f).mbx = b.mbx := rfl
@[simp] theorem Blk.ctxU_sch (b : Blk) (f : Ctx → Ctx) : (b.ctxU f).sch = b.sch := rfl
@[simp] theorem Blk.ctxU_mar (b : Blk) (f : Ctx → Ctx) : (b.ctxU f).mar = b.mar := rfl
@[simp] theorem Blk.ctxU_mdl (b : Blk) (f : Ctx → Ctx) : (b.ctxU f).mdl = b.mdl := rfl
@[simp] theorem Blk.ctxU_xlt (b : Blk) (f : Ctx → Ctx) : (b.ctxU f).xlt = b.xlt := rfl
@[simp] theorem Blk.ctxU_tre (b : Blk) (f : Ctx → Ctx) : (b.ctxU f).tre = b.tre := rfl
@[simp] theorem Blk.ctxU_bwr (b : Blk) (f : Ctx → Ctx) : (b.ctxU f).bwr = b.bwr := rfl
@[simp] theorem Blk.ctxU_lmf (b : Blk) (f : Ctx → Ctx) : (b.ctxU f).lmf = b.lmf := rfl
@[simp] theorem Blk.ctxU_rcv (b : Blk) (f : Ctx → Ctx) : (b.ctxU f).rcv = b.rcv := rfl
@[simp] theorem Blk.ctxU_trc (b : Blk) (f : Ctx → Ctx) : (b.ctxU f).trc = b.trc := rfl
@[simp] theorem Blk.ctxU_slices (b : Blk) (f : Ctx → Ctx) : (b.ctxU f).slices = b.slices := rfl
@[simp] theorem Blk.ctxU_partitions (b : Blk) (f : Ctx → Ctx) : (b.ctxU f).partitions = b.partitions := rfl
@[simp] theorem Blk.ctxU_contexts (b : Blk) (f : Ctx → Ctx) : (b.ctxU f).contexts = b.contexts := rfl
@[simp] theorem Blk.ctxU_queues (b : Blk) (f : Ctx → Ctx) : (b.ctxU f).queues = b.queues := rfl
@[simp] theorem Blk.ctxU_items (b : Blk) (f : Ctx → Ctx) : (b.ctxU f).items = b.items := rfl
@[simp] theorem Blk.ctxU_views (b : Blk) (f : Ctx → Ctx) : (b.ctxU f).views = b.views := rfl

@[simp] theorem Blk.fenU_ft (b : Blk) (f : Fen → Fen) : (b.fenU f).ft = b.ft := rfl
@[simp] theorem Blk.fenU_free (b : Blk) (f : Fen → Fen) : (b.fenU f).free = b.free := rfl
@[simp] theorem Blk.fenU_out (b : Blk) (f : Fen → Fen) : (b.fenU f).out = b.out := rfl
@[simp] theorem Blk.fenU_readOut (b : Blk) (f : Fen → Fen) : (b.fenU f).readOut = b.readOut := rfl
@[simp] theorem Blk.fenU_mem (b : Blk) (f : Fen → Fen) : (b.fenU f).mem = b.mem := rfl
@[simp] theorem Blk.fenU_uncorr (b : Blk) (f : Fen → Fen) : (b.fenU f).uncorr = b.uncorr := rfl
@[simp] theorem Blk.fenU_own (b : Blk) (f : Fen → Fen) : (b.fenU f).own = b.own := rfl
@[simp] theorem Blk.fenU_pages (b : Blk) (f : Fen → Fen) : (b.fenU f).pages = b.pages := rfl
@[simp] theorem Blk.fenU_latches (b : Blk) (f : Fen → Fen) : (b.fenU f).latches = b.latches := rfl
@[simp] theorem Blk.fenU_chip (b : Blk) (f : Fen → Fen) : (b.fenU f).chip = b.chip := rfl
@[simp] theorem Blk.fenU_pwr (b : Blk) (f : Fen → Fen) : (b.fenU f).pwr = b.pwr := rfl
@[simp] theorem Blk.fenU_sec (b : Blk) (f : Fen → Fen) : (b.fenU f).sec = b.sec := rfl
@[simp] theorem Blk.fenU_hlu (b : Blk) (f : Fen → Fen) : (b.fenU f).hlu = b.hlu := rfl
@[simp] theorem Blk.fenU_qfe (b : Blk) (f : Fen → Fen) : (b.fenU f).qfe = b.qfe := rfl
@[simp] theorem Blk.fenU_ctx (b : Blk) (f : Fen → Fen) : (b.fenU f).ctx = b.ctx := rfl
@[simp] theorem Blk.fenU_fen (b : Blk) (f : Fen → Fen) : (b.fenU f).fen = f b.fen := rfl
@[simp] theorem Blk.fenU_evc (b : Blk) (f : Fen → Fen) : (b.fenU f).evc = b.evc := rfl
@[simp] theorem Blk.fenU_mbx (b : Blk) (f : Fen → Fen) : (b.fenU f).mbx = b.mbx := rfl
@[simp] theorem Blk.fenU_sch (b : Blk) (f : Fen → Fen) : (b.fenU f).sch = b.sch := rfl
@[simp] theorem Blk.fenU_mar (b : Blk) (f : Fen → Fen) : (b.fenU f).mar = b.mar := rfl
@[simp] theorem Blk.fenU_mdl (b : Blk) (f : Fen → Fen) : (b.fenU f).mdl = b.mdl := rfl
@[simp] theorem Blk.fenU_xlt (b : Blk) (f : Fen → Fen) : (b.fenU f).xlt = b.xlt := rfl
@[simp] theorem Blk.fenU_tre (b : Blk) (f : Fen → Fen) : (b.fenU f).tre = b.tre := rfl
@[simp] theorem Blk.fenU_bwr (b : Blk) (f : Fen → Fen) : (b.fenU f).bwr = b.bwr := rfl
@[simp] theorem Blk.fenU_lmf (b : Blk) (f : Fen → Fen) : (b.fenU f).lmf = b.lmf := rfl
@[simp] theorem Blk.fenU_rcv (b : Blk) (f : Fen → Fen) : (b.fenU f).rcv = b.rcv := rfl
@[simp] theorem Blk.fenU_trc (b : Blk) (f : Fen → Fen) : (b.fenU f).trc = b.trc := rfl
@[simp] theorem Blk.fenU_slices (b : Blk) (f : Fen → Fen) : (b.fenU f).slices = b.slices := rfl
@[simp] theorem Blk.fenU_partitions (b : Blk) (f : Fen → Fen) : (b.fenU f).partitions = b.partitions := rfl
@[simp] theorem Blk.fenU_contexts (b : Blk) (f : Fen → Fen) : (b.fenU f).contexts = b.contexts := rfl
@[simp] theorem Blk.fenU_queues (b : Blk) (f : Fen → Fen) : (b.fenU f).queues = b.queues := rfl
@[simp] theorem Blk.fenU_items (b : Blk) (f : Fen → Fen) : (b.fenU f).items = b.items := rfl
@[simp] theorem Blk.fenU_views (b : Blk) (f : Fen → Fen) : (b.fenU f).views = b.views := rfl

@[simp] theorem Blk.evcU_ft (b : Blk) (f : Evc → Evc) : (b.evcU f).ft = b.ft := rfl
@[simp] theorem Blk.evcU_free (b : Blk) (f : Evc → Evc) : (b.evcU f).free = b.free := rfl
@[simp] theorem Blk.evcU_out (b : Blk) (f : Evc → Evc) : (b.evcU f).out = b.out := rfl
@[simp] theorem Blk.evcU_readOut (b : Blk) (f : Evc → Evc) : (b.evcU f).readOut = b.readOut := rfl
@[simp] theorem Blk.evcU_mem (b : Blk) (f : Evc → Evc) : (b.evcU f).mem = b.mem := rfl
@[simp] theorem Blk.evcU_uncorr (b : Blk) (f : Evc → Evc) : (b.evcU f).uncorr = b.uncorr := rfl
@[simp] theorem Blk.evcU_own (b : Blk) (f : Evc → Evc) : (b.evcU f).own = b.own := rfl
@[simp] theorem Blk.evcU_pages (b : Blk) (f : Evc → Evc) : (b.evcU f).pages = b.pages := rfl
@[simp] theorem Blk.evcU_latches (b : Blk) (f : Evc → Evc) : (b.evcU f).latches = b.latches := rfl
@[simp] theorem Blk.evcU_chip (b : Blk) (f : Evc → Evc) : (b.evcU f).chip = b.chip := rfl
@[simp] theorem Blk.evcU_pwr (b : Blk) (f : Evc → Evc) : (b.evcU f).pwr = b.pwr := rfl
@[simp] theorem Blk.evcU_sec (b : Blk) (f : Evc → Evc) : (b.evcU f).sec = b.sec := rfl
@[simp] theorem Blk.evcU_hlu (b : Blk) (f : Evc → Evc) : (b.evcU f).hlu = b.hlu := rfl
@[simp] theorem Blk.evcU_qfe (b : Blk) (f : Evc → Evc) : (b.evcU f).qfe = b.qfe := rfl
@[simp] theorem Blk.evcU_ctx (b : Blk) (f : Evc → Evc) : (b.evcU f).ctx = b.ctx := rfl
@[simp] theorem Blk.evcU_fen (b : Blk) (f : Evc → Evc) : (b.evcU f).fen = b.fen := rfl
@[simp] theorem Blk.evcU_evc (b : Blk) (f : Evc → Evc) : (b.evcU f).evc = f b.evc := rfl
@[simp] theorem Blk.evcU_mbx (b : Blk) (f : Evc → Evc) : (b.evcU f).mbx = b.mbx := rfl
@[simp] theorem Blk.evcU_sch (b : Blk) (f : Evc → Evc) : (b.evcU f).sch = b.sch := rfl
@[simp] theorem Blk.evcU_mar (b : Blk) (f : Evc → Evc) : (b.evcU f).mar = b.mar := rfl
@[simp] theorem Blk.evcU_mdl (b : Blk) (f : Evc → Evc) : (b.evcU f).mdl = b.mdl := rfl
@[simp] theorem Blk.evcU_xlt (b : Blk) (f : Evc → Evc) : (b.evcU f).xlt = b.xlt := rfl
@[simp] theorem Blk.evcU_tre (b : Blk) (f : Evc → Evc) : (b.evcU f).tre = b.tre := rfl
@[simp] theorem Blk.evcU_bwr (b : Blk) (f : Evc → Evc) : (b.evcU f).bwr = b.bwr := rfl
@[simp] theorem Blk.evcU_lmf (b : Blk) (f : Evc → Evc) : (b.evcU f).lmf = b.lmf := rfl
@[simp] theorem Blk.evcU_rcv (b : Blk) (f : Evc → Evc) : (b.evcU f).rcv = b.rcv := rfl
@[simp] theorem Blk.evcU_trc (b : Blk) (f : Evc → Evc) : (b.evcU f).trc = b.trc := rfl
@[simp] theorem Blk.evcU_slices (b : Blk) (f : Evc → Evc) : (b.evcU f).slices = b.slices := rfl
@[simp] theorem Blk.evcU_partitions (b : Blk) (f : Evc → Evc) : (b.evcU f).partitions = b.partitions := rfl
@[simp] theorem Blk.evcU_contexts (b : Blk) (f : Evc → Evc) : (b.evcU f).contexts = b.contexts := rfl
@[simp] theorem Blk.evcU_queues (b : Blk) (f : Evc → Evc) : (b.evcU f).queues = b.queues := rfl
@[simp] theorem Blk.evcU_items (b : Blk) (f : Evc → Evc) : (b.evcU f).items = b.items := rfl
@[simp] theorem Blk.evcU_views (b : Blk) (f : Evc → Evc) : (b.evcU f).views = b.views := rfl

@[simp] theorem Blk.mbxU_ft (b : Blk) (f : Mbx → Mbx) : (b.mbxU f).ft = b.ft := rfl
@[simp] theorem Blk.mbxU_free (b : Blk) (f : Mbx → Mbx) : (b.mbxU f).free = b.free := rfl
@[simp] theorem Blk.mbxU_out (b : Blk) (f : Mbx → Mbx) : (b.mbxU f).out = b.out := rfl
@[simp] theorem Blk.mbxU_readOut (b : Blk) (f : Mbx → Mbx) : (b.mbxU f).readOut = b.readOut := rfl
@[simp] theorem Blk.mbxU_mem (b : Blk) (f : Mbx → Mbx) : (b.mbxU f).mem = b.mem := rfl
@[simp] theorem Blk.mbxU_uncorr (b : Blk) (f : Mbx → Mbx) : (b.mbxU f).uncorr = b.uncorr := rfl
@[simp] theorem Blk.mbxU_own (b : Blk) (f : Mbx → Mbx) : (b.mbxU f).own = b.own := rfl
@[simp] theorem Blk.mbxU_pages (b : Blk) (f : Mbx → Mbx) : (b.mbxU f).pages = b.pages := rfl
@[simp] theorem Blk.mbxU_latches (b : Blk) (f : Mbx → Mbx) : (b.mbxU f).latches = b.latches := rfl
@[simp] theorem Blk.mbxU_chip (b : Blk) (f : Mbx → Mbx) : (b.mbxU f).chip = b.chip := rfl
@[simp] theorem Blk.mbxU_pwr (b : Blk) (f : Mbx → Mbx) : (b.mbxU f).pwr = b.pwr := rfl
@[simp] theorem Blk.mbxU_sec (b : Blk) (f : Mbx → Mbx) : (b.mbxU f).sec = b.sec := rfl
@[simp] theorem Blk.mbxU_hlu (b : Blk) (f : Mbx → Mbx) : (b.mbxU f).hlu = b.hlu := rfl
@[simp] theorem Blk.mbxU_qfe (b : Blk) (f : Mbx → Mbx) : (b.mbxU f).qfe = b.qfe := rfl
@[simp] theorem Blk.mbxU_ctx (b : Blk) (f : Mbx → Mbx) : (b.mbxU f).ctx = b.ctx := rfl
@[simp] theorem Blk.mbxU_fen (b : Blk) (f : Mbx → Mbx) : (b.mbxU f).fen = b.fen := rfl
@[simp] theorem Blk.mbxU_evc (b : Blk) (f : Mbx → Mbx) : (b.mbxU f).evc = b.evc := rfl
@[simp] theorem Blk.mbxU_mbx (b : Blk) (f : Mbx → Mbx) : (b.mbxU f).mbx = f b.mbx := rfl
@[simp] theorem Blk.mbxU_sch (b : Blk) (f : Mbx → Mbx) : (b.mbxU f).sch = b.sch := rfl
@[simp] theorem Blk.mbxU_mar (b : Blk) (f : Mbx → Mbx) : (b.mbxU f).mar = b.mar := rfl
@[simp] theorem Blk.mbxU_mdl (b : Blk) (f : Mbx → Mbx) : (b.mbxU f).mdl = b.mdl := rfl
@[simp] theorem Blk.mbxU_xlt (b : Blk) (f : Mbx → Mbx) : (b.mbxU f).xlt = b.xlt := rfl
@[simp] theorem Blk.mbxU_tre (b : Blk) (f : Mbx → Mbx) : (b.mbxU f).tre = b.tre := rfl
@[simp] theorem Blk.mbxU_bwr (b : Blk) (f : Mbx → Mbx) : (b.mbxU f).bwr = b.bwr := rfl
@[simp] theorem Blk.mbxU_lmf (b : Blk) (f : Mbx → Mbx) : (b.mbxU f).lmf = b.lmf := rfl
@[simp] theorem Blk.mbxU_rcv (b : Blk) (f : Mbx → Mbx) : (b.mbxU f).rcv = b.rcv := rfl
@[simp] theorem Blk.mbxU_trc (b : Blk) (f : Mbx → Mbx) : (b.mbxU f).trc = b.trc := rfl
@[simp] theorem Blk.mbxU_slices (b : Blk) (f : Mbx → Mbx) : (b.mbxU f).slices = b.slices := rfl
@[simp] theorem Blk.mbxU_partitions (b : Blk) (f : Mbx → Mbx) : (b.mbxU f).partitions = b.partitions := rfl
@[simp] theorem Blk.mbxU_contexts (b : Blk) (f : Mbx → Mbx) : (b.mbxU f).contexts = b.contexts := rfl
@[simp] theorem Blk.mbxU_queues (b : Blk) (f : Mbx → Mbx) : (b.mbxU f).queues = b.queues := rfl
@[simp] theorem Blk.mbxU_items (b : Blk) (f : Mbx → Mbx) : (b.mbxU f).items = b.items := rfl
@[simp] theorem Blk.mbxU_views (b : Blk) (f : Mbx → Mbx) : (b.mbxU f).views = b.views := rfl

@[simp] theorem Blk.schU_ft (b : Blk) (f : Sch → Sch) : (b.schU f).ft = b.ft := rfl
@[simp] theorem Blk.schU_free (b : Blk) (f : Sch → Sch) : (b.schU f).free = b.free := rfl
@[simp] theorem Blk.schU_out (b : Blk) (f : Sch → Sch) : (b.schU f).out = b.out := rfl
@[simp] theorem Blk.schU_readOut (b : Blk) (f : Sch → Sch) : (b.schU f).readOut = b.readOut := rfl
@[simp] theorem Blk.schU_mem (b : Blk) (f : Sch → Sch) : (b.schU f).mem = b.mem := rfl
@[simp] theorem Blk.schU_uncorr (b : Blk) (f : Sch → Sch) : (b.schU f).uncorr = b.uncorr := rfl
@[simp] theorem Blk.schU_own (b : Blk) (f : Sch → Sch) : (b.schU f).own = b.own := rfl
@[simp] theorem Blk.schU_pages (b : Blk) (f : Sch → Sch) : (b.schU f).pages = b.pages := rfl
@[simp] theorem Blk.schU_latches (b : Blk) (f : Sch → Sch) : (b.schU f).latches = b.latches := rfl
@[simp] theorem Blk.schU_chip (b : Blk) (f : Sch → Sch) : (b.schU f).chip = b.chip := rfl
@[simp] theorem Blk.schU_pwr (b : Blk) (f : Sch → Sch) : (b.schU f).pwr = b.pwr := rfl
@[simp] theorem Blk.schU_sec (b : Blk) (f : Sch → Sch) : (b.schU f).sec = b.sec := rfl
@[simp] theorem Blk.schU_hlu (b : Blk) (f : Sch → Sch) : (b.schU f).hlu = b.hlu := rfl
@[simp] theorem Blk.schU_qfe (b : Blk) (f : Sch → Sch) : (b.schU f).qfe = b.qfe := rfl
@[simp] theorem Blk.schU_ctx (b : Blk) (f : Sch → Sch) : (b.schU f).ctx = b.ctx := rfl
@[simp] theorem Blk.schU_fen (b : Blk) (f : Sch → Sch) : (b.schU f).fen = b.fen := rfl
@[simp] theorem Blk.schU_evc (b : Blk) (f : Sch → Sch) : (b.schU f).evc = b.evc := rfl
@[simp] theorem Blk.schU_mbx (b : Blk) (f : Sch → Sch) : (b.schU f).mbx = b.mbx := rfl
@[simp] theorem Blk.schU_sch (b : Blk) (f : Sch → Sch) : (b.schU f).sch = f b.sch := rfl
@[simp] theorem Blk.schU_mar (b : Blk) (f : Sch → Sch) : (b.schU f).mar = b.mar := rfl
@[simp] theorem Blk.schU_mdl (b : Blk) (f : Sch → Sch) : (b.schU f).mdl = b.mdl := rfl
@[simp] theorem Blk.schU_xlt (b : Blk) (f : Sch → Sch) : (b.schU f).xlt = b.xlt := rfl
@[simp] theorem Blk.schU_tre (b : Blk) (f : Sch → Sch) : (b.schU f).tre = b.tre := rfl
@[simp] theorem Blk.schU_bwr (b : Blk) (f : Sch → Sch) : (b.schU f).bwr = b.bwr := rfl
@[simp] theorem Blk.schU_lmf (b : Blk) (f : Sch → Sch) : (b.schU f).lmf = b.lmf := rfl
@[simp] theorem Blk.schU_rcv (b : Blk) (f : Sch → Sch) : (b.schU f).rcv = b.rcv := rfl
@[simp] theorem Blk.schU_trc (b : Blk) (f : Sch → Sch) : (b.schU f).trc = b.trc := rfl
@[simp] theorem Blk.schU_slices (b : Blk) (f : Sch → Sch) : (b.schU f).slices = b.slices := rfl
@[simp] theorem Blk.schU_partitions (b : Blk) (f : Sch → Sch) : (b.schU f).partitions = b.partitions := rfl
@[simp] theorem Blk.schU_contexts (b : Blk) (f : Sch → Sch) : (b.schU f).contexts = b.contexts := rfl
@[simp] theorem Blk.schU_queues (b : Blk) (f : Sch → Sch) : (b.schU f).queues = b.queues := rfl
@[simp] theorem Blk.schU_items (b : Blk) (f : Sch → Sch) : (b.schU f).items = b.items := rfl
@[simp] theorem Blk.schU_views (b : Blk) (f : Sch → Sch) : (b.schU f).views = b.views := rfl

@[simp] theorem Blk.marU_ft (b : Blk) (f : Mar → Mar) : (b.marU f).ft = b.ft := rfl
@[simp] theorem Blk.marU_free (b : Blk) (f : Mar → Mar) : (b.marU f).free = b.free := rfl
@[simp] theorem Blk.marU_out (b : Blk) (f : Mar → Mar) : (b.marU f).out = b.out := rfl
@[simp] theorem Blk.marU_readOut (b : Blk) (f : Mar → Mar) : (b.marU f).readOut = b.readOut := rfl
@[simp] theorem Blk.marU_mem (b : Blk) (f : Mar → Mar) : (b.marU f).mem = b.mem := rfl
@[simp] theorem Blk.marU_uncorr (b : Blk) (f : Mar → Mar) : (b.marU f).uncorr = b.uncorr := rfl
@[simp] theorem Blk.marU_own (b : Blk) (f : Mar → Mar) : (b.marU f).own = b.own := rfl
@[simp] theorem Blk.marU_pages (b : Blk) (f : Mar → Mar) : (b.marU f).pages = b.pages := rfl
@[simp] theorem Blk.marU_latches (b : Blk) (f : Mar → Mar) : (b.marU f).latches = b.latches := rfl
@[simp] theorem Blk.marU_chip (b : Blk) (f : Mar → Mar) : (b.marU f).chip = b.chip := rfl
@[simp] theorem Blk.marU_pwr (b : Blk) (f : Mar → Mar) : (b.marU f).pwr = b.pwr := rfl
@[simp] theorem Blk.marU_sec (b : Blk) (f : Mar → Mar) : (b.marU f).sec = b.sec := rfl
@[simp] theorem Blk.marU_hlu (b : Blk) (f : Mar → Mar) : (b.marU f).hlu = b.hlu := rfl
@[simp] theorem Blk.marU_qfe (b : Blk) (f : Mar → Mar) : (b.marU f).qfe = b.qfe := rfl
@[simp] theorem Blk.marU_ctx (b : Blk) (f : Mar → Mar) : (b.marU f).ctx = b.ctx := rfl
@[simp] theorem Blk.marU_fen (b : Blk) (f : Mar → Mar) : (b.marU f).fen = b.fen := rfl
@[simp] theorem Blk.marU_evc (b : Blk) (f : Mar → Mar) : (b.marU f).evc = b.evc := rfl
@[simp] theorem Blk.marU_mbx (b : Blk) (f : Mar → Mar) : (b.marU f).mbx = b.mbx := rfl
@[simp] theorem Blk.marU_sch (b : Blk) (f : Mar → Mar) : (b.marU f).sch = b.sch := rfl
@[simp] theorem Blk.marU_mar (b : Blk) (f : Mar → Mar) : (b.marU f).mar = f b.mar := rfl
@[simp] theorem Blk.marU_mdl (b : Blk) (f : Mar → Mar) : (b.marU f).mdl = b.mdl := rfl
@[simp] theorem Blk.marU_xlt (b : Blk) (f : Mar → Mar) : (b.marU f).xlt = b.xlt := rfl
@[simp] theorem Blk.marU_tre (b : Blk) (f : Mar → Mar) : (b.marU f).tre = b.tre := rfl
@[simp] theorem Blk.marU_bwr (b : Blk) (f : Mar → Mar) : (b.marU f).bwr = b.bwr := rfl
@[simp] theorem Blk.marU_lmf (b : Blk) (f : Mar → Mar) : (b.marU f).lmf = b.lmf := rfl
@[simp] theorem Blk.marU_rcv (b : Blk) (f : Mar → Mar) : (b.marU f).rcv = b.rcv := rfl
@[simp] theorem Blk.marU_trc (b : Blk) (f : Mar → Mar) : (b.marU f).trc = b.trc := rfl
@[simp] theorem Blk.marU_slices (b : Blk) (f : Mar → Mar) : (b.marU f).slices = b.slices := rfl
@[simp] theorem Blk.marU_partitions (b : Blk) (f : Mar → Mar) : (b.marU f).partitions = b.partitions := rfl
@[simp] theorem Blk.marU_contexts (b : Blk) (f : Mar → Mar) : (b.marU f).contexts = b.contexts := rfl
@[simp] theorem Blk.marU_queues (b : Blk) (f : Mar → Mar) : (b.marU f).queues = b.queues := rfl
@[simp] theorem Blk.marU_items (b : Blk) (f : Mar → Mar) : (b.marU f).items = b.items := rfl
@[simp] theorem Blk.marU_views (b : Blk) (f : Mar → Mar) : (b.marU f).views = b.views := rfl

@[simp] theorem Blk.mdlU_ft (b : Blk) (f : Mdl → Mdl) : (b.mdlU f).ft = b.ft := rfl
@[simp] theorem Blk.mdlU_free (b : Blk) (f : Mdl → Mdl) : (b.mdlU f).free = b.free := rfl
@[simp] theorem Blk.mdlU_out (b : Blk) (f : Mdl → Mdl) : (b.mdlU f).out = b.out := rfl
@[simp] theorem Blk.mdlU_readOut (b : Blk) (f : Mdl → Mdl) : (b.mdlU f).readOut = b.readOut := rfl
@[simp] theorem Blk.mdlU_mem (b : Blk) (f : Mdl → Mdl) : (b.mdlU f).mem = b.mem := rfl
@[simp] theorem Blk.mdlU_uncorr (b : Blk) (f : Mdl → Mdl) : (b.mdlU f).uncorr = b.uncorr := rfl
@[simp] theorem Blk.mdlU_own (b : Blk) (f : Mdl → Mdl) : (b.mdlU f).own = b.own := rfl
@[simp] theorem Blk.mdlU_pages (b : Blk) (f : Mdl → Mdl) : (b.mdlU f).pages = b.pages := rfl
@[simp] theorem Blk.mdlU_latches (b : Blk) (f : Mdl → Mdl) : (b.mdlU f).latches = b.latches := rfl
@[simp] theorem Blk.mdlU_chip (b : Blk) (f : Mdl → Mdl) : (b.mdlU f).chip = b.chip := rfl
@[simp] theorem Blk.mdlU_pwr (b : Blk) (f : Mdl → Mdl) : (b.mdlU f).pwr = b.pwr := rfl
@[simp] theorem Blk.mdlU_sec (b : Blk) (f : Mdl → Mdl) : (b.mdlU f).sec = b.sec := rfl
@[simp] theorem Blk.mdlU_hlu (b : Blk) (f : Mdl → Mdl) : (b.mdlU f).hlu = b.hlu := rfl
@[simp] theorem Blk.mdlU_qfe (b : Blk) (f : Mdl → Mdl) : (b.mdlU f).qfe = b.qfe := rfl
@[simp] theorem Blk.mdlU_ctx (b : Blk) (f : Mdl → Mdl) : (b.mdlU f).ctx = b.ctx := rfl
@[simp] theorem Blk.mdlU_fen (b : Blk) (f : Mdl → Mdl) : (b.mdlU f).fen = b.fen := rfl
@[simp] theorem Blk.mdlU_evc (b : Blk) (f : Mdl → Mdl) : (b.mdlU f).evc = b.evc := rfl
@[simp] theorem Blk.mdlU_mbx (b : Blk) (f : Mdl → Mdl) : (b.mdlU f).mbx = b.mbx := rfl
@[simp] theorem Blk.mdlU_sch (b : Blk) (f : Mdl → Mdl) : (b.mdlU f).sch = b.sch := rfl
@[simp] theorem Blk.mdlU_mar (b : Blk) (f : Mdl → Mdl) : (b.mdlU f).mar = b.mar := rfl
@[simp] theorem Blk.mdlU_mdl (b : Blk) (f : Mdl → Mdl) : (b.mdlU f).mdl = f b.mdl := rfl
@[simp] theorem Blk.mdlU_xlt (b : Blk) (f : Mdl → Mdl) : (b.mdlU f).xlt = b.xlt := rfl
@[simp] theorem Blk.mdlU_tre (b : Blk) (f : Mdl → Mdl) : (b.mdlU f).tre = b.tre := rfl
@[simp] theorem Blk.mdlU_bwr (b : Blk) (f : Mdl → Mdl) : (b.mdlU f).bwr = b.bwr := rfl
@[simp] theorem Blk.mdlU_lmf (b : Blk) (f : Mdl → Mdl) : (b.mdlU f).lmf = b.lmf := rfl
@[simp] theorem Blk.mdlU_rcv (b : Blk) (f : Mdl → Mdl) : (b.mdlU f).rcv = b.rcv := rfl
@[simp] theorem Blk.mdlU_trc (b : Blk) (f : Mdl → Mdl) : (b.mdlU f).trc = b.trc := rfl
@[simp] theorem Blk.mdlU_slices (b : Blk) (f : Mdl → Mdl) : (b.mdlU f).slices = b.slices := rfl
@[simp] theorem Blk.mdlU_partitions (b : Blk) (f : Mdl → Mdl) : (b.mdlU f).partitions = b.partitions := rfl
@[simp] theorem Blk.mdlU_contexts (b : Blk) (f : Mdl → Mdl) : (b.mdlU f).contexts = b.contexts := rfl
@[simp] theorem Blk.mdlU_queues (b : Blk) (f : Mdl → Mdl) : (b.mdlU f).queues = b.queues := rfl
@[simp] theorem Blk.mdlU_items (b : Blk) (f : Mdl → Mdl) : (b.mdlU f).items = b.items := rfl
@[simp] theorem Blk.mdlU_views (b : Blk) (f : Mdl → Mdl) : (b.mdlU f).views = b.views := rfl

@[simp] theorem Blk.treU_ft (b : Blk) (f : Tre → Tre) : (b.treU f).ft = b.ft := rfl
@[simp] theorem Blk.treU_free (b : Blk) (f : Tre → Tre) : (b.treU f).free = b.free := rfl
@[simp] theorem Blk.treU_out (b : Blk) (f : Tre → Tre) : (b.treU f).out = b.out := rfl
@[simp] theorem Blk.treU_readOut (b : Blk) (f : Tre → Tre) : (b.treU f).readOut = b.readOut := rfl
@[simp] theorem Blk.treU_mem (b : Blk) (f : Tre → Tre) : (b.treU f).mem = b.mem := rfl
@[simp] theorem Blk.treU_uncorr (b : Blk) (f : Tre → Tre) : (b.treU f).uncorr = b.uncorr := rfl
@[simp] theorem Blk.treU_own (b : Blk) (f : Tre → Tre) : (b.treU f).own = b.own := rfl
@[simp] theorem Blk.treU_pages (b : Blk) (f : Tre → Tre) : (b.treU f).pages = b.pages := rfl
@[simp] theorem Blk.treU_latches (b : Blk) (f : Tre → Tre) : (b.treU f).latches = b.latches := rfl
@[simp] theorem Blk.treU_chip (b : Blk) (f : Tre → Tre) : (b.treU f).chip = b.chip := rfl
@[simp] theorem Blk.treU_pwr (b : Blk) (f : Tre → Tre) : (b.treU f).pwr = b.pwr := rfl
@[simp] theorem Blk.treU_sec (b : Blk) (f : Tre → Tre) : (b.treU f).sec = b.sec := rfl
@[simp] theorem Blk.treU_hlu (b : Blk) (f : Tre → Tre) : (b.treU f).hlu = b.hlu := rfl
@[simp] theorem Blk.treU_qfe (b : Blk) (f : Tre → Tre) : (b.treU f).qfe = b.qfe := rfl
@[simp] theorem Blk.treU_ctx (b : Blk) (f : Tre → Tre) : (b.treU f).ctx = b.ctx := rfl
@[simp] theorem Blk.treU_fen (b : Blk) (f : Tre → Tre) : (b.treU f).fen = b.fen := rfl
@[simp] theorem Blk.treU_evc (b : Blk) (f : Tre → Tre) : (b.treU f).evc = b.evc := rfl
@[simp] theorem Blk.treU_mbx (b : Blk) (f : Tre → Tre) : (b.treU f).mbx = b.mbx := rfl
@[simp] theorem Blk.treU_sch (b : Blk) (f : Tre → Tre) : (b.treU f).sch = b.sch := rfl
@[simp] theorem Blk.treU_mar (b : Blk) (f : Tre → Tre) : (b.treU f).mar = b.mar := rfl
@[simp] theorem Blk.treU_mdl (b : Blk) (f : Tre → Tre) : (b.treU f).mdl = b.mdl := rfl
@[simp] theorem Blk.treU_xlt (b : Blk) (f : Tre → Tre) : (b.treU f).xlt = b.xlt := rfl
@[simp] theorem Blk.treU_tre (b : Blk) (f : Tre → Tre) : (b.treU f).tre = f b.tre := rfl
@[simp] theorem Blk.treU_bwr (b : Blk) (f : Tre → Tre) : (b.treU f).bwr = b.bwr := rfl
@[simp] theorem Blk.treU_lmf (b : Blk) (f : Tre → Tre) : (b.treU f).lmf = b.lmf := rfl
@[simp] theorem Blk.treU_rcv (b : Blk) (f : Tre → Tre) : (b.treU f).rcv = b.rcv := rfl
@[simp] theorem Blk.treU_trc (b : Blk) (f : Tre → Tre) : (b.treU f).trc = b.trc := rfl
@[simp] theorem Blk.treU_slices (b : Blk) (f : Tre → Tre) : (b.treU f).slices = b.slices := rfl
@[simp] theorem Blk.treU_partitions (b : Blk) (f : Tre → Tre) : (b.treU f).partitions = b.partitions := rfl
@[simp] theorem Blk.treU_contexts (b : Blk) (f : Tre → Tre) : (b.treU f).contexts = b.contexts := rfl
@[simp] theorem Blk.treU_queues (b : Blk) (f : Tre → Tre) : (b.treU f).queues = b.queues := rfl
@[simp] theorem Blk.treU_items (b : Blk) (f : Tre → Tre) : (b.treU f).items = b.items := rfl
@[simp] theorem Blk.treU_views (b : Blk) (f : Tre → Tre) : (b.treU f).views = b.views := rfl

@[simp] theorem Blk.bwrU_ft (b : Blk) (f : Bwr → Bwr) : (b.bwrU f).ft = b.ft := rfl
@[simp] theorem Blk.bwrU_free (b : Blk) (f : Bwr → Bwr) : (b.bwrU f).free = b.free := rfl
@[simp] theorem Blk.bwrU_out (b : Blk) (f : Bwr → Bwr) : (b.bwrU f).out = b.out := rfl
@[simp] theorem Blk.bwrU_readOut (b : Blk) (f : Bwr → Bwr) : (b.bwrU f).readOut = b.readOut := rfl
@[simp] theorem Blk.bwrU_mem (b : Blk) (f : Bwr → Bwr) : (b.bwrU f).mem = b.mem := rfl
@[simp] theorem Blk.bwrU_uncorr (b : Blk) (f : Bwr → Bwr) : (b.bwrU f).uncorr = b.uncorr := rfl
@[simp] theorem Blk.bwrU_own (b : Blk) (f : Bwr → Bwr) : (b.bwrU f).own = b.own := rfl
@[simp] theorem Blk.bwrU_pages (b : Blk) (f : Bwr → Bwr) : (b.bwrU f).pages = b.pages := rfl
@[simp] theorem Blk.bwrU_latches (b : Blk) (f : Bwr → Bwr) : (b.bwrU f).latches = b.latches := rfl
@[simp] theorem Blk.bwrU_chip (b : Blk) (f : Bwr → Bwr) : (b.bwrU f).chip = b.chip := rfl
@[simp] theorem Blk.bwrU_pwr (b : Blk) (f : Bwr → Bwr) : (b.bwrU f).pwr = b.pwr := rfl
@[simp] theorem Blk.bwrU_sec (b : Blk) (f : Bwr → Bwr) : (b.bwrU f).sec = b.sec := rfl
@[simp] theorem Blk.bwrU_hlu (b : Blk) (f : Bwr → Bwr) : (b.bwrU f).hlu = b.hlu := rfl
@[simp] theorem Blk.bwrU_qfe (b : Blk) (f : Bwr → Bwr) : (b.bwrU f).qfe = b.qfe := rfl
@[simp] theorem Blk.bwrU_ctx (b : Blk) (f : Bwr → Bwr) : (b.bwrU f).ctx = b.ctx := rfl
@[simp] theorem Blk.bwrU_fen (b : Blk) (f : Bwr → Bwr) : (b.bwrU f).fen = b.fen := rfl
@[simp] theorem Blk.bwrU_evc (b : Blk) (f : Bwr → Bwr) : (b.bwrU f).evc = b.evc := rfl
@[simp] theorem Blk.bwrU_mbx (b : Blk) (f : Bwr → Bwr) : (b.bwrU f).mbx = b.mbx := rfl
@[simp] theorem Blk.bwrU_sch (b : Blk) (f : Bwr → Bwr) : (b.bwrU f).sch = b.sch := rfl
@[simp] theorem Blk.bwrU_mar (b : Blk) (f : Bwr → Bwr) : (b.bwrU f).mar = b.mar := rfl
@[simp] theorem Blk.bwrU_mdl (b : Blk) (f : Bwr → Bwr) : (b.bwrU f).mdl = b.mdl := rfl
@[simp] theorem Blk.bwrU_xlt (b : Blk) (f : Bwr → Bwr) : (b.bwrU f).xlt = b.xlt := rfl
@[simp] theorem Blk.bwrU_tre (b : Blk) (f : Bwr → Bwr) : (b.bwrU f).tre = b.tre := rfl
@[simp] theorem Blk.bwrU_bwr (b : Blk) (f : Bwr → Bwr) : (b.bwrU f).bwr = f b.bwr := rfl
@[simp] theorem Blk.bwrU_lmf (b : Blk) (f : Bwr → Bwr) : (b.bwrU f).lmf = b.lmf := rfl
@[simp] theorem Blk.bwrU_rcv (b : Blk) (f : Bwr → Bwr) : (b.bwrU f).rcv = b.rcv := rfl
@[simp] theorem Blk.bwrU_trc (b : Blk) (f : Bwr → Bwr) : (b.bwrU f).trc = b.trc := rfl
@[simp] theorem Blk.bwrU_slices (b : Blk) (f : Bwr → Bwr) : (b.bwrU f).slices = b.slices := rfl
@[simp] theorem Blk.bwrU_partitions (b : Blk) (f : Bwr → Bwr) : (b.bwrU f).partitions = b.partitions := rfl
@[simp] theorem Blk.bwrU_contexts (b : Blk) (f : Bwr → Bwr) : (b.bwrU f).contexts = b.contexts := rfl
@[simp] theorem Blk.bwrU_queues (b : Blk) (f : Bwr → Bwr) : (b.bwrU f).queues = b.queues := rfl
@[simp] theorem Blk.bwrU_items (b : Blk) (f : Bwr → Bwr) : (b.bwrU f).items = b.items := rfl
@[simp] theorem Blk.bwrU_views (b : Blk) (f : Bwr → Bwr) : (b.bwrU f).views = b.views := rfl

@[simp] theorem Blk.rcvU_ft (b : Blk) (f : Rcv → Rcv) : (b.rcvU f).ft = b.ft := rfl
@[simp] theorem Blk.rcvU_free (b : Blk) (f : Rcv → Rcv) : (b.rcvU f).free = b.free := rfl
@[simp] theorem Blk.rcvU_out (b : Blk) (f : Rcv → Rcv) : (b.rcvU f).out = b.out := rfl
@[simp] theorem Blk.rcvU_readOut (b : Blk) (f : Rcv → Rcv) : (b.rcvU f).readOut = b.readOut := rfl
@[simp] theorem Blk.rcvU_mem (b : Blk) (f : Rcv → Rcv) : (b.rcvU f).mem = b.mem := rfl
@[simp] theorem Blk.rcvU_uncorr (b : Blk) (f : Rcv → Rcv) : (b.rcvU f).uncorr = b.uncorr := rfl
@[simp] theorem Blk.rcvU_own (b : Blk) (f : Rcv → Rcv) : (b.rcvU f).own = b.own := rfl
@[simp] theorem Blk.rcvU_pages (b : Blk) (f : Rcv → Rcv) : (b.rcvU f).pages = b.pages := rfl
@[simp] theorem Blk.rcvU_latches (b : Blk) (f : Rcv → Rcv) : (b.rcvU f).latches = b.latches := rfl
@[simp] theorem Blk.rcvU_chip (b : Blk) (f : Rcv → Rcv) : (b.rcvU f).chip = b.chip := rfl
@[simp] theorem Blk.rcvU_pwr (b : Blk) (f : Rcv → Rcv) : (b.rcvU f).pwr = b.pwr := rfl
@[simp] theorem Blk.rcvU_sec (b : Blk) (f : Rcv → Rcv) : (b.rcvU f).sec = b.sec := rfl
@[simp] theorem Blk.rcvU_hlu (b : Blk) (f : Rcv → Rcv) : (b.rcvU f).hlu = b.hlu := rfl
@[simp] theorem Blk.rcvU_qfe (b : Blk) (f : Rcv → Rcv) : (b.rcvU f).qfe = b.qfe := rfl
@[simp] theorem Blk.rcvU_ctx (b : Blk) (f : Rcv → Rcv) : (b.rcvU f).ctx = b.ctx := rfl
@[simp] theorem Blk.rcvU_fen (b : Blk) (f : Rcv → Rcv) : (b.rcvU f).fen = b.fen := rfl
@[simp] theorem Blk.rcvU_evc (b : Blk) (f : Rcv → Rcv) : (b.rcvU f).evc = b.evc := rfl
@[simp] theorem Blk.rcvU_mbx (b : Blk) (f : Rcv → Rcv) : (b.rcvU f).mbx = b.mbx := rfl
@[simp] theorem Blk.rcvU_sch (b : Blk) (f : Rcv → Rcv) : (b.rcvU f).sch = b.sch := rfl
@[simp] theorem Blk.rcvU_mar (b : Blk) (f : Rcv → Rcv) : (b.rcvU f).mar = b.mar := rfl
@[simp] theorem Blk.rcvU_mdl (b : Blk) (f : Rcv → Rcv) : (b.rcvU f).mdl = b.mdl := rfl
@[simp] theorem Blk.rcvU_xlt (b : Blk) (f : Rcv → Rcv) : (b.rcvU f).xlt = b.xlt := rfl
@[simp] theorem Blk.rcvU_tre (b : Blk) (f : Rcv → Rcv) : (b.rcvU f).tre = b.tre := rfl
@[simp] theorem Blk.rcvU_bwr (b : Blk) (f : Rcv → Rcv) : (b.rcvU f).bwr = b.bwr := rfl
@[simp] theorem Blk.rcvU_lmf (b : Blk) (f : Rcv → Rcv) : (b.rcvU f).lmf = b.lmf := rfl
@[simp] theorem Blk.rcvU_rcv (b : Blk) (f : Rcv → Rcv) : (b.rcvU f).rcv = f b.rcv := rfl
@[simp] theorem Blk.rcvU_trc (b : Blk) (f : Rcv → Rcv) : (b.rcvU f).trc = b.trc := rfl
@[simp] theorem Blk.rcvU_slices (b : Blk) (f : Rcv → Rcv) : (b.rcvU f).slices = b.slices := rfl
@[simp] theorem Blk.rcvU_partitions (b : Blk) (f : Rcv → Rcv) : (b.rcvU f).partitions = b.partitions := rfl
@[simp] theorem Blk.rcvU_contexts (b : Blk) (f : Rcv → Rcv) : (b.rcvU f).contexts = b.contexts := rfl
@[simp] theorem Blk.rcvU_queues (b : Blk) (f : Rcv → Rcv) : (b.rcvU f).queues = b.queues := rfl
@[simp] theorem Blk.rcvU_items (b : Blk) (f : Rcv → Rcv) : (b.rcvU f).items = b.items := rfl
@[simp] theorem Blk.rcvU_views (b : Blk) (f : Rcv → Rcv) : (b.rcvU f).views = b.views := rfl

@[simp] theorem Blk.trcU_ft (b : Blk) (f : Trc → Trc) : (b.trcU f).ft = b.ft := rfl
@[simp] theorem Blk.trcU_free (b : Blk) (f : Trc → Trc) : (b.trcU f).free = b.free := rfl
@[simp] theorem Blk.trcU_out (b : Blk) (f : Trc → Trc) : (b.trcU f).out = b.out := rfl
@[simp] theorem Blk.trcU_readOut (b : Blk) (f : Trc → Trc) : (b.trcU f).readOut = b.readOut := rfl
@[simp] theorem Blk.trcU_mem (b : Blk) (f : Trc → Trc) : (b.trcU f).mem = b.mem := rfl
@[simp] theorem Blk.trcU_uncorr (b : Blk) (f : Trc → Trc) : (b.trcU f).uncorr = b.uncorr := rfl
@[simp] theorem Blk.trcU_own (b : Blk) (f : Trc → Trc) : (b.trcU f).own = b.own := rfl
@[simp] theorem Blk.trcU_pages (b : Blk) (f : Trc → Trc) : (b.trcU f).pages = b.pages := rfl
@[simp] theorem Blk.trcU_latches (b : Blk) (f : Trc → Trc) : (b.trcU f).latches = b.latches := rfl
@[simp] theorem Blk.trcU_chip (b : Blk) (f : Trc → Trc) : (b.trcU f).chip = b.chip := rfl
@[simp] theorem Blk.trcU_pwr (b : Blk) (f : Trc → Trc) : (b.trcU f).pwr = b.pwr := rfl
@[simp] theorem Blk.trcU_sec (b : Blk) (f : Trc → Trc) : (b.trcU f).sec = b.sec := rfl
@[simp] theorem Blk.trcU_hlu (b : Blk) (f : Trc → Trc) : (b.trcU f).hlu = b.hlu := rfl
@[simp] theorem Blk.trcU_qfe (b : Blk) (f : Trc → Trc) : (b.trcU f).qfe = b.qfe := rfl
@[simp] theorem Blk.trcU_ctx (b : Blk) (f : Trc → Trc) : (b.trcU f).ctx = b.ctx := rfl
@[simp] theorem Blk.trcU_fen (b : Blk) (f : Trc → Trc) : (b.trcU f).fen = b.fen := rfl
@[simp] theorem Blk.trcU_evc (b : Blk) (f : Trc → Trc) : (b.trcU f).evc = b.evc := rfl
@[simp] theorem Blk.trcU_mbx (b : Blk) (f : Trc → Trc) : (b.trcU f).mbx = b.mbx := rfl
@[simp] theorem Blk.trcU_sch (b : Blk) (f : Trc → Trc) : (b.trcU f).sch = b.sch := rfl
@[simp] theorem Blk.trcU_mar (b : Blk) (f : Trc → Trc) : (b.trcU f).mar = b.mar := rfl
@[simp] theorem Blk.trcU_mdl (b : Blk) (f : Trc → Trc) : (b.trcU f).mdl = b.mdl := rfl
@[simp] theorem Blk.trcU_xlt (b : Blk) (f : Trc → Trc) : (b.trcU f).xlt = b.xlt := rfl
@[simp] theorem Blk.trcU_tre (b : Blk) (f : Trc → Trc) : (b.trcU f).tre = b.tre := rfl
@[simp] theorem Blk.trcU_bwr (b : Blk) (f : Trc → Trc) : (b.trcU f).bwr = b.bwr := rfl
@[simp] theorem Blk.trcU_lmf (b : Blk) (f : Trc → Trc) : (b.trcU f).lmf = b.lmf := rfl
@[simp] theorem Blk.trcU_rcv (b : Blk) (f : Trc → Trc) : (b.trcU f).rcv = b.rcv := rfl
@[simp] theorem Blk.trcU_trc (b : Blk) (f : Trc → Trc) : (b.trcU f).trc = f b.trc := rfl
@[simp] theorem Blk.trcU_slices (b : Blk) (f : Trc → Trc) : (b.trcU f).slices = b.slices := rfl
@[simp] theorem Blk.trcU_partitions (b : Blk) (f : Trc → Trc) : (b.trcU f).partitions = b.partitions := rfl
@[simp] theorem Blk.trcU_contexts (b : Blk) (f : Trc → Trc) : (b.trcU f).contexts = b.contexts := rfl
@[simp] theorem Blk.trcU_queues (b : Blk) (f : Trc → Trc) : (b.trcU f).queues = b.queues := rfl
@[simp] theorem Blk.trcU_items (b : Blk) (f : Trc → Trc) : (b.trcU f).items = b.items := rfl
@[simp] theorem Blk.trcU_views (b : Blk) (f : Trc → Trc) : (b.trcU f).views = b.views := rfl

@[simp] theorem Blk.secU_ft (b : Blk) (f : Sec → Sec) : (b.secU f).ft = b.ft := rfl
@[simp] theorem Blk.secU_free (b : Blk) (f : Sec → Sec) : (b.secU f).free = b.free := rfl
@[simp] theorem Blk.secU_out (b : Blk) (f : Sec → Sec) : (b.secU f).out = b.out := rfl
@[simp] theorem Blk.secU_readOut (b : Blk) (f : Sec → Sec) : (b.secU f).readOut = b.readOut := rfl
@[simp] theorem Blk.secU_mem (b : Blk) (f : Sec → Sec) : (b.secU f).mem = b.mem := rfl
@[simp] theorem Blk.secU_uncorr (b : Blk) (f : Sec → Sec) : (b.secU f).uncorr = b.uncorr := rfl
@[simp] theorem Blk.secU_own (b : Blk) (f : Sec → Sec) : (b.secU f).own = b.own := rfl
@[simp] theorem Blk.secU_pages (b : Blk) (f : Sec → Sec) : (b.secU f).pages = b.pages := rfl
@[simp] theorem Blk.secU_latches (b : Blk) (f : Sec → Sec) : (b.secU f).latches = b.latches := rfl
@[simp] theorem Blk.secU_chip (b : Blk) (f : Sec → Sec) : (b.secU f).chip = b.chip := rfl
@[simp] theorem Blk.secU_pwr (b : Blk) (f : Sec → Sec) : (b.secU f).pwr = b.pwr := rfl
@[simp] theorem Blk.secU_sec (b : Blk) (f : Sec → Sec) : (b.secU f).sec = f b.sec := rfl
@[simp] theorem Blk.secU_hlu (b : Blk) (f : Sec → Sec) : (b.secU f).hlu = b.hlu := rfl
@[simp] theorem Blk.secU_qfe (b : Blk) (f : Sec → Sec) : (b.secU f).qfe = b.qfe := rfl
@[simp] theorem Blk.secU_ctx (b : Blk) (f : Sec → Sec) : (b.secU f).ctx = b.ctx := rfl
@[simp] theorem Blk.secU_fen (b : Blk) (f : Sec → Sec) : (b.secU f).fen = b.fen := rfl
@[simp] theorem Blk.secU_evc (b : Blk) (f : Sec → Sec) : (b.secU f).evc = b.evc := rfl
@[simp] theorem Blk.secU_mbx (b : Blk) (f : Sec → Sec) : (b.secU f).mbx = b.mbx := rfl
@[simp] theorem Blk.secU_sch (b : Blk) (f : Sec → Sec) : (b.secU f).sch = b.sch := rfl
@[simp] theorem Blk.secU_mar (b : Blk) (f : Sec → Sec) : (b.secU f).mar = b.mar := rfl
@[simp] theorem Blk.secU_mdl (b : Blk) (f : Sec → Sec) : (b.secU f).mdl = b.mdl := rfl
@[simp] theorem Blk.secU_xlt (b : Blk) (f : Sec → Sec) : (b.secU f).xlt = b.xlt := rfl
@[simp] theorem Blk.secU_tre (b : Blk) (f : Sec → Sec) : (b.secU f).tre = b.tre := rfl
@[simp] theorem Blk.secU_bwr (b : Blk) (f : Sec → Sec) : (b.secU f).bwr = b.bwr := rfl
@[simp] theorem Blk.secU_lmf (b : Blk) (f : Sec → Sec) : (b.secU f).lmf = b.lmf := rfl
@[simp] theorem Blk.secU_rcv (b : Blk) (f : Sec → Sec) : (b.secU f).rcv = b.rcv := rfl
@[simp] theorem Blk.secU_trc (b : Blk) (f : Sec → Sec) : (b.secU f).trc = b.trc := rfl
@[simp] theorem Blk.secU_slices (b : Blk) (f : Sec → Sec) : (b.secU f).slices = b.slices := rfl
@[simp] theorem Blk.secU_partitions (b : Blk) (f : Sec → Sec) : (b.secU f).partitions = b.partitions := rfl
@[simp] theorem Blk.secU_contexts (b : Blk) (f : Sec → Sec) : (b.secU f).contexts = b.contexts := rfl
@[simp] theorem Blk.secU_queues (b : Blk) (f : Sec → Sec) : (b.secU f).queues = b.queues := rfl
@[simp] theorem Blk.secU_items (b : Blk) (f : Sec → Sec) : (b.secU f).items = b.items := rfl
@[simp] theorem Blk.secU_views (b : Blk) (f : Sec → Sec) : (b.secU f).views = b.views := rfl

@[simp] theorem Blk.pwrU_ft (b : Blk) (f : Pwr → Pwr) : (b.pwrU f).ft = b.ft := rfl
@[simp] theorem Blk.pwrU_free (b : Blk) (f : Pwr → Pwr) : (b.pwrU f).free = b.free := rfl
@[simp] theorem Blk.pwrU_out (b : Blk) (f : Pwr → Pwr) : (b.pwrU f).out = b.out := rfl
@[simp] theorem Blk.pwrU_readOut (b : Blk) (f : Pwr → Pwr) : (b.pwrU f).readOut = b.readOut := rfl
@[simp] theorem Blk.pwrU_mem (b : Blk) (f : Pwr → Pwr) : (b.pwrU f).mem = b.mem := rfl
@[simp] theorem Blk.pwrU_uncorr (b : Blk) (f : Pwr → Pwr) : (b.pwrU f).uncorr = b.uncorr := rfl
@[simp] theorem Blk.pwrU_own (b : Blk) (f : Pwr → Pwr) : (b.pwrU f).own = b.own := rfl
@[simp] theorem Blk.pwrU_pages (b : Blk) (f : Pwr → Pwr) : (b.pwrU f).pages = b.pages := rfl
@[simp] theorem Blk.pwrU_latches (b : Blk) (f : Pwr → Pwr) : (b.pwrU f).latches = b.latches := rfl
@[simp] theorem Blk.pwrU_chip (b : Blk) (f : Pwr → Pwr) : (b.pwrU f).chip = b.chip := rfl
@[simp] theorem Blk.pwrU_pwr (b : Blk) (f : Pwr → Pwr) : (b.pwrU f).pwr = f b.pwr := rfl
@[simp] theorem Blk.pwrU_sec (b : Blk) (f : Pwr → Pwr) : (b.pwrU f).sec = b.sec := rfl
@[simp] theorem Blk.pwrU_hlu (b : Blk) (f : Pwr → Pwr) : (b.pwrU f).hlu = b.hlu := rfl
@[simp] theorem Blk.pwrU_qfe (b : Blk) (f : Pwr → Pwr) : (b.pwrU f).qfe = b.qfe := rfl
@[simp] theorem Blk.pwrU_ctx (b : Blk) (f : Pwr → Pwr) : (b.pwrU f).ctx = b.ctx := rfl
@[simp] theorem Blk.pwrU_fen (b : Blk) (f : Pwr → Pwr) : (b.pwrU f).fen = b.fen := rfl
@[simp] theorem Blk.pwrU_evc (b : Blk) (f : Pwr → Pwr) : (b.pwrU f).evc = b.evc := rfl
@[simp] theorem Blk.pwrU_mbx (b : Blk) (f : Pwr → Pwr) : (b.pwrU f).mbx = b.mbx := rfl
@[simp] theorem Blk.pwrU_sch (b : Blk) (f : Pwr → Pwr) : (b.pwrU f).sch = b.sch := rfl
@[simp] theorem Blk.pwrU_mar (b : Blk) (f : Pwr → Pwr) : (b.pwrU f).mar = b.mar := rfl
@[simp] theorem Blk.pwrU_mdl (b : Blk) (f : Pwr → Pwr) : (b.pwrU f).mdl = b.mdl := rfl
@[simp] theorem Blk.pwrU_xlt (b : Blk) (f : Pwr → Pwr) : (b.pwrU f).xlt = b.xlt := rfl
@[simp] theorem Blk.pwrU_tre (b : Blk) (f : Pwr → Pwr) : (b.pwrU f).tre = b.tre := rfl
@[simp] theorem Blk.pwrU_bwr (b : Blk) (f : Pwr → Pwr) : (b.pwrU f).bwr = b.bwr := rfl
@[simp] theorem Blk.pwrU_lmf (b : Blk) (f : Pwr → Pwr) : (b.pwrU f).lmf = b.lmf := rfl
@[simp] theorem Blk.pwrU_rcv (b : Blk) (f : Pwr → Pwr) : (b.pwrU f).rcv = b.rcv := rfl
@[simp] theorem Blk.pwrU_trc (b : Blk) (f : Pwr → Pwr) : (b.pwrU f).trc = b.trc := rfl
@[simp] theorem Blk.pwrU_slices (b : Blk) (f : Pwr → Pwr) : (b.pwrU f).slices = b.slices := rfl
@[simp] theorem Blk.pwrU_partitions (b : Blk) (f : Pwr → Pwr) : (b.pwrU f).partitions = b.partitions := rfl
@[simp] theorem Blk.pwrU_contexts (b : Blk) (f : Pwr → Pwr) : (b.pwrU f).contexts = b.contexts := rfl
@[simp] theorem Blk.pwrU_queues (b : Blk) (f : Pwr → Pwr) : (b.pwrU f).queues = b.queues := rfl
@[simp] theorem Blk.pwrU_items (b : Blk) (f : Pwr → Pwr) : (b.pwrU f).items = b.items := rfl
@[simp] theorem Blk.pwrU_views (b : Blk) (f : Pwr → Pwr) : (b.pwrU f).views = b.views := rfl

@[simp] theorem Blk.hluU_ft (b : Blk) (f : Hlu → Hlu) : (b.hluU f).ft = b.ft := rfl
@[simp] theorem Blk.hluU_free (b : Blk) (f : Hlu → Hlu) : (b.hluU f).free = b.free := rfl
@[simp] theorem Blk.hluU_out (b : Blk) (f : Hlu → Hlu) : (b.hluU f).out = b.out := rfl
@[simp] theorem Blk.hluU_readOut (b : Blk) (f : Hlu → Hlu) : (b.hluU f).readOut = b.readOut := rfl
@[simp] theorem Blk.hluU_mem (b : Blk) (f : Hlu → Hlu) : (b.hluU f).mem = b.mem := rfl
@[simp] theorem Blk.hluU_uncorr (b : Blk) (f : Hlu → Hlu) : (b.hluU f).uncorr = b.uncorr := rfl
@[simp] theorem Blk.hluU_own (b : Blk) (f : Hlu → Hlu) : (b.hluU f).own = b.own := rfl
@[simp] theorem Blk.hluU_pages (b : Blk) (f : Hlu → Hlu) : (b.hluU f).pages = b.pages := rfl
@[simp] theorem Blk.hluU_latches (b : Blk) (f : Hlu → Hlu) : (b.hluU f).latches = b.latches := rfl
@[simp] theorem Blk.hluU_chip (b : Blk) (f : Hlu → Hlu) : (b.hluU f).chip = b.chip := rfl
@[simp] theorem Blk.hluU_pwr (b : Blk) (f : Hlu → Hlu) : (b.hluU f).pwr = b.pwr := rfl
@[simp] theorem Blk.hluU_sec (b : Blk) (f : Hlu → Hlu) : (b.hluU f).sec = b.sec := rfl
@[simp] theorem Blk.hluU_hlu (b : Blk) (f : Hlu → Hlu) : (b.hluU f).hlu = f b.hlu := rfl
@[simp] theorem Blk.hluU_qfe (b : Blk) (f : Hlu → Hlu) : (b.hluU f).qfe = b.qfe := rfl
@[simp] theorem Blk.hluU_ctx (b : Blk) (f : Hlu → Hlu) : (b.hluU f).ctx = b.ctx := rfl
@[simp] theorem Blk.hluU_fen (b : Blk) (f : Hlu → Hlu) : (b.hluU f).fen = b.fen := rfl
@[simp] theorem Blk.hluU_evc (b : Blk) (f : Hlu → Hlu) : (b.hluU f).evc = b.evc := rfl
@[simp] theorem Blk.hluU_mbx (b : Blk) (f : Hlu → Hlu) : (b.hluU f).mbx = b.mbx := rfl
@[simp] theorem Blk.hluU_sch (b : Blk) (f : Hlu → Hlu) : (b.hluU f).sch = b.sch := rfl
@[simp] theorem Blk.hluU_mar (b : Blk) (f : Hlu → Hlu) : (b.hluU f).mar = b.mar := rfl
@[simp] theorem Blk.hluU_mdl (b : Blk) (f : Hlu → Hlu) : (b.hluU f).mdl = b.mdl := rfl
@[simp] theorem Blk.hluU_xlt (b : Blk) (f : Hlu → Hlu) : (b.hluU f).xlt = b.xlt := rfl
@[simp] theorem Blk.hluU_tre (b : Blk) (f : Hlu → Hlu) : (b.hluU f).tre = b.tre := rfl
@[simp] theorem Blk.hluU_bwr (b : Blk) (f : Hlu → Hlu) : (b.hluU f).bwr = b.bwr := rfl
@[simp] theorem Blk.hluU_lmf (b : Blk) (f : Hlu → Hlu) : (b.hluU f).lmf = b.lmf := rfl
@[simp] theorem Blk.hluU_rcv (b : Blk) (f : Hlu → Hlu) : (b.hluU f).rcv = b.rcv := rfl
@[simp] theorem Blk.hluU_trc (b : Blk) (f : Hlu → Hlu) : (b.hluU f).trc = b.trc := rfl
@[simp] theorem Blk.hluU_slices (b : Blk) (f : Hlu → Hlu) : (b.hluU f).slices = b.slices := rfl
@[simp] theorem Blk.hluU_partitions (b : Blk) (f : Hlu → Hlu) : (b.hluU f).partitions = b.partitions := rfl
@[simp] theorem Blk.hluU_contexts (b : Blk) (f : Hlu → Hlu) : (b.hluU f).contexts = b.contexts := rfl
@[simp] theorem Blk.hluU_queues (b : Blk) (f : Hlu → Hlu) : (b.hluU f).queues = b.queues := rfl
@[simp] theorem Blk.hluU_items (b : Blk) (f : Hlu → Hlu) : (b.hluU f).items = b.items := rfl
@[simp] theorem Blk.hluU_views (b : Blk) (f : Hlu → Hlu) : (b.hluU f).views = b.views := rfl

@[simp] theorem Blk.qfeU_ft (b : Blk) (f : Qfe → Qfe) : (b.qfeU f).ft = b.ft := rfl
@[simp] theorem Blk.qfeU_free (b : Blk) (f : Qfe → Qfe) : (b.qfeU f).free = b.free := rfl
@[simp] theorem Blk.qfeU_out (b : Blk) (f : Qfe → Qfe) : (b.qfeU f).out = b.out := rfl
@[simp] theorem Blk.qfeU_readOut (b : Blk) (f : Qfe → Qfe) : (b.qfeU f).readOut = b.readOut := rfl
@[simp] theorem Blk.qfeU_mem (b : Blk) (f : Qfe → Qfe) : (b.qfeU f).mem = b.mem := rfl
@[simp] theorem Blk.qfeU_uncorr (b : Blk) (f : Qfe → Qfe) : (b.qfeU f).uncorr = b.uncorr := rfl
@[simp] theorem Blk.qfeU_own (b : Blk) (f : Qfe → Qfe) : (b.qfeU f).own = b.own := rfl
@[simp] theorem Blk.qfeU_pages (b : Blk) (f : Qfe → Qfe) : (b.qfeU f).pages = b.pages := rfl
@[simp] theorem Blk.qfeU_latches (b : Blk) (f : Qfe → Qfe) : (b.qfeU f).latches = b.latches := rfl
@[simp] theorem Blk.qfeU_chip (b : Blk) (f : Qfe → Qfe) : (b.qfeU f).chip = b.chip := rfl
@[simp] theorem Blk.qfeU_pwr (b : Blk) (f : Qfe → Qfe) : (b.qfeU f).pwr = b.pwr := rfl
@[simp] theorem Blk.qfeU_sec (b : Blk) (f : Qfe → Qfe) : (b.qfeU f).sec = b.sec := rfl
@[simp] theorem Blk.qfeU_hlu (b : Blk) (f : Qfe → Qfe) : (b.qfeU f).hlu = b.hlu := rfl
@[simp] theorem Blk.qfeU_qfe (b : Blk) (f : Qfe → Qfe) : (b.qfeU f).qfe = f b.qfe := rfl
@[simp] theorem Blk.qfeU_ctx (b : Blk) (f : Qfe → Qfe) : (b.qfeU f).ctx = b.ctx := rfl
@[simp] theorem Blk.qfeU_fen (b : Blk) (f : Qfe → Qfe) : (b.qfeU f).fen = b.fen := rfl
@[simp] theorem Blk.qfeU_evc (b : Blk) (f : Qfe → Qfe) : (b.qfeU f).evc = b.evc := rfl
@[simp] theorem Blk.qfeU_mbx (b : Blk) (f : Qfe → Qfe) : (b.qfeU f).mbx = b.mbx := rfl
@[simp] theorem Blk.qfeU_sch (b : Blk) (f : Qfe → Qfe) : (b.qfeU f).sch = b.sch := rfl
@[simp] theorem Blk.qfeU_mar (b : Blk) (f : Qfe → Qfe) : (b.qfeU f).mar = b.mar := rfl
@[simp] theorem Blk.qfeU_mdl (b : Blk) (f : Qfe → Qfe) : (b.qfeU f).mdl = b.mdl := rfl
@[simp] theorem Blk.qfeU_xlt (b : Blk) (f : Qfe → Qfe) : (b.qfeU f).xlt = b.xlt := rfl
@[simp] theorem Blk.qfeU_tre (b : Blk) (f : Qfe → Qfe) : (b.qfeU f).tre = b.tre := rfl
@[simp] theorem Blk.qfeU_bwr (b : Blk) (f : Qfe → Qfe) : (b.qfeU f).bwr = b.bwr := rfl
@[simp] theorem Blk.qfeU_lmf (b : Blk) (f : Qfe → Qfe) : (b.qfeU f).lmf = b.lmf := rfl
@[simp] theorem Blk.qfeU_rcv (b : Blk) (f : Qfe → Qfe) : (b.qfeU f).rcv = b.rcv := rfl
@[simp] theorem Blk.qfeU_trc (b : Blk) (f : Qfe → Qfe) : (b.qfeU f).trc = b.trc := rfl
@[simp] theorem Blk.qfeU_slices (b : Blk) (f : Qfe → Qfe) : (b.qfeU f).slices = b.slices := rfl
@[simp] theorem Blk.qfeU_partitions (b : Blk) (f : Qfe → Qfe) : (b.qfeU f).partitions = b.partitions := rfl
@[simp] theorem Blk.qfeU_contexts (b : Blk) (f : Qfe → Qfe) : (b.qfeU f).contexts = b.contexts := rfl
@[simp] theorem Blk.qfeU_queues (b : Blk) (f : Qfe → Qfe) : (b.qfeU f).queues = b.queues := rfl
@[simp] theorem Blk.qfeU_items (b : Blk) (f : Qfe → Qfe) : (b.qfeU f).items = b.items := rfl
@[simp] theorem Blk.qfeU_views (b : Blk) (f : Qfe → Qfe) : (b.qfeU f).views = b.views := rfl

@[simp] theorem Blk.ownU_ft (b : Blk) (f : Own → Own) : (b.ownU f).ft = b.ft := rfl
@[simp] theorem Blk.ownU_free (b : Blk) (f : Own → Own) : (b.ownU f).free = b.free := rfl
@[simp] theorem Blk.ownU_out (b : Blk) (f : Own → Own) : (b.ownU f).out = b.out := rfl
@[simp] theorem Blk.ownU_readOut (b : Blk) (f : Own → Own) : (b.ownU f).readOut = b.readOut := rfl
@[simp] theorem Blk.ownU_mem (b : Blk) (f : Own → Own) : (b.ownU f).mem = b.mem := rfl
@[simp] theorem Blk.ownU_uncorr (b : Blk) (f : Own → Own) : (b.ownU f).uncorr = b.uncorr := rfl
@[simp] theorem Blk.ownU_own (b : Blk) (f : Own → Own) : (b.ownU f).own = f b.own := rfl
@[simp] theorem Blk.ownU_pages (b : Blk) (f : Own → Own) : (b.ownU f).pages = b.pages := rfl
@[simp] theorem Blk.ownU_latches (b : Blk) (f : Own → Own) : (b.ownU f).latches = b.latches := rfl
@[simp] theorem Blk.ownU_chip (b : Blk) (f : Own → Own) : (b.ownU f).chip = b.chip := rfl
@[simp] theorem Blk.ownU_pwr (b : Blk) (f : Own → Own) : (b.ownU f).pwr = b.pwr := rfl
@[simp] theorem Blk.ownU_sec (b : Blk) (f : Own → Own) : (b.ownU f).sec = b.sec := rfl
@[simp] theorem Blk.ownU_hlu (b : Blk) (f : Own → Own) : (b.ownU f).hlu = b.hlu := rfl
@[simp] theorem Blk.ownU_qfe (b : Blk) (f : Own → Own) : (b.ownU f).qfe = b.qfe := rfl
@[simp] theorem Blk.ownU_ctx (b : Blk) (f : Own → Own) : (b.ownU f).ctx = b.ctx := rfl
@[simp] theorem Blk.ownU_fen (b : Blk) (f : Own → Own) : (b.ownU f).fen = b.fen := rfl
@[simp] theorem Blk.ownU_evc (b : Blk) (f : Own → Own) : (b.ownU f).evc = b.evc := rfl
@[simp] theorem Blk.ownU_mbx (b : Blk) (f : Own → Own) : (b.ownU f).mbx = b.mbx := rfl
@[simp] theorem Blk.ownU_sch (b : Blk) (f : Own → Own) : (b.ownU f).sch = b.sch := rfl
@[simp] theorem Blk.ownU_mar (b : Blk) (f : Own → Own) : (b.ownU f).mar = b.mar := rfl
@[simp] theorem Blk.ownU_mdl (b : Blk) (f : Own → Own) : (b.ownU f).mdl = b.mdl := rfl
@[simp] theorem Blk.ownU_xlt (b : Blk) (f : Own → Own) : (b.ownU f).xlt = b.xlt := rfl
@[simp] theorem Blk.ownU_tre (b : Blk) (f : Own → Own) : (b.ownU f).tre = b.tre := rfl
@[simp] theorem Blk.ownU_bwr (b : Blk) (f : Own → Own) : (b.ownU f).bwr = b.bwr := rfl
@[simp] theorem Blk.ownU_lmf (b : Blk) (f : Own → Own) : (b.ownU f).lmf = b.lmf := rfl
@[simp] theorem Blk.ownU_rcv (b : Blk) (f : Own → Own) : (b.ownU f).rcv = b.rcv := rfl
@[simp] theorem Blk.ownU_trc (b : Blk) (f : Own → Own) : (b.ownU f).trc = b.trc := rfl
@[simp] theorem Blk.ownU_slices (b : Blk) (f : Own → Own) : (b.ownU f).slices = b.slices := rfl
@[simp] theorem Blk.ownU_partitions (b : Blk) (f : Own → Own) : (b.ownU f).partitions = b.partitions := rfl
@[simp] theorem Blk.ownU_contexts (b : Blk) (f : Own → Own) : (b.ownU f).contexts = b.contexts := rfl
@[simp] theorem Blk.ownU_queues (b : Blk) (f : Own → Own) : (b.ownU f).queues = b.queues := rfl
@[simp] theorem Blk.ownU_items (b : Blk) (f : Own → Own) : (b.ownU f).items = b.items := rfl
@[simp] theorem Blk.ownU_views (b : Blk) (f : Own → Own) : (b.ownU f).views = b.views := rfl

/-! ## Updates of one entry -/

@[simp] theorem Blk.emit_ft (b : Blk) (o : Out) : (b.emit o).ft = b.ft := rfl
@[simp] theorem Blk.emit_free (b : Blk) (o : Out) : (b.emit o).free = b.free := rfl
@[simp] theorem Blk.emit_out (b : Blk) (o : Out) : (b.emit o).out = b.out ++ [o] := rfl
@[simp] theorem Blk.emit_readOut (b : Blk) (o : Out) : (b.emit o).readOut = b.readOut := rfl
@[simp] theorem Blk.emit_mem (b : Blk) (o : Out) : (b.emit o).mem = b.mem := rfl
@[simp] theorem Blk.emit_uncorr (b : Blk) (o : Out) : (b.emit o).uncorr = b.uncorr := rfl
@[simp] theorem Blk.emit_own (b : Blk) (o : Out) : (b.emit o).own = b.own := rfl
@[simp] theorem Blk.emit_pages (b : Blk) (o : Out) : (b.emit o).pages = b.pages := rfl
@[simp] theorem Blk.emit_latches (b : Blk) (o : Out) : (b.emit o).latches = b.latches := rfl
@[simp] theorem Blk.emit_chip (b : Blk) (o : Out) : (b.emit o).chip = b.chip := rfl
@[simp] theorem Blk.emit_pwr (b : Blk) (o : Out) : (b.emit o).pwr = b.pwr := rfl
@[simp] theorem Blk.emit_sec (b : Blk) (o : Out) : (b.emit o).sec = b.sec := rfl
@[simp] theorem Blk.emit_hlu (b : Blk) (o : Out) : (b.emit o).hlu = b.hlu := rfl
@[simp] theorem Blk.emit_qfe (b : Blk) (o : Out) : (b.emit o).qfe = b.qfe := rfl
@[simp] theorem Blk.emit_ctx (b : Blk) (o : Out) : (b.emit o).ctx = b.ctx := rfl
@[simp] theorem Blk.emit_fen (b : Blk) (o : Out) : (b.emit o).fen = b.fen := rfl
@[simp] theorem Blk.emit_evc (b : Blk) (o : Out) : (b.emit o).evc = b.evc := rfl
@[simp] theorem Blk.emit_mbx (b : Blk) (o : Out) : (b.emit o).mbx = b.mbx := rfl
@[simp] theorem Blk.emit_sch (b : Blk) (o : Out) : (b.emit o).sch = b.sch := rfl
@[simp] theorem Blk.emit_mar (b : Blk) (o : Out) : (b.emit o).mar = b.mar := rfl
@[simp] theorem Blk.emit_mdl (b : Blk) (o : Out) : (b.emit o).mdl = b.mdl := rfl
@[simp] theorem Blk.emit_xlt (b : Blk) (o : Out) : (b.emit o).xlt = b.xlt := rfl
@[simp] theorem Blk.emit_tre (b : Blk) (o : Out) : (b.emit o).tre = b.tre := rfl
@[simp] theorem Blk.emit_bwr (b : Blk) (o : Out) : (b.emit o).bwr = b.bwr := rfl
@[simp] theorem Blk.emit_lmf (b : Blk) (o : Out) : (b.emit o).lmf = b.lmf := rfl
@[simp] theorem Blk.emit_rcv (b : Blk) (o : Out) : (b.emit o).rcv = b.rcv := rfl
@[simp] theorem Blk.emit_trc (b : Blk) (o : Out) : (b.emit o).trc = b.trc := rfl
@[simp] theorem Blk.emit_slices (b : Blk) (o : Out) : (b.emit o).slices = b.slices := rfl
@[simp] theorem Blk.emit_partitions (b : Blk) (o : Out) : (b.emit o).partitions = b.partitions := rfl
@[simp] theorem Blk.emit_contexts (b : Blk) (o : Out) : (b.emit o).contexts = b.contexts := rfl
@[simp] theorem Blk.emit_queues (b : Blk) (o : Out) : (b.emit o).queues = b.queues := rfl
@[simp] theorem Blk.emit_items (b : Blk) (o : Out) : (b.emit o).items = b.items := rfl
@[simp] theorem Blk.emit_views (b : Blk) (o : Out) : (b.emit o).views = b.views := rfl

@[simp] theorem Blk.updItem_ft (b : Blk) (i : Nat) (f : Item → Item) : (b.updItem i f).ft = b.ft := rfl
@[simp] theorem Blk.updItem_free (b : Blk) (i : Nat) (f : Item → Item) : (b.updItem i f).free = b.free := rfl
@[simp] theorem Blk.updItem_out (b : Blk) (i : Nat) (f : Item → Item) : (b.updItem i f).out = b.out := rfl
@[simp] theorem Blk.updItem_readOut (b : Blk) (i : Nat) (f : Item → Item) : (b.updItem i f).readOut = b.readOut := rfl
@[simp] theorem Blk.updItem_mem (b : Blk) (i : Nat) (f : Item → Item) : (b.updItem i f).mem = b.mem := rfl
@[simp] theorem Blk.updItem_uncorr (b : Blk) (i : Nat) (f : Item → Item) : (b.updItem i f).uncorr = b.uncorr := rfl
@[simp] theorem Blk.updItem_own (b : Blk) (i : Nat) (f : Item → Item) : (b.updItem i f).own = b.own := rfl
@[simp] theorem Blk.updItem_pages (b : Blk) (i : Nat) (f : Item → Item) : (b.updItem i f).pages = b.pages := rfl
@[simp] theorem Blk.updItem_latches (b : Blk) (i : Nat) (f : Item → Item) : (b.updItem i f).latches = b.latches := rfl
@[simp] theorem Blk.updItem_chip (b : Blk) (i : Nat) (f : Item → Item) : (b.updItem i f).chip = b.chip := rfl
@[simp] theorem Blk.updItem_pwr (b : Blk) (i : Nat) (f : Item → Item) : (b.updItem i f).pwr = b.pwr := rfl
@[simp] theorem Blk.updItem_sec (b : Blk) (i : Nat) (f : Item → Item) : (b.updItem i f).sec = b.sec := rfl
@[simp] theorem Blk.updItem_hlu (b : Blk) (i : Nat) (f : Item → Item) : (b.updItem i f).hlu = b.hlu := rfl
@[simp] theorem Blk.updItem_qfe (b : Blk) (i : Nat) (f : Item → Item) : (b.updItem i f).qfe = b.qfe := rfl
@[simp] theorem Blk.updItem_ctx (b : Blk) (i : Nat) (f : Item → Item) : (b.updItem i f).ctx = b.ctx := rfl
@[simp] theorem Blk.updItem_fen (b : Blk) (i : Nat) (f : Item → Item) : (b.updItem i f).fen = b.fen := rfl
@[simp] theorem Blk.updItem_evc (b : Blk) (i : Nat) (f : Item → Item) : (b.updItem i f).evc = b.evc := rfl
@[simp] theorem Blk.updItem_mbx (b : Blk) (i : Nat) (f : Item → Item) : (b.updItem i f).mbx = b.mbx := rfl
@[simp] theorem Blk.updItem_sch (b : Blk) (i : Nat) (f : Item → Item) : (b.updItem i f).sch = b.sch := rfl
@[simp] theorem Blk.updItem_mar (b : Blk) (i : Nat) (f : Item → Item) : (b.updItem i f).mar = b.mar := rfl
@[simp] theorem Blk.updItem_mdl (b : Blk) (i : Nat) (f : Item → Item) : (b.updItem i f).mdl = b.mdl := rfl
@[simp] theorem Blk.updItem_xlt (b : Blk) (i : Nat) (f : Item → Item) : (b.updItem i f).xlt = b.xlt := rfl
@[simp] theorem Blk.updItem_tre (b : Blk) (i : Nat) (f : Item → Item) : (b.updItem i f).tre = b.tre := rfl
@[simp] theorem Blk.updItem_bwr (b : Blk) (i : Nat) (f : Item → Item) : (b.updItem i f).bwr = b.bwr := rfl
@[simp] theorem Blk.updItem_lmf (b : Blk) (i : Nat) (f : Item → Item) : (b.updItem i f).lmf = b.lmf := rfl
@[simp] theorem Blk.updItem_rcv (b : Blk) (i : Nat) (f : Item → Item) : (b.updItem i f).rcv = b.rcv := rfl
@[simp] theorem Blk.updItem_trc (b : Blk) (i : Nat) (f : Item → Item) : (b.updItem i f).trc = b.trc := rfl
@[simp] theorem Blk.updItem_slices (b : Blk) (i : Nat) (f : Item → Item) : (b.updItem i f).slices = b.slices := rfl
@[simp] theorem Blk.updItem_partitions (b : Blk) (i : Nat) (f : Item → Item) : (b.updItem i f).partitions = b.partitions := rfl
@[simp] theorem Blk.updItem_contexts (b : Blk) (i : Nat) (f : Item → Item) : (b.updItem i f).contexts = b.contexts := rfl
@[simp] theorem Blk.updItem_queues (b : Blk) (i : Nat) (f : Item → Item) : (b.updItem i f).queues = b.queues := rfl
@[simp] theorem Blk.updItem_items (b : Blk) (i : Nat) (f : Item → Item) : (b.updItem i f).items = b.items.upd i f := rfl
@[simp] theorem Blk.updItem_views (b : Blk) (i : Nat) (f : Item → Item) : (b.updItem i f).views = b.views := rfl

@[simp] theorem Blk.updQueue_ft (b : Blk) (i : Nat) (f : Queue → Queue) : (b.updQueue i f).ft = b.ft := rfl
@[simp] theorem Blk.updQueue_free (b : Blk) (i : Nat) (f : Queue → Queue) : (b.updQueue i f).free = b.free := rfl
@[simp] theorem Blk.updQueue_out (b : Blk) (i : Nat) (f : Queue → Queue) : (b.updQueue i f).out = b.out := rfl
@[simp] theorem Blk.updQueue_readOut (b : Blk) (i : Nat) (f : Queue → Queue) : (b.updQueue i f).readOut = b.readOut := rfl
@[simp] theorem Blk.updQueue_mem (b : Blk) (i : Nat) (f : Queue → Queue) : (b.updQueue i f).mem = b.mem := rfl
@[simp] theorem Blk.updQueue_uncorr (b : Blk) (i : Nat) (f : Queue → Queue) : (b.updQueue i f).uncorr = b.uncorr := rfl
@[simp] theorem Blk.updQueue_own (b : Blk) (i : Nat) (f : Queue → Queue) : (b.updQueue i f).own = b.own := rfl
@[simp] theorem Blk.updQueue_pages (b : Blk) (i : Nat) (f : Queue → Queue) : (b.updQueue i f).pages = b.pages := rfl
@[simp] theorem Blk.updQueue_latches (b : Blk) (i : Nat) (f : Queue → Queue) : (b.updQueue i f).latches = b.latches := rfl
@[simp] theorem Blk.updQueue_chip (b : Blk) (i : Nat) (f : Queue → Queue) : (b.updQueue i f).chip = b.chip := rfl
@[simp] theorem Blk.updQueue_pwr (b : Blk) (i : Nat) (f : Queue → Queue) : (b.updQueue i f).pwr = b.pwr := rfl
@[simp] theorem Blk.updQueue_sec (b : Blk) (i : Nat) (f : Queue → Queue) : (b.updQueue i f).sec = b.sec := rfl
@[simp] theorem Blk.updQueue_hlu (b : Blk) (i : Nat) (f : Queue → Queue) : (b.updQueue i f).hlu = b.hlu := rfl
@[simp] theorem Blk.updQueue_qfe (b : Blk) (i : Nat) (f : Queue → Queue) : (b.updQueue i f).qfe = b.qfe := rfl
@[simp] theorem Blk.updQueue_ctx (b : Blk) (i : Nat) (f : Queue → Queue) : (b.updQueue i f).ctx = b.ctx := rfl
@[simp] theorem Blk.updQueue_fen (b : Blk) (i : Nat) (f : Queue → Queue) : (b.updQueue i f).fen = b.fen := rfl
@[simp] theorem Blk.updQueue_evc (b : Blk) (i : Nat) (f : Queue → Queue) : (b.updQueue i f).evc = b.evc := rfl
@[simp] theorem Blk.updQueue_mbx (b : Blk) (i : Nat) (f : Queue → Queue) : (b.updQueue i f).mbx = b.mbx := rfl
@[simp] theorem Blk.updQueue_sch (b : Blk) (i : Nat) (f : Queue → Queue) : (b.updQueue i f).sch = b.sch := rfl
@[simp] theorem Blk.updQueue_mar (b : Blk) (i : Nat) (f : Queue → Queue) : (b.updQueue i f).mar = b.mar := rfl
@[simp] theorem Blk.updQueue_mdl (b : Blk) (i : Nat) (f : Queue → Queue) : (b.updQueue i f).mdl = b.mdl := rfl
@[simp] theorem Blk.updQueue_xlt (b : Blk) (i : Nat) (f : Queue → Queue) : (b.updQueue i f).xlt = b.xlt := rfl
@[simp] theorem Blk.updQueue_tre (b : Blk) (i : Nat) (f : Queue → Queue) : (b.updQueue i f).tre = b.tre := rfl
@[simp] theorem Blk.updQueue_bwr (b : Blk) (i : Nat) (f : Queue → Queue) : (b.updQueue i f).bwr = b.bwr := rfl
@[simp] theorem Blk.updQueue_lmf (b : Blk) (i : Nat) (f : Queue → Queue) : (b.updQueue i f).lmf = b.lmf := rfl
@[simp] theorem Blk.updQueue_rcv (b : Blk) (i : Nat) (f : Queue → Queue) : (b.updQueue i f).rcv = b.rcv := rfl
@[simp] theorem Blk.updQueue_trc (b : Blk) (i : Nat) (f : Queue → Queue) : (b.updQueue i f).trc = b.trc := rfl
@[simp] theorem Blk.updQueue_slices (b : Blk) (i : Nat) (f : Queue → Queue) : (b.updQueue i f).slices = b.slices := rfl
@[simp] theorem Blk.updQueue_partitions (b : Blk) (i : Nat) (f : Queue → Queue) : (b.updQueue i f).partitions = b.partitions := rfl
@[simp] theorem Blk.updQueue_contexts (b : Blk) (i : Nat) (f : Queue → Queue) : (b.updQueue i f).contexts = b.contexts := rfl
@[simp] theorem Blk.updQueue_queues (b : Blk) (i : Nat) (f : Queue → Queue) : (b.updQueue i f).queues = b.queues.upd i f := rfl
@[simp] theorem Blk.updQueue_items (b : Blk) (i : Nat) (f : Queue → Queue) : (b.updQueue i f).items = b.items := rfl
@[simp] theorem Blk.updQueue_views (b : Blk) (i : Nat) (f : Queue → Queue) : (b.updQueue i f).views = b.views := rfl

@[simp] theorem Blk.updContext_ft (b : Blk) (i : Nat) (f : Context → Context) : (b.updContext i f).ft = b.ft := rfl
@[simp] theorem Blk.updContext_free (b : Blk) (i : Nat) (f : Context → Context) : (b.updContext i f).free = b.free := rfl
@[simp] theorem Blk.updContext_out (b : Blk) (i : Nat) (f : Context → Context) : (b.updContext i f).out = b.out := rfl
@[simp] theorem Blk.updContext_readOut (b : Blk) (i : Nat) (f : Context → Context) : (b.updContext i f).readOut = b.readOut := rfl
@[simp] theorem Blk.updContext_mem (b : Blk) (i : Nat) (f : Context → Context) : (b.updContext i f).mem = b.mem := rfl
@[simp] theorem Blk.updContext_uncorr (b : Blk) (i : Nat) (f : Context → Context) : (b.updContext i f).uncorr = b.uncorr := rfl
@[simp] theorem Blk.updContext_own (b : Blk) (i : Nat) (f : Context → Context) : (b.updContext i f).own = b.own := rfl
@[simp] theorem Blk.updContext_pages (b : Blk) (i : Nat) (f : Context → Context) : (b.updContext i f).pages = b.pages := rfl
@[simp] theorem Blk.updContext_latches (b : Blk) (i : Nat) (f : Context → Context) : (b.updContext i f).latches = b.latches := rfl
@[simp] theorem Blk.updContext_chip (b : Blk) (i : Nat) (f : Context → Context) : (b.updContext i f).chip = b.chip := rfl
@[simp] theorem Blk.updContext_pwr (b : Blk) (i : Nat) (f : Context → Context) : (b.updContext i f).pwr = b.pwr := rfl
@[simp] theorem Blk.updContext_sec (b : Blk) (i : Nat) (f : Context → Context) : (b.updContext i f).sec = b.sec := rfl
@[simp] theorem Blk.updContext_hlu (b : Blk) (i : Nat) (f : Context → Context) : (b.updContext i f).hlu = b.hlu := rfl
@[simp] theorem Blk.updContext_qfe (b : Blk) (i : Nat) (f : Context → Context) : (b.updContext i f).qfe = b.qfe := rfl
@[simp] theorem Blk.updContext_ctx (b : Blk) (i : Nat) (f : Context → Context) : (b.updContext i f).ctx = b.ctx := rfl
@[simp] theorem Blk.updContext_fen (b : Blk) (i : Nat) (f : Context → Context) : (b.updContext i f).fen = b.fen := rfl
@[simp] theorem Blk.updContext_evc (b : Blk) (i : Nat) (f : Context → Context) : (b.updContext i f).evc = b.evc := rfl
@[simp] theorem Blk.updContext_mbx (b : Blk) (i : Nat) (f : Context → Context) : (b.updContext i f).mbx = b.mbx := rfl
@[simp] theorem Blk.updContext_sch (b : Blk) (i : Nat) (f : Context → Context) : (b.updContext i f).sch = b.sch := rfl
@[simp] theorem Blk.updContext_mar (b : Blk) (i : Nat) (f : Context → Context) : (b.updContext i f).mar = b.mar := rfl
@[simp] theorem Blk.updContext_mdl (b : Blk) (i : Nat) (f : Context → Context) : (b.updContext i f).mdl = b.mdl := rfl
@[simp] theorem Blk.updContext_xlt (b : Blk) (i : Nat) (f : Context → Context) : (b.updContext i f).xlt = b.xlt := rfl
@[simp] theorem Blk.updContext_tre (b : Blk) (i : Nat) (f : Context → Context) : (b.updContext i f).tre = b.tre := rfl
@[simp] theorem Blk.updContext_bwr (b : Blk) (i : Nat) (f : Context → Context) : (b.updContext i f).bwr = b.bwr := rfl
@[simp] theorem Blk.updContext_lmf (b : Blk) (i : Nat) (f : Context → Context) : (b.updContext i f).lmf = b.lmf := rfl
@[simp] theorem Blk.updContext_rcv (b : Blk) (i : Nat) (f : Context → Context) : (b.updContext i f).rcv = b.rcv := rfl
@[simp] theorem Blk.updContext_trc (b : Blk) (i : Nat) (f : Context → Context) : (b.updContext i f).trc = b.trc := rfl
@[simp] theorem Blk.updContext_slices (b : Blk) (i : Nat) (f : Context → Context) : (b.updContext i f).slices = b.slices := rfl
@[simp] theorem Blk.updContext_partitions (b : Blk) (i : Nat) (f : Context → Context) : (b.updContext i f).partitions = b.partitions := rfl
@[simp] theorem Blk.updContext_contexts (b : Blk) (i : Nat) (f : Context → Context) : (b.updContext i f).contexts = b.contexts.upd i f := rfl
@[simp] theorem Blk.updContext_queues (b : Blk) (i : Nat) (f : Context → Context) : (b.updContext i f).queues = b.queues := rfl
@[simp] theorem Blk.updContext_items (b : Blk) (i : Nat) (f : Context → Context) : (b.updContext i f).items = b.items := rfl
@[simp] theorem Blk.updContext_views (b : Blk) (i : Nat) (f : Context → Context) : (b.updContext i f).views = b.views := rfl

@[simp] theorem Blk.updSlice_ft (b : Blk) (i : Nat) (f : Slice → Slice) : (b.updSlice i f).ft = b.ft := rfl
@[simp] theorem Blk.updSlice_free (b : Blk) (i : Nat) (f : Slice → Slice) : (b.updSlice i f).free = b.free := rfl
@[simp] theorem Blk.updSlice_out (b : Blk) (i : Nat) (f : Slice → Slice) : (b.updSlice i f).out = b.out := rfl
@[simp] theorem Blk.updSlice_readOut (b : Blk) (i : Nat) (f : Slice → Slice) : (b.updSlice i f).readOut = b.readOut := rfl
@[simp] theorem Blk.updSlice_mem (b : Blk) (i : Nat) (f : Slice → Slice) : (b.updSlice i f).mem = b.mem := rfl
@[simp] theorem Blk.updSlice_uncorr (b : Blk) (i : Nat) (f : Slice → Slice) : (b.updSlice i f).uncorr = b.uncorr := rfl
@[simp] theorem Blk.updSlice_own (b : Blk) (i : Nat) (f : Slice → Slice) : (b.updSlice i f).own = b.own := rfl
@[simp] theorem Blk.updSlice_pages (b : Blk) (i : Nat) (f : Slice → Slice) : (b.updSlice i f).pages = b.pages := rfl
@[simp] theorem Blk.updSlice_latches (b : Blk) (i : Nat) (f : Slice → Slice) : (b.updSlice i f).latches = b.latches := rfl
@[simp] theorem Blk.updSlice_chip (b : Blk) (i : Nat) (f : Slice → Slice) : (b.updSlice i f).chip = b.chip := rfl
@[simp] theorem Blk.updSlice_pwr (b : Blk) (i : Nat) (f : Slice → Slice) : (b.updSlice i f).pwr = b.pwr := rfl
@[simp] theorem Blk.updSlice_sec (b : Blk) (i : Nat) (f : Slice → Slice) : (b.updSlice i f).sec = b.sec := rfl
@[simp] theorem Blk.updSlice_hlu (b : Blk) (i : Nat) (f : Slice → Slice) : (b.updSlice i f).hlu = b.hlu := rfl
@[simp] theorem Blk.updSlice_qfe (b : Blk) (i : Nat) (f : Slice → Slice) : (b.updSlice i f).qfe = b.qfe := rfl
@[simp] theorem Blk.updSlice_ctx (b : Blk) (i : Nat) (f : Slice → Slice) : (b.updSlice i f).ctx = b.ctx := rfl
@[simp] theorem Blk.updSlice_fen (b : Blk) (i : Nat) (f : Slice → Slice) : (b.updSlice i f).fen = b.fen := rfl
@[simp] theorem Blk.updSlice_evc (b : Blk) (i : Nat) (f : Slice → Slice) : (b.updSlice i f).evc = b.evc := rfl
@[simp] theorem Blk.updSlice_mbx (b : Blk) (i : Nat) (f : Slice → Slice) : (b.updSlice i f).mbx = b.mbx := rfl
@[simp] theorem Blk.updSlice_sch (b : Blk) (i : Nat) (f : Slice → Slice) : (b.updSlice i f).sch = b.sch := rfl
@[simp] theorem Blk.updSlice_mar (b : Blk) (i : Nat) (f : Slice → Slice) : (b.updSlice i f).mar = b.mar := rfl
@[simp] theorem Blk.updSlice_mdl (b : Blk) (i : Nat) (f : Slice → Slice) : (b.updSlice i f).mdl = b.mdl := rfl
@[simp] theorem Blk.updSlice_xlt (b : Blk) (i : Nat) (f : Slice → Slice) : (b.updSlice i f).xlt = b.xlt := rfl
@[simp] theorem Blk.updSlice_tre (b : Blk) (i : Nat) (f : Slice → Slice) : (b.updSlice i f).tre = b.tre := rfl
@[simp] theorem Blk.updSlice_bwr (b : Blk) (i : Nat) (f : Slice → Slice) : (b.updSlice i f).bwr = b.bwr := rfl
@[simp] theorem Blk.updSlice_lmf (b : Blk) (i : Nat) (f : Slice → Slice) : (b.updSlice i f).lmf = b.lmf := rfl
@[simp] theorem Blk.updSlice_rcv (b : Blk) (i : Nat) (f : Slice → Slice) : (b.updSlice i f).rcv = b.rcv := rfl
@[simp] theorem Blk.updSlice_trc (b : Blk) (i : Nat) (f : Slice → Slice) : (b.updSlice i f).trc = b.trc := rfl
@[simp] theorem Blk.updSlice_slices (b : Blk) (i : Nat) (f : Slice → Slice) : (b.updSlice i f).slices = b.slices.upd i f := rfl
@[simp] theorem Blk.updSlice_partitions (b : Blk) (i : Nat) (f : Slice → Slice) : (b.updSlice i f).partitions = b.partitions := rfl
@[simp] theorem Blk.updSlice_contexts (b : Blk) (i : Nat) (f : Slice → Slice) : (b.updSlice i f).contexts = b.contexts := rfl
@[simp] theorem Blk.updSlice_queues (b : Blk) (i : Nat) (f : Slice → Slice) : (b.updSlice i f).queues = b.queues := rfl
@[simp] theorem Blk.updSlice_items (b : Blk) (i : Nat) (f : Slice → Slice) : (b.updSlice i f).items = b.items := rfl
@[simp] theorem Blk.updSlice_views (b : Blk) (i : Nat) (f : Slice → Slice) : (b.updSlice i f).views = b.views := rfl

@[simp] theorem Blk.updView_ft (b : Blk) (i : Nat) (f : View → View) : (b.updView i f).ft = b.ft := rfl
@[simp] theorem Blk.updView_free (b : Blk) (i : Nat) (f : View → View) : (b.updView i f).free = b.free := rfl
@[simp] theorem Blk.updView_out (b : Blk) (i : Nat) (f : View → View) : (b.updView i f).out = b.out := rfl
@[simp] theorem Blk.updView_readOut (b : Blk) (i : Nat) (f : View → View) : (b.updView i f).readOut = b.readOut := rfl
@[simp] theorem Blk.updView_mem (b : Blk) (i : Nat) (f : View → View) : (b.updView i f).mem = b.mem := rfl
@[simp] theorem Blk.updView_uncorr (b : Blk) (i : Nat) (f : View → View) : (b.updView i f).uncorr = b.uncorr := rfl
@[simp] theorem Blk.updView_own (b : Blk) (i : Nat) (f : View → View) : (b.updView i f).own = b.own := rfl
@[simp] theorem Blk.updView_pages (b : Blk) (i : Nat) (f : View → View) : (b.updView i f).pages = b.pages := rfl
@[simp] theorem Blk.updView_latches (b : Blk) (i : Nat) (f : View → View) : (b.updView i f).latches = b.latches := rfl
@[simp] theorem Blk.updView_chip (b : Blk) (i : Nat) (f : View → View) : (b.updView i f).chip = b.chip := rfl
@[simp] theorem Blk.updView_pwr (b : Blk) (i : Nat) (f : View → View) : (b.updView i f).pwr = b.pwr := rfl
@[simp] theorem Blk.updView_sec (b : Blk) (i : Nat) (f : View → View) : (b.updView i f).sec = b.sec := rfl
@[simp] theorem Blk.updView_hlu (b : Blk) (i : Nat) (f : View → View) : (b.updView i f).hlu = b.hlu := rfl
@[simp] theorem Blk.updView_qfe (b : Blk) (i : Nat) (f : View → View) : (b.updView i f).qfe = b.qfe := rfl
@[simp] theorem Blk.updView_ctx (b : Blk) (i : Nat) (f : View → View) : (b.updView i f).ctx = b.ctx := rfl
@[simp] theorem Blk.updView_fen (b : Blk) (i : Nat) (f : View → View) : (b.updView i f).fen = b.fen := rfl
@[simp] theorem Blk.updView_evc (b : Blk) (i : Nat) (f : View → View) : (b.updView i f).evc = b.evc := rfl
@[simp] theorem Blk.updView_mbx (b : Blk) (i : Nat) (f : View → View) : (b.updView i f).mbx = b.mbx := rfl
@[simp] theorem Blk.updView_sch (b : Blk) (i : Nat) (f : View → View) : (b.updView i f).sch = b.sch := rfl
@[simp] theorem Blk.updView_mar (b : Blk) (i : Nat) (f : View → View) : (b.updView i f).mar = b.mar := rfl
@[simp] theorem Blk.updView_mdl (b : Blk) (i : Nat) (f : View → View) : (b.updView i f).mdl = b.mdl := rfl
@[simp] theorem Blk.updView_xlt (b : Blk) (i : Nat) (f : View → View) : (b.updView i f).xlt = b.xlt := rfl
@[simp] theorem Blk.updView_tre (b : Blk) (i : Nat) (f : View → View) : (b.updView i f).tre = b.tre := rfl
@[simp] theorem Blk.updView_bwr (b : Blk) (i : Nat) (f : View → View) : (b.updView i f).bwr = b.bwr := rfl
@[simp] theorem Blk.updView_lmf (b : Blk) (i : Nat) (f : View → View) : (b.updView i f).lmf = b.lmf := rfl
@[simp] theorem Blk.updView_rcv (b : Blk) (i : Nat) (f : View → View) : (b.updView i f).rcv = b.rcv := rfl
@[simp] theorem Blk.updView_trc (b : Blk) (i : Nat) (f : View → View) : (b.updView i f).trc = b.trc := rfl
@[simp] theorem Blk.updView_slices (b : Blk) (i : Nat) (f : View → View) : (b.updView i f).slices = b.slices := rfl
@[simp] theorem Blk.updView_partitions (b : Blk) (i : Nat) (f : View → View) : (b.updView i f).partitions = b.partitions := rfl
@[simp] theorem Blk.updView_contexts (b : Blk) (i : Nat) (f : View → View) : (b.updView i f).contexts = b.contexts := rfl
@[simp] theorem Blk.updView_queues (b : Blk) (i : Nat) (f : View → View) : (b.updView i f).queues = b.queues := rfl
@[simp] theorem Blk.updView_items (b : Blk) (i : Nat) (f : View → View) : (b.updView i f).items = b.items := rfl
@[simp] theorem Blk.updView_views (b : Blk) (i : Nat) (f : View → View) : (b.updView i f).views = b.views.set i (f (b.view i)) := rfl

@[simp] theorem Blk.updCore_ft (b : Blk) (i : Nat) (f : Core → Core) : (b.updCore i f).ft = b.ft := rfl
@[simp] theorem Blk.updCore_free (b : Blk) (i : Nat) (f : Core → Core) : (b.updCore i f).free = b.free := rfl
@[simp] theorem Blk.updCore_out (b : Blk) (i : Nat) (f : Core → Core) : (b.updCore i f).out = b.out := rfl
@[simp] theorem Blk.updCore_readOut (b : Blk) (i : Nat) (f : Core → Core) : (b.updCore i f).readOut = b.readOut := rfl
@[simp] theorem Blk.updCore_mem (b : Blk) (i : Nat) (f : Core → Core) : (b.updCore i f).mem = b.mem := rfl
@[simp] theorem Blk.updCore_uncorr (b : Blk) (i : Nat) (f : Core → Core) : (b.updCore i f).uncorr = b.uncorr := rfl
@[simp] theorem Blk.updCore_own (b : Blk) (i : Nat) (f : Core → Core) : (b.updCore i f).own = b.own := rfl
@[simp] theorem Blk.updCore_pages (b : Blk) (i : Nat) (f : Core → Core) : (b.updCore i f).pages = b.pages := rfl
@[simp] theorem Blk.updCore_latches (b : Blk) (i : Nat) (f : Core → Core) : (b.updCore i f).latches = b.latches := rfl
@[simp] theorem Blk.updCore_chip (b : Blk) (i : Nat) (f : Core → Core) : (b.updCore i f).chip = b.chip := rfl
@[simp] theorem Blk.updCore_pwr (b : Blk) (i : Nat) (f : Core → Core) : (b.updCore i f).pwr = b.pwr := rfl
@[simp] theorem Blk.updCore_sec (b : Blk) (i : Nat) (f : Core → Core) : (b.updCore i f).sec = b.sec := rfl
@[simp] theorem Blk.updCore_hlu (b : Blk) (i : Nat) (f : Core → Core) : (b.updCore i f).hlu = b.hlu := rfl
@[simp] theorem Blk.updCore_qfe (b : Blk) (i : Nat) (f : Core → Core) : (b.updCore i f).qfe = b.qfe := rfl
@[simp] theorem Blk.updCore_ctx (b : Blk) (i : Nat) (f : Core → Core) : (b.updCore i f).ctx = b.ctx := rfl
@[simp] theorem Blk.updCore_fen (b : Blk) (i : Nat) (f : Core → Core) : (b.updCore i f).fen = b.fen := rfl
@[simp] theorem Blk.updCore_evc (b : Blk) (i : Nat) (f : Core → Core) : (b.updCore i f).evc = b.evc := rfl
@[simp] theorem Blk.updCore_mbx (b : Blk) (i : Nat) (f : Core → Core) : (b.updCore i f).mbx = b.mbx := rfl
@[simp] theorem Blk.updCore_sch (b : Blk) (i : Nat) (f : Core → Core) : (b.updCore i f).sch = { b.sch with cores := b.sch.cores.set i (f (b.core i)) } := rfl
@[simp] theorem Blk.updCore_mar (b : Blk) (i : Nat) (f : Core → Core) : (b.updCore i f).mar = b.mar := rfl
@[simp] theorem Blk.updCore_mdl (b : Blk) (i : Nat) (f : Core → Core) : (b.updCore i f).mdl = b.mdl := rfl
@[simp] theorem Blk.updCore_xlt (b : Blk) (i : Nat) (f : Core → Core) : (b.updCore i f).xlt = b.xlt := rfl
@[simp] theorem Blk.updCore_tre (b : Blk) (i : Nat) (f : Core → Core) : (b.updCore i f).tre = b.tre := rfl
@[simp] theorem Blk.updCore_bwr (b : Blk) (i : Nat) (f : Core → Core) : (b.updCore i f).bwr = b.bwr := rfl
@[simp] theorem Blk.updCore_lmf (b : Blk) (i : Nat) (f : Core → Core) : (b.updCore i f).lmf = b.lmf := rfl
@[simp] theorem Blk.updCore_rcv (b : Blk) (i : Nat) (f : Core → Core) : (b.updCore i f).rcv = b.rcv := rfl
@[simp] theorem Blk.updCore_trc (b : Blk) (i : Nat) (f : Core → Core) : (b.updCore i f).trc = b.trc := rfl
@[simp] theorem Blk.updCore_slices (b : Blk) (i : Nat) (f : Core → Core) : (b.updCore i f).slices = b.slices := rfl
@[simp] theorem Blk.updCore_partitions (b : Blk) (i : Nat) (f : Core → Core) : (b.updCore i f).partitions = b.partitions := rfl
@[simp] theorem Blk.updCore_contexts (b : Blk) (i : Nat) (f : Core → Core) : (b.updCore i f).contexts = b.contexts := rfl
@[simp] theorem Blk.updCore_queues (b : Blk) (i : Nat) (f : Core → Core) : (b.updCore i f).queues = b.queues := rfl
@[simp] theorem Blk.updCore_items (b : Blk) (i : Nat) (f : Core → Core) : (b.updCore i f).items = b.items := rfl
@[simp] theorem Blk.updCore_views (b : Blk) (i : Nat) (f : Core → Core) : (b.updCore i f).views = b.views := rfl

@[simp] theorem Blk.updPort_ft (b : Blk) (i : Nat) (f : Port → Port) : (b.updPort i f).ft = b.ft := rfl
@[simp] theorem Blk.updPort_free (b : Blk) (i : Nat) (f : Port → Port) : (b.updPort i f).free = b.free := rfl
@[simp] theorem Blk.updPort_out (b : Blk) (i : Nat) (f : Port → Port) : (b.updPort i f).out = b.out := rfl
@[simp] theorem Blk.updPort_readOut (b : Blk) (i : Nat) (f : Port → Port) : (b.updPort i f).readOut = b.readOut := rfl
@[simp] theorem Blk.updPort_mem (b : Blk) (i : Nat) (f : Port → Port) : (b.updPort i f).mem = b.mem := rfl
@[simp] theorem Blk.updPort_uncorr (b : Blk) (i : Nat) (f : Port → Port) : (b.updPort i f).uncorr = b.uncorr := rfl
@[simp] theorem Blk.updPort_own (b : Blk) (i : Nat) (f : Port → Port) : (b.updPort i f).own = b.own := rfl
@[simp] theorem Blk.updPort_pages (b : Blk) (i : Nat) (f : Port → Port) : (b.updPort i f).pages = b.pages := rfl
@[simp] theorem Blk.updPort_latches (b : Blk) (i : Nat) (f : Port → Port) : (b.updPort i f).latches = b.latches := rfl
@[simp] theorem Blk.updPort_chip (b : Blk) (i : Nat) (f : Port → Port) : (b.updPort i f).chip = b.chip := rfl
@[simp] theorem Blk.updPort_pwr (b : Blk) (i : Nat) (f : Port → Port) : (b.updPort i f).pwr = b.pwr := rfl
@[simp] theorem Blk.updPort_sec (b : Blk) (i : Nat) (f : Port → Port) : (b.updPort i f).sec = b.sec := rfl
@[simp] theorem Blk.updPort_hlu (b : Blk) (i : Nat) (f : Port → Port) : (b.updPort i f).hlu = b.hlu := rfl
@[simp] theorem Blk.updPort_qfe (b : Blk) (i : Nat) (f : Port → Port) : (b.updPort i f).qfe = b.qfe := rfl
@[simp] theorem Blk.updPort_ctx (b : Blk) (i : Nat) (f : Port → Port) : (b.updPort i f).ctx = b.ctx := rfl
@[simp] theorem Blk.updPort_fen (b : Blk) (i : Nat) (f : Port → Port) : (b.updPort i f).fen = b.fen := rfl
@[simp] theorem Blk.updPort_evc (b : Blk) (i : Nat) (f : Port → Port) : (b.updPort i f).evc = b.evc := rfl
@[simp] theorem Blk.updPort_mbx (b : Blk) (i : Nat) (f : Port → Port) : (b.updPort i f).mbx = b.mbx := rfl
@[simp] theorem Blk.updPort_sch (b : Blk) (i : Nat) (f : Port → Port) : (b.updPort i f).sch = b.sch := rfl
@[simp] theorem Blk.updPort_mar (b : Blk) (i : Nat) (f : Port → Port) : (b.updPort i f).mar = b.mar := rfl
@[simp] theorem Blk.updPort_mdl (b : Blk) (i : Nat) (f : Port → Port) : (b.updPort i f).mdl = b.mdl := rfl
@[simp] theorem Blk.updPort_xlt (b : Blk) (i : Nat) (f : Port → Port) : (b.updPort i f).xlt = b.xlt := rfl
@[simp] theorem Blk.updPort_tre (b : Blk) (i : Nat) (f : Port → Port) : (b.updPort i f).tre = b.tre := rfl
@[simp] theorem Blk.updPort_bwr (b : Blk) (i : Nat) (f : Port → Port) : (b.updPort i f).bwr = b.bwr := rfl
@[simp] theorem Blk.updPort_lmf (b : Blk) (i : Nat) (f : Port → Port) : (b.updPort i f).lmf = { b.lmf with ports := b.lmf.ports.set i (f (b.port i)) } := rfl
@[simp] theorem Blk.updPort_rcv (b : Blk) (i : Nat) (f : Port → Port) : (b.updPort i f).rcv = b.rcv := rfl
@[simp] theorem Blk.updPort_trc (b : Blk) (i : Nat) (f : Port → Port) : (b.updPort i f).trc = b.trc := rfl
@[simp] theorem Blk.updPort_slices (b : Blk) (i : Nat) (f : Port → Port) : (b.updPort i f).slices = b.slices := rfl
@[simp] theorem Blk.updPort_partitions (b : Blk) (i : Nat) (f : Port → Port) : (b.updPort i f).partitions = b.partitions := rfl
@[simp] theorem Blk.updPort_contexts (b : Blk) (i : Nat) (f : Port → Port) : (b.updPort i f).contexts = b.contexts := rfl
@[simp] theorem Blk.updPort_queues (b : Blk) (i : Nat) (f : Port → Port) : (b.updPort i f).queues = b.queues := rfl
@[simp] theorem Blk.updPort_items (b : Blk) (i : Nat) (f : Port → Port) : (b.updPort i f).items = b.items := rfl
@[simp] theorem Blk.updPort_views (b : Blk) (i : Nat) (f : Port → Port) : (b.updPort i f).views = b.views := rfl

@[simp] theorem pageErr_ft (b : Blk) (pg code : Nat) : (pageErr pg code b).ft = b.ft := rfl
@[simp] theorem pageErr_free (b : Blk) (pg code : Nat) : (pageErr pg code b).free = b.free := rfl
@[simp] theorem pageErr_out (b : Blk) (pg code : Nat) : (pageErr pg code b).out = b.out := rfl
@[simp] theorem pageErr_readOut (b : Blk) (pg code : Nat) : (pageErr pg code b).readOut = b.readOut := rfl
@[simp] theorem pageErr_mem (b : Blk) (pg code : Nat) : (pageErr pg code b).mem = b.mem := rfl
@[simp] theorem pageErr_uncorr (b : Blk) (pg code : Nat) : (pageErr pg code b).uncorr = b.uncorr := rfl
@[simp] theorem pageErr_own (b : Blk) (pg code : Nat) : (pageErr pg code b).own = b.own := rfl
@[simp] theorem pageErr_pages (b : Blk) (pg code : Nat) : (pageErr pg code b).pages = b.pages.set pg ((b.hdr pg).count b.ft code) := rfl
@[simp] theorem pageErr_latches (b : Blk) (pg code : Nat) : (pageErr pg code b).latches = b.latches := rfl
@[simp] theorem pageErr_chip (b : Blk) (pg code : Nat) : (pageErr pg code b).chip = b.chip := rfl
@[simp] theorem pageErr_pwr (b : Blk) (pg code : Nat) : (pageErr pg code b).pwr = b.pwr := rfl
@[simp] theorem pageErr_sec (b : Blk) (pg code : Nat) : (pageErr pg code b).sec = b.sec := rfl
@[simp] theorem pageErr_hlu (b : Blk) (pg code : Nat) : (pageErr pg code b).hlu = b.hlu := rfl
@[simp] theorem pageErr_qfe (b : Blk) (pg code : Nat) : (pageErr pg code b).qfe = b.qfe := rfl
@[simp] theorem pageErr_ctx (b : Blk) (pg code : Nat) : (pageErr pg code b).ctx = b.ctx := rfl
@[simp] theorem pageErr_fen (b : Blk) (pg code : Nat) : (pageErr pg code b).fen = b.fen := rfl
@[simp] theorem pageErr_evc (b : Blk) (pg code : Nat) : (pageErr pg code b).evc = b.evc := rfl
@[simp] theorem pageErr_mbx (b : Blk) (pg code : Nat) : (pageErr pg code b).mbx = b.mbx := rfl
@[simp] theorem pageErr_sch (b : Blk) (pg code : Nat) : (pageErr pg code b).sch = b.sch := rfl
@[simp] theorem pageErr_mar (b : Blk) (pg code : Nat) : (pageErr pg code b).mar = b.mar := rfl
@[simp] theorem pageErr_mdl (b : Blk) (pg code : Nat) : (pageErr pg code b).mdl = b.mdl := rfl
@[simp] theorem pageErr_xlt (b : Blk) (pg code : Nat) : (pageErr pg code b).xlt = b.xlt := rfl
@[simp] theorem pageErr_tre (b : Blk) (pg code : Nat) : (pageErr pg code b).tre = b.tre := rfl
@[simp] theorem pageErr_bwr (b : Blk) (pg code : Nat) : (pageErr pg code b).bwr = b.bwr := rfl
@[simp] theorem pageErr_lmf (b : Blk) (pg code : Nat) : (pageErr pg code b).lmf = b.lmf := rfl
@[simp] theorem pageErr_rcv (b : Blk) (pg code : Nat) : (pageErr pg code b).rcv = b.rcv := rfl
@[simp] theorem pageErr_trc (b : Blk) (pg code : Nat) : (pageErr pg code b).trc = b.trc := rfl
@[simp] theorem pageErr_slices (b : Blk) (pg code : Nat) : (pageErr pg code b).slices = b.slices := rfl
@[simp] theorem pageErr_partitions (b : Blk) (pg code : Nat) : (pageErr pg code b).partitions = b.partitions := rfl
@[simp] theorem pageErr_contexts (b : Blk) (pg code : Nat) : (pageErr pg code b).contexts = b.contexts := rfl
@[simp] theorem pageErr_queues (b : Blk) (pg code : Nat) : (pageErr pg code b).queues = b.queues := rfl
@[simp] theorem pageErr_items (b : Blk) (pg code : Nat) : (pageErr pg code b).items = b.items := rfl
@[simp] theorem pageErr_views (b : Blk) (pg code : Nat) : (pageErr pg code b).views = b.views := rfl

/-! ## Tables -/

/-- What is put at a number is found there. -/
@[simp] theorem Tab.get?_set_same {α : Type} (t : Tab α) (k : Nat) (a : α) : (t.set k a).get? k = some a := by
  induction t with
  | nil => simp [Tab.set, Tab.get?]
  | cons e t ih =>
    obtain ⟨j, b⟩ := e
    simp only [Tab.set]
    by_cases h : j = k
    · simp [h, Tab.get?]
    · by_cases h2 : k < j
      · simp [h, h2, Tab.get?]
      · simp [h, h2, Tab.get?, ih]

/-- What is put at a number leaves every other number. -/
theorem Tab.get?_set_other {α : Type} (t : Tab α) {k j : Nat} (a : α) (h : j ≠ k) : (t.set k a).get? j = t.get? j := by
  induction t with
  | nil => simp [Tab.set, Tab.get?, Ne.symm h]
  | cons e t ih =>
    obtain ⟨i, b⟩ := e
    simp only [Tab.set]
    by_cases h1 : i = k
    · subst h1; simp [Tab.get?, Ne.symm h]
    · by_cases h2 : k < i
      · simp [h1, h2, Tab.get?, Ne.symm h]
      · by_cases h3 : i = j
        · subst h3; simp [h1, h2, Tab.get?]
        · simp [h1, h2, h3, Tab.get?, ih]

/-- The default form of both. -/
@[simp] theorem Tab.getD_set_same {α : Type} (t : Tab α) (k : Nat) (a d : α) : (t.set k a).getD k d = a := by
  simp [Tab.getD]

theorem Tab.getD_set_other {α : Type} (t : Tab α) {k j : Nat} (a d : α) (h : j ≠ k) : (t.set k a).getD j d = t.getD j d := by
  simp [Tab.getD, Tab.get?_set_other t a h]

/-- An entry that is there and is changed. -/
theorem Tab.get?_upd_same {α : Type} (t : Tab α) (k : Nat) (f : α → α) : (t.upd k f).get? k = (t.get? k).map f := by
  unfold Tab.upd
  cases h : t.get? k with
  | none => simp [h]
  | some a => simp

theorem Tab.get?_upd_other {α : Type} (t : Tab α) {k j : Nat} (f : α → α) (h : j ≠ k) : (t.upd k f).get? j = t.get? j := by
  unfold Tab.upd
  cases t.get? k with
  | none => rfl
  | some a => exact Tab.get?_set_other t (f a) h

/-- Views, cores and ports after a change of one. -/
@[simp] theorem Blk.updView_view (b : Blk) (s : Nat) (f : View → View) : (b.updView s f).view s = f (b.view s) := by
  simp [Blk.view]
theorem Blk.updView_view_other (b : Blk) {s t : Nat} (f : View → View) (h : t ≠ s) : (b.updView s f).view t = b.view t := by
  simp [Blk.view, Tab.getD_set_other _ _ _ h]
@[simp] theorem Blk.updPort_port (b : Blk) (n : Nat) (f : Port → Port) : (b.updPort n f).port n = f (b.port n) := by
  simp [Blk.port]
theorem Blk.updPort_port_other (b : Blk) {n m : Nat} (f : Port → Port) (h : m ≠ n) : (b.updPort n f).port m = b.port m := by
  simp [Blk.port, Tab.getD_set_other _ _ _ h]
@[simp] theorem Blk.updCore_core (b : Blk) (n : Nat) (f : Core → Core) : (b.updCore n f).core n = f (b.core n) := by
  simp [Blk.core]
theorem Blk.updCore_core_other (b : Blk) {n m : Nat} (f : Core → Core) (h : m ≠ n) : (b.updCore n f).core m = b.core m := by
  simp [Blk.core, Tab.getD_set_other _ _ _ h]

end Sys2Proof.Machine
end

