-- ==== Sys2Proof/Laws/Dump.lean ====
section
/-! SUPPORT. Laws of operations that leave RCV alone, and of what writing a dump leaves alone. -/

set_option Elab.async false

namespace Sys2Proof.Machine

@[simp] theorem leaveB1_rcv (b : Blk) : (leaveB1 b).rcv = b.rcv := by unfold leaveB1; split <;> rfl

@[simp] theorem fire_rcv (n c : Nat) (d : BitVec 32) (b : Blk) : (fire n c d b).rcv = b.rcv := by
  unfold fire; split
  · rfl
  · split
    · rw [leaveB1_rcv]; rfl
    · rfl

@[simp] theorem noteDirty_rcv (b : Blk) (k n : Nat) : (noteDirty b k n).rcv = b.rcv := by
  unfold noteDirty
  generalize granulesOf k n = l
  induction l generalizing b with
  | nil => rfl
  | cons g l ih => rw [List.foldl_cons, ih]; split <;> rfl

@[simp] theorem storeLocal_rcv (k : Nat) (bs : Bytes) (b : Blk) : (storeLocal k bs b).rcv = b.rcv := by
  unfold storeLocal; split
  · rfl
  · simp only [noteDirty_rcv]; rfl

@[simp] theorem storeSpan_rcv (k : Nat) (bs : Bytes) (b : Blk) : (storeSpan k bs b).rcv = b.rcv := by
  unfold storeSpan; split
  · rfl
  · simp only [noteDirty_rcv]; rfl

@[simp] theorem pumpPort_rcv (f n : Nat) (b : Blk) : (pumpPort f n b).rcv = b.rcv := by
  induction f generalizing b with
  | zero => rfl
  | succ f ih =>
    unfold pumpPort
    extract_lets po
    split
    · rfl
    · extract_lets cr need cws
      split
      · rw [ih]; rfl
      · rfl

@[simp] theorem sendPkt_rcv (p : Pkt) (b : Blk) : (sendPkt p b).rcv = b.rcv := by
  unfold sendPkt; split
  · unfold enqueuePort; rw [pumpPort_rcv]; rfl
  · rfl

@[simp] theorem sendReqAt_rcv (dva typ dest : Nat) (spec payload : Bytes) (why : ReqFor) (limit : Nat) (b : Blk) :
    (sendReqAt dva typ dest spec payload why limit b).rcv = b.rcv := by
  unfold sendReqAt
  simp only [sendPkt_rcv]
  unfold openSession
  split
  · rfl
  · simp only [Blk.lmfU, sendPkt_rcv]

@[simp] theorem paWrite_rcv (pa : Nat) (bs : Bytes) (b : Blk) : (paWrite pa bs b).rcv = b.rcv := by
  unfold paWrite
  split
  · split
    · exact storeLocal_rcv _ _ _
    · rfl
  · exact sendReqAt_rcv _ _ _ _ _ _ _ _

/-- A write of dump bytes leaves the step of a block reset alone. -/
theorem dumpPut_blockPhase (off : Nat) (bs : Bytes) (b : Blk) : (dumpPut off bs b).rcv.blockPhase = b.rcv.blockPhase := by
  unfold dumpPut
  dsimp only
  split
  · split
    · rw [storeSpan_rcv]
    · generalize linesOf (paKey (b.rcv.dumpBase + off)) bs.length = l
      have : ∀ c : Blk, c.rcv.blockPhase = b.rcv.blockPhase →
          (l.foldl (fun b1 i =>
            if admits b1 .swedikin 0 true (i * 64) 64 then
              storeSpan (i * 64) ((bs.drop (i * 64 - paKey (b.rcv.dumpBase + off))).take 64) b1
            else b1.rcvU fun r => { r with
              dumpWerr := true
              dump := r.dump.map fun d => { d with werrs := d.werrs + 1 } }) c).rcv.blockPhase = b.rcv.blockPhase := by
        induction l with
        | nil => exact fun c h => h
        | cons i l ih =>
          intro c h
          rw [List.foldl_cons]
          apply ih
          split
          · rw [storeSpan_rcv]; exact h
          · exact h
      exact this b rfl
  · rw [paWrite_rcv]

theorem dumpUnit_blockPhase (u : Nat) (b : Blk) : (dumpUnit u b).rcv.blockPhase = b.rcv.blockPhase := by
  unfold dumpUnit
  split
  · rfl
  · split
    · rfl
    · exact dumpPut_blockPhase _ _ _

theorem dumpSections_blockPhase (b : Blk) : (dumpSections b).rcv.blockPhase = b.rcv.blockPhase := by
  unfold dumpSections
  generalize List.range 18 = l
  induction l generalizing b with
  | nil => rfl
  | cons i l ih => rw [List.foldl_cons, ih, dumpUnit_blockPhase]

theorem dumpBody_blockPhase (b : Blk) : (dumpBody b).rcv.blockPhase = b.rcv.blockPhase := by
  unfold dumpBody
  generalize dumpTables b = l
  induction l generalizing b with
  | nil => rfl
  | cons i l ih => rw [List.foldl_cons, ih, dumpPut_blockPhase]

theorem sealDump_blockPhase (b : Blk) : (sealDump b).rcv.blockPhase = b.rcv.blockPhase := by
  unfold sealDump
  cases b.rcv.dump with
  | none => rfl
  | some d =>
    simp only [fire_rcv, Blk.rcvU, Blk.pwrU]
    exact (dumpPut_blockPhase _ _ _).trans (dumpPut_blockPhase _ _ _)

/-- The end of a dump leaves the step of a block reset alone. -/
theorem finishDump_blockPhase (b : Blk) : (finishDump b).rcv.blockPhase = b.rcv.blockPhase := by
  unfold finishDump
  split
  · rfl
  · rw [sealDump_blockPhase, dumpBody_blockPhase, dumpSections_blockPhase]

end Sys2Proof.Machine
end

