-- ==== Sys2Proof/Laws/Exec.lean ====
section
/-! SUPPORT. What exec does with each command: one equation per constructor, for rewriting. -/

set_option Elab.async false

namespace Sys2Proof.Machine

theorem exec_sqDoorbellWrite (who : Who) (page off size : Nat) (w : W32) (s : State) : exec (.sqDoorbellWrite who page off size w) s = execSqDoorbellWrite who page off size w s := rfl
theorem exec_cqDoorbellWrite (who : Who) (page off size : Nat) (w : W32) (s : State) : exec (.cqDoorbellWrite who page off size w) s = execCqDoorbellWrite who page off size w s := rfl
theorem exec_deviceDoorbell (who : Who) (page size : Nat) (w : W32) (s : State) : exec (.deviceDoorbell who page size w) s = execDeviceDoorbell who page size w s := rfl
theorem exec_queueCreate (who : Who) (page : Nat) (w : W32) (s : State) : exec (.queueCreate who page w) s = execQueueCreate who page w s := rfl
theorem exec_queueDestroy (who : Who) (page : Nat) (w : W32) (s : State) : exec (.queueDestroy who page w) s = execQueueDestroy who page w s := rfl
theorem exec_queueDrainEnd (slice slot : Nat) (s : State) : exec (.queueDrainEnd slice slot) s = execQueueDrainEnd slice slot s := rfl
theorem exec_arbitrationTurn (s : State) : exec .arbitrationTurn s = execArbitrationTurn s := rfl
theorem exec_entryReceived (slice slot : Nat) (ext : ExtRead) (s : State) : exec (.entryReceived slice slot ext) s = execEntryReceived slice slot ext s := rfl
theorem exec_itemStart (item : Nat) (s : State) : exec (.itemStart item) s = execItemStart item s := rfl
theorem exec_completionWriteRetry (item : Nat) (s : State) : exec (.completionWriteRetry item) s = execCompletionWriteRetry item s := rfl
theorem exec_itemDeadlineExpiry (item : Nat) (s : State) : exec (.itemDeadlineExpiry item) s = execItemDeadlineExpiry item s := rfl
theorem exec_launch (item : Nat) (s : State) : exec (.launch item) s = execLaunch item s := rfl
theorem exec_copy (item : Nat) (s : State) : exec (.copy item) s = execCopy item s := rfl
theorem exec_reduce (item : Nat) (s : State) : exec (.reduce item) s = execReduce item s := rfl
theorem exec_collective (item : Nat) (s : State) : exec (.collective item) s = execCollective item s := rfl
theorem exec_kvMove (item : Nat) (s : State) : exec (.kvMove item) s = execKvMove item s := rfl
theorem exec_fenceSignal (item : Nat) (s : State) : exec (.fenceSignal item) s = execFenceSignal item s := rfl
theorem exec_fenceWait (item : Nat) (s : State) : exec (.fenceWait item) s = execFenceWait item s := rfl
theorem exec_flushRange (item : Nat) (s : State) : exec (.flushRange item) s = execFlushRange item s := rfl
theorem exec_modelLoad (item : Nat) (s : State) : exec (.modelLoad item) s = execModelLoad item s := rfl
theorem exec_modelPin (item : Nat) (s : State) : exec (.modelPin item) s = execModelPin item s := rfl
theorem exec_stepRun (item : Nat) (s : State) : exec (.stepRun item) s = execStepRun item s := rfl
theorem exec_seqJoin (item : Nat) (s : State) : exec (.seqJoin item) s = execSeqJoin item s := rfl
theorem exec_seqLeave (item : Nat) (s : State) : exec (.seqLeave item) s = execSeqLeave item s := rfl
theorem exec_alloc (item : Nat) (s : State) : exec (.alloc item) s = execAlloc item s := rfl
theorem exec_free (item : Nat) (s : State) : exec (.free item) s = execFree item s := rfl
theorem exec_workGroupPlace (part : Nat) (s : State) : exec (.workGroupPlace part) s = execWorkGroupPlace part s := rfl
theorem exec_workGroupEnd (core launch : Nat) (s : State) : exec (.workGroupEnd core launch) s = execWorkGroupEnd core launch s := rfl
theorem exec_cheapPointAck (core : Nat) (s : State) : exec (.cheapPointAck core) s = execCheapPointAck core s := rfl
theorem exec_coreIdle (core : Nat) (image : Bytes) (s : State) : exec (.coreIdle core image) s = execCoreIdle core image s := rfl
theorem exec_graceExpiry (core : Nat) (mapUnreadable : Bool) (s : State) : exec (.graceExpiry core mapUnreadable) s = execGraceExpiry core mapUnreadable s := rfl
theorem exec_saveStopFailure (core : Nat) (cause : StopCause) (s : State) : exec (.saveStopFailure core cause) s = execSaveStopFailure core cause s := rfl
theorem exec_restoreDispatch (ctx : Nat) (s : State) : exec (.restoreDispatch ctx) s = execRestoreDispatch ctx s := rfl
theorem exec_restoreFailure (core : Nat) (uncorrectable : Bool) (s : State) : exec (.restoreFailure core uncorrectable) s = execRestoreFailure core uncorrectable s := rfl
theorem exec_cacheMaintenanceAck (core : Nat) (lines : FlushLines) (s : State) : exec (.cacheMaintenanceAck core lines) s = execCacheMaintenanceAck core lines s := rfl
theorem exec_preempt (who : Who) (w : W32) (s : State) : exec (.preempt who w) s = execPreempt who w s := rfl
theorem exec_resume (who : Who) (w : W32) (s : State) : exec (.resume who w) s = execResume who w s := rfl
theorem exec_schLwaWrite (who : Who) (w : W32) (s : State) : exec (.schLwaWrite who w) s = execSchLwaWrite who w s := rfl
theorem exec_signalPortWrite (who : Who) (page off : Nat) (bytes : Bytes) (s : State) : exec (.signalPortWrite who page off bytes) s = execSignalPortWrite who page off bytes s := rfl
theorem exec_pollRecheck (s : State) : exec .pollRecheck s = execPollRecheck s := rfl
theorem exec_waitDeadlineExpiry (item : Nat) (s : State) : exec (.waitDeadlineExpiry item) s = execWaitDeadlineExpiry item s := rfl
theorem exec_fsigReceive (port : Nat) (p : Pkt) (s : State) : exec (.fsigReceive port p) s = execFsigReceive port p s := rfl
theorem exec_fackReceive (port : Nat) (p : Pkt) (s : State) : exec (.fackReceive port p) s = execFackReceive port p s := rfl
theorem exec_remoteSignalTimeout (item : Nat) (s : State) : exec (.remoteSignalTimeout item) s = execRemoteSignalTimeout item s := rfl
theorem exec_fsigSend (item : Nat) (s : State) : exec (.fsigSend item) s = execFsigSend item s := rfl
theorem exec_fenceQueryRead (who : Who) (page size : Nat) (s : State) : exec (.fenceQueryRead who page size) s = execFenceQueryRead who page size s := rfl
theorem exec_fenceStaleClear (who : Who) (page : Nat) (w : W32) (s : State) : exec (.fenceStaleClear who page w) s = execFenceStaleClear who page w s := rfl
theorem exec_managerFenceQueryRead (who : Who) (size : Nat) (s : State) : exec (.managerFenceQueryRead who size) s = execManagerFenceQueryRead who size s := rfl
theorem exec_remoteWriteAck (port : Nat) (p : Pkt) (s : State) : exec (.remoteWriteAck port p) s = execRemoteWriteAck port p s := rfl
theorem exec_remoteWriteLost (dest txn : Nat) (s : State) : exec (.remoteWriteLost dest txn) s = execRemoteWriteLost dest txn s := rfl
theorem exec_remoteReadTimeout (dest txn : Nat) (s : State) : exec (.remoteReadTimeout dest txn) s = execRemoteReadTimeout dest txn s := rfl
theorem exec_hostFlushReadIssue (fn : Nat) (s : State) : exec (.hostFlushReadIssue fn) s = execHostFlushReadIssue fn s := rfl
theorem exec_hostReadCompletion (tag : Nat) (ext : ExtRead) (s : State) : exec (.hostReadCompletion tag ext) s = execHostReadCompletion tag ext s := rfl
theorem exec_hostReadTimeout (tag : Nat) (s : State) : exec (.hostReadTimeout tag) s = execHostReadTimeout tag s := rfl
theorem exec_ownershipPushAck (push : Nat) (s : State) : exec (.ownershipPushAck push) s = execOwnershipPushAck push s := rfl
theorem exec_atsCompletion (slice page hpa : Nat) (read write : Bool) (s : State) : exec (.atsCompletion slice page hpa read write) s = execAtsCompletion slice page hpa read write s := rfl
theorem exec_rangeCacheMissDone (miss : Nat) (s : State) : exec (.rangeCacheMissDone miss) s = execRangeCacheMissDone miss s := rfl
theorem exec_atsInvalidationRequest (fn pasid hva pages itag : Nat) (s : State) : exec (.atsInvalidationRequest fn pasid hva pages itag) s = execAtsInvalidationRequest fn pasid hva pages itag s := rfl
theorem exec_holdRelease (holder : Holder) (s : State) : exec (.holdRelease holder) s = execHoldRelease holder s := rfl
theorem exec_shootdownAck (core : Nat) (s : State) : exec (.shootdownAck core) s = execShootdownAck core s := rfl
theorem exec_invalidationAbort (epoch : Nat) (s : State) : exec (.invalidationAbort epoch) s = execInvalidationAbort epoch s := rfl
theorem exec_abortDrainExpiry (epoch lines : Nat) (s : State) : exec (.abortDrainExpiry epoch lines) s = execAbortDrainExpiry epoch lines s := rfl
theorem exec_faultBatchClose (slice : Nat) (s : State) : exec (.faultBatchClose slice) s = execFaultBatchClose slice s := rfl
theorem exec_prgResponse (fn prg code : Nat) (s : State) : exec (.prgResponse fn prg code) s = execPrgResponse fn prg code s := rfl
theorem exec_fqHeadWrite (who : Who) (page : Nat) (w : W32) (s : State) : exec (.fqHeadWrite who page w) s = execFqHeadWrite who page w s := rfl
theorem exec_fqEnWrite (who : Who) (page : Nat) (w : W32) (s : State) : exec (.fqEnWrite who page w) s = execFqEnWrite who page w s := rfl
theorem exec_hotNotice (slice granule : Nat) (s : State) : exec (.hotNotice slice granule) s = execHotNotice slice granule s := rfl
theorem exec_accClear (who : Who) (page : Nat) (w : W32) (s : State) : exec (.accClear who page w) s = execAccClear who page w s := rfl
theorem exec_dirtyRecord (slice addr : Nat) (host : Bool) (s : State) : exec (.dirtyRecord slice addr host) s = execDirtyRecord slice addr host s := rfl
theorem exec_mapPeer (who : Who) (w : W32) (ext : ExtRead) (s : State) : exec (.mapPeer who w ext) s = execMapPeer who w ext s := rfl
theorem exec_unmapPeer (who : Who) (w : W32) (ext : ExtRead) (s : State) : exec (.unmapPeer who w ext) s = execUnmapPeer who w ext s := rfl
theorem exec_dirtyStart (who : Who) (w : W32) (ext : ExtRead) (s : State) : exec (.dirtyStart who w ext) s = execDirtyStart who w ext s := rfl
theorem exec_dirtyStop (who : Who) (w : W32) (ext : ExtRead) (s : State) : exec (.dirtyStop who w ext) s = execDirtyStop who w ext s := rfl
theorem exec_dirtyRearm (who : Who) (w : W32) (ext : ExtRead) (s : State) : exec (.dirtyRearm who w ext) s = execDirtyRearm who w ext s := rfl
theorem exec_invalSlice (who : Who) (w : W32) (ext : ExtRead) (s : State) : exec (.invalSlice who w ext) s = execInvalSlice who w ext s := rfl
theorem exec_xltAreaWrite (who : Who) (off : Nat) (w : W32) (s : State) : exec (.xltAreaWrite who off w) s = execXltAreaWrite who off w s := rfl
theorem exec_createPartition (who : Who) (w : W32) (ext : ExtRead) (s : State) : exec (.createPartition who w ext) s = execCreatePartition who w ext s := rfl
theorem exec_destroyPartition (who : Who) (w : W32) (ext : ExtRead) (s : State) : exec (.destroyPartition who w ext) s = execDestroyPartition who w ext s := rfl
theorem exec_createSlice (who : Who) (w : W32) (ext : ExtRead) (s : State) : exec (.createSlice who w ext) s = execCreateSlice who w ext s := rfl
theorem exec_modifySlice (who : Who) (w : W32) (ext : ExtRead) (s : State) : exec (.modifySlice who w ext) s = execModifySlice who w ext s := rfl
theorem exec_destroySlice (who : Who) (w : W32) (ext : ExtRead) (s : State) : exec (.destroySlice who w ext) s = execDestroySlice who w ext s := rfl
theorem exec_grant (who : Who) (w : W32) (ext : ExtRead) (s : State) : exec (.grant who w ext) s = execGrant who w ext s := rfl
theorem exec_reclaim (who : Who) (w : W32) (ext : ExtRead) (s : State) : exec (.reclaim who w ext) s = execReclaim who w ext s := rfl
theorem exec_createContext (who : Who) (w : W32) (ext : ExtRead) (s : State) : exec (.createContext who w ext) s = execCreateContext who w ext s := rfl
theorem exec_destroyContext (who : Who) (w : W32) (ext : ExtRead) (s : State) : exec (.destroyContext who w ext) s = execDestroyContext who w ext s := rfl
theorem exec_pinContext (who : Who) (w : W32) (ext : ExtRead) (s : State) : exec (.pinContext who w ext) s = execPinContext who w ext s := rfl
theorem exec_unpinContext (who : Who) (w : W32) (ext : ExtRead) (s : State) : exec (.unpinContext who w ext) s = execUnpinContext who w ext s := rfl
theorem exec_viewContextCreate (who : Who) (page : Nat) (w : W32) (s : State) : exec (.viewContextCreate who page w) s = execViewContextCreate who page w s := rfl
theorem exec_viewContextDestroy (who : Who) (page : Nat) (w : W32) (s : State) : exec (.viewContextDestroy who page w) s = execViewContextDestroy who page w s := rfl
theorem exec_ctxTablesWrite (who : Who) (off : Nat) (w : W32) (s : State) : exec (.ctxTablesWrite who off w) s = execCtxTablesWrite who off w s := rfl
theorem exec_tdHeadWrite (who : Who) (w : W32) (s : State) : exec (.tdHeadWrite who w) s = execTdHeadWrite who w s := rfl
theorem exec_spillDone (ctx : Nat) (s : State) : exec (.spillDone ctx) s = execSpillDone ctx s := rfl
theorem exec_restoreDone (ctx : Nat) (s : State) : exec (.restoreDone ctx) s = execRestoreDone ctx s := rfl
theorem exec_admissionServe (s : State) : exec .admissionServe s = execAdmissionServe s := rfl
theorem exec_marionetteAssign (s : State) : exec .marionetteAssign s = execMarionetteAssign s := rfl
theorem exec_readyReceive (port : Nat) (p : Pkt) (s : State) : exec (.readyReceive port p) s = execReadyReceive port p s := rfl
theorem exec_planReceive (port : Nat) (p : Pkt) (s : State) : exec (.planReceive port p) s = execPlanReceive port p s := rfl
theorem exec_planTimeout (run : Nat) (s : State) : exec (.planTimeout run) s = execPlanTimeout run s := rfl
theorem exec_leaveReceive (port : Nat) (p : Pkt) (s : State) : exec (.leaveReceive port p) s = execLeaveReceive port p s := rfl
theorem exec_admittedJoinTimeout (run seq : Nat) (s : State) : exec (.admittedJoinTimeout run seq) s = execAdmittedJoinTimeout run seq s := rfl
theorem exec_stepStart (run : Nat) (s : State) : exec (.stepStart run) s = execStepStart run s := rfl
theorem exec_operationStart (run : Nat) (s : State) : exec (.operationStart run) s = execOperationStart run s := rfl
theorem exec_operationComplete (run op : Nat) (s : State) : exec (.operationComplete run op) s = execOperationComplete run op s := rfl
theorem exec_stepCommit (run : Nat) (s : State) : exec (.stepCommit run) s = execStepCommit run s := rfl
theorem exec_stepRollback (run op : Nat) (fault : StepFault) (s : State) : exec (.stepRollback run op fault) s = execStepRollback run op fault s := rfl
theorem exec_marionetteFailure (mar : Nat) (s : State) : exec (.marionetteFailure mar) s = execMarionetteFailure mar s := rfl
theorem exec_runEnd (run : Nat) (s : State) : exec (.runEnd run) s = execRunEnd run s := rfl
theorem exec_modelBlockLoaded (work : Nat) (s : State) : exec (.modelBlockLoaded work) s = execModelBlockLoaded work s := rfl
theorem exec_modelStoreError (err : StoreError) (s : State) : exec (.modelStoreError err) s = execModelStoreError err s := rfl
theorem exec_modelPieceReloaded (model piece : Nat) (s : State) : exec (.modelPieceReloaded model piece) s = execModelPieceReloaded model piece s := rfl
theorem exec_storeConfigWrite (who : Who) (off : Nat) (w : W32) (s : State) : exec (.storeConfigWrite who off w) s = execStoreConfigWrite who off w s := rfl
theorem exec_treItemAssign (work : Nat) (s : State) : exec (.treItemAssign work) s = execTreItemAssign work s := rfl
theorem exec_treChunkDone (engine : Nat) (s : State) : exec (.treChunkDone engine) s = execTreChunkDone engine s := rfl
theorem exec_treFailure (engine : Nat) (s : State) : exec (.treFailure engine) s = execTreFailure engine s := rfl
theorem exec_gcreate (who : Who) (w : W32) (ext : ExtRead) (s : State) : exec (.gcreate who w ext) s = execGcreate who w ext s := rfl
theorem exec_gdestroy (who : Who) (w : W32) (ext : ExtRead) (s : State) : exec (.gdestroy who w ext) s = execGdestroy who w ext s := rfl
theorem exec_collChunkReceive (port : Nat) (p : Pkt) (s : State) : exec (.collChunkReceive port p) s = execCollChunkReceive port p s := rfl
theorem exec_collRreqReceive (port : Nat) (p : Pkt) (s : State) : exec (.collRreqReceive port p) s = execCollRreqReceive port p s := rfl
theorem exec_stageChunkExpiry (s : State) : exec .stageChunkExpiry s = execStageChunkExpiry s := rfl
theorem exec_collPeerTimeout (coll : Nat) (s : State) : exec (.collPeerTimeout coll) s = execCollPeerTimeout coll s := rfl
theorem exec_laneRemove (port lane : Nat) (s : State) : exec (.laneRemove port lane) s = execLaneRemove port lane s := rfl
theorem exec_laneReceive (port : Nat) (p : Pkt) (s : State) : exec (.laneReceive port p) s = execLaneReceive port p s := rfl
theorem exec_markersMissed (port : Nat) (s : State) : exec (.markersMissed port) s = execMarkersMissed port s := rfl
theorem exec_codewordReceive (port : Nat) (cw : Codeword) (s : State) : exec (.codewordReceive port cw) s = execCodewordReceive port cw s := rfl
theorem exec_lackReceive (port : Nat) (p : Pkt) (s : State) : exec (.lackReceive port p) s = execLackReceive port p s := rfl
theorem exec_retryReceive (port : Nat) (p : Pkt) (s : State) : exec (.retryReceive port p) s = execRetryReceive port p s := rfl
theorem exec_lackSendTimer (port : Nat) (s : State) : exec (.lackSendTimer port) s = execLackSendTimer port s := rfl
theorem exec_creditReceive (port : Nat) (p : Pkt) (s : State) : exec (.creditReceive port p) s = execCreditReceive port p s := rfl
theorem exec_remoteWrReceive (port : Nat) (p : Pkt) (s : State) : exec (.remoteWrReceive port p) s = execRemoteWrReceive port p s := rfl
theorem exec_remoteRdReceive (port : Nat) (p : Pkt) (s : State) : exec (.remoteRdReceive port p) s = execRemoteRdReceive port p s := rfl
theorem exec_remoteAtReceive (port : Nat) (p : Pkt) (s : State) : exec (.remoteAtReceive port p) s = execRemoteAtReceive port p s := rfl
theorem exec_sessionReceive (port : Nat) (p : Pkt) (s : State) : exec (.sessionReceive port p) s = execSessionReceive port p s := rfl
theorem exec_responseReceive (port : Nat) (p : Pkt) (s : State) : exec (.responseReceive port p) s = execResponseReceive port p s := rfl
theorem exec_txnGapTimeout (src : Nat) (s : State) : exec (.txnGapTimeout src) s = execTxnGapTimeout src s := rfl
theorem exec_transactionTimeout (dest txn : Nat) (s : State) : exec (.transactionTimeout dest txn) s = execTransactionTimeout dest txn s := rfl
theorem exec_portDown (port cause : Nat) (s : State) : exec (.portDown port cause) s = execPortDown port cause s := rfl
theorem exec_portRetryTimer (port : Nat) (s : State) : exec (.portRetryTimer port) s = execPortRetryTimer port s := rfl
theorem exec_calDone (port : Nat) (ok : Bool) (s : State) : exec (.calDone port ok) s = execCalDone port ok s := rfl
theorem exec_trainDone (port : Nat) (lanes : Lanes) (s : State) : exec (.trainDone port lanes) s = execTrainDone port lanes s := rfl
theorem exec_alignDone (port : Nat) (ok : Bool) (chip peerPort : Nat) (s : State) : exec (.alignDone port ok chip peerPort) s = execAlignDone port ok chip peerPort s := rfl
theorem exec_keychkReceive (port : Nat) (cipher tag : Bytes) (s : State) : exec (.keychkReceive port cipher tag) s = execKeychkReceive port cipher tag s := rfl
theorem exec_measureDone (port : Nat) (delays : Nats) (s : State) : exec (.measureDone port delays) s = execMeasureDone port delays s := rfl
theorem exec_portEnWrite (who : Who) (w : W32) (s : State) : exec (.portEnWrite who w) s = execPortEnWrite who w s := rfl
theorem exec_portOffDrainEnd (port : Nat) (s : State) : exec (.portOffDrainEnd port) s = execPortOffDrainEnd port s := rfl
theorem exec_retrain (who : Who) (port : Nat) (w : W32) (s : State) : exec (.retrain who port w) s = execRetrain who port w s := rfl
theorem exec_routingCommit (who : Who) (chip : Nat) (w : W32) (s : State) : exec (.routingCommit who chip w) s = execRoutingCommit who chip w s := rfl
theorem exec_kiteSend (port frac : Nat) (s : State) : exec (.kiteSend port frac) s = execKiteSend port frac s := rfl
theorem exec_kiteReceive (port : Nat) (p : Pkt) (s : State) : exec (.kiteReceive port p) s = execKiteReceive port p s := rfl
theorem exec_holdoverTimeout (s : State) : exec .holdoverTimeout s = execHoldoverTimeout s := rfl
theorem exec_keySwitch (port : Nat) (s : State) : exec (.keySwitch port) s = execKeySwitch port s := rfl
theorem exec_rekeyThreshold (port : Nat) (s : State) : exec (.rekeyThreshold port) s = execRekeyThreshold port s := rfl
theorem exec_regulatorWindow (reg : Nat) (s : State) : exec (.regulatorWindow reg) s = execRegulatorWindow reg s := rfl
theorem exec_regulatorIssue (reg : Nat) (arrivals : Requests) (s : State) : exec (.regulatorIssue reg arrivals) s = execRegulatorIssue reg arrivals s := rfl
theorem exec_feedbackLevelChange (ctrl level : Nat) (s : State) : exec (.feedbackLevelChange ctrl level) s = execFeedbackLevelChange ctrl level s := rfl
theorem exec_regulatorCtrlCommit (who : Who) (reg : Nat) (w : W32) (s : State) : exec (.regulatorCtrlCommit who reg w) s = execRegulatorCtrlCommit who reg w s := rfl
theorem exec_wiredLineChange (line : Nat) (level : Bool) (s : State) : exec (.wiredLineChange line level) s = execWiredLineChange line level s := rfl
theorem exec_pendingWrite (who : Who) (page off : Nat) (bytes : Bytes) (s : State) : exec (.pendingWrite who page off bytes) s = execPendingWrite who page off bytes s := rfl
theorem exec_evcDoorbell (who : Who) (w : W32) (s : State) : exec (.evcDoorbell who w) s = execEvcDoorbell who w s := rfl
theorem exec_evcModeWrite (who : Who) (w : W32) (s : State) : exec (.evcModeWrite who w) s = execEvcModeWrite who w s := rfl
theorem exec_pendSet (who : Who) (word : Nat) (w : W32) (s : State) : exec (.pendSet who word w) s = execPendSet who word w s := rfl
theorem exec_pendClr (who : Who) (word : Nat) (w : W32) (s : State) : exec (.pendClr who word w) s = execPendClr who word w s := rfl
theorem exec_sourceConfigWrite (who : Who) (w : W32) (s : State) : exec (.sourceConfigWrite who w) s = execSourceConfigWrite who w s := rfl
theorem exec_pnEnWrite (who : Who) (page : Nat) (w : W32) (s : State) : exec (.pnEnWrite who page w) s = execPnEnWrite who page w s := rfl
theorem exec_pnHeadWrite (who : Who) (page : Nat) (w : W32) (s : State) : exec (.pnHeadWrite who page w) s = execPnHeadWrite who page w s := rfl
theorem exec_pennantRecordIssue (s : State) : exec .pennantRecordIssue s = execPennantRecordIssue s := rfl
theorem exec_mbxSend (side : MbxSide) (chan : Nat) (s : State) : exec (.mbxSend side chan) s = execMbxSend side chan s := rfl
theorem exec_mbxWithdraw (side : MbxSide) (chan : Nat) (s : State) : exec (.mbxWithdraw side chan) s = execMbxWithdraw side chan s := rfl
theorem exec_mbxRelease (side : MbxSide) (chan : Nat) (s : State) : exec (.mbxRelease side chan) s = execMbxRelease side chan s := rfl
theorem exec_mbxTake (side : MbxSide) (chan : Nat) (s : State) : exec (.mbxTake side chan) s = execMbxTake side chan s := rfl
theorem exec_mbxAck (side : MbxSide) (chan : Nat) (code : W16) (s : State) : exec (.mbxAck side chan code) s = execMbxAck side chan code s := rfl
theorem exec_lockRead (who : Who) (lock : Nat) (s : State) : exec (.lockRead who lock) s = execLockRead who lock s := rfl
theorem exec_lockFreeWrite (who : Who) (lock : Nat) (w : W32) (s : State) : exec (.lockFreeWrite who lock w) s = execLockFreeWrite who lock w s := rfl
theorem exec_lockBreak (who : Who) (secure : Bool) (w : W32) (s : State) : exec (.lockBreak who secure w) s = execLockBreak who secure w s := rfl
theorem exec_monitorFire (mon : Monitor) (s : State) : exec (.monitorFire mon) s = execMonitorFire mon s := rfl
theorem exec_coreFaultLine (core : Nat) (level : Bool) (s : State) : exec (.coreFaultLine core level) s = execCoreFaultLine core level s := rfl
theorem exec_contextReset (req : RungReq) (s : State) : exec (.contextReset req) s = execContextReset req s := rfl
theorem exec_engineReset (req : RungReq) (s : State) : exec (.engineReset req) s = execEngineReset req s := rfl
theorem exec_partitionReset (req : RungReq) (s : State) : exec (.partitionReset req) s = execPartitionReset req s := rfl
theorem exec_blockReset (req : RungReq) (s : State) : exec (.blockReset req) s = execBlockReset req s := rfl
theorem exec_dump (req : RungReq) (s : State) : exec (.dump req) s = execDump req s := rfl
theorem exec_dumpReadTimeout (unit word : Nat) (s : State) : exec (.dumpReadTimeout unit word) s = execDumpReadTimeout unit word s := rfl
theorem exec_selfTestDone (unit : SelfTest) (pass : Bool) (s : State) : exec (.selfTestDone unit pass) s = execSelfTestDone unit pass s := rfl
theorem exec_identity (rec' : Bytes) (s : State) : exec (.identity rec') s = execIdentity rec' s := rfl
theorem exec_sliceKey (rec' : Bytes) (s : State) : exec (.sliceKey rec') s = execSliceKey rec' s := rfl
theorem exec_linkKey (rec' : Bytes) (s : State) : exec (.linkKey rec') s = execLinkKey rec' s := rfl
theorem exec_erase (rec' : Bytes) (s : State) : exec (.erase rec') s = execErase rec' s := rfl
theorem exec_dbgGrant (rec' : Bytes) (s : State) : exec (.dbgGrant rec') s = execDbgGrant rec' s := rfl
theorem exec_dbgDeny (rec' : Bytes) (s : State) : exec (.dbgDeny rec') s = execDbgDeny rec' s := rfl
theorem exec_dbgReq (who : Who) (w : W32) (s : State) : exec (.dbgReq who w) s = execDbgReq who w s := rfl
theorem exec_dbgDrop (who : Who) (w : W32) (s : State) : exec (.dbgDrop who w) s = execDbgDrop who w s := rfl
theorem exec_challengeExpiry (slice : OptNat) (s : State) : exec (.challengeExpiry slice) s = execChallengeExpiry slice s := rfl
theorem exec_alarmTrip (sensor slice : Nat) (s : State) : exec (.alarmTrip sensor slice) s = execAlarmTrip sensor slice s := rfl
theorem exec_niSelfWrite (who : Who) (page : Nat) (w : W32) (s : State) : exec (.niSelfWrite who page w) s = execNiSelfWrite who page w s := rfl
theorem exec_niMgrReq (who : Who) (page : Nat) (w : W32) (s : State) : exec (.niMgrReq who page w) s = execNiMgrReq who page w s := rfl
theorem exec_niRespSubmit (who : Who) (page : Nat) (w : W32) (s : State) : exec (.niRespSubmit who page w) s = execNiRespSubmit who page w s := rfl
theorem exec_niMgrDrop (who : Who) (page : Nat) (w : W32) (s : State) : exec (.niMgrDrop who page w) s = execNiMgrDrop who page w s := rfl
theorem exec_b1Entry (s : State) : exec .b1Entry s = execB1Entry s := rfl
theorem exec_b1Exit (cause : B1Cause) (s : State) : exec (.b1Exit cause) s = execB1Exit cause s := rfl
theorem exec_enterB2 (who : Who) (w : W32) (s : State) : exec (.enterB2 who w) s = execEnterB2 who w s := rfl
theorem exec_b2GraceEnd (s : State) : exec .b2GraceEnd s = execB2GraceEnd s := rfl
theorem exec_enterB3 (who : Who) (w : W32) (s : State) : exec (.enterB3 who w) s = execEnterB3 who w s := rfl
theorem exec_wake (cause : WakeCause) (hbmLost : Bool) (s : State) : exec (.wake cause hbmLost) s = execWake cause hbmLost s := rfl
theorem exec_coreSupplyLoss (s : State) : exec .coreSupplyLoss s = execCoreSupplyLoss s := rfl
theorem exec_suppliesValid (s : State) : exec .suppliesValid s = execSuppliesValid s := rfl
theorem exec_startGo (who : Who) (w : W32) (s : State) : exec (.startGo who w) s = execStartGo who w s := rfl
theorem exec_readyReport (s : State) : exec .readyReport s = execReadyReport s := rfl
theorem exec_rsSealWrite (who : Who) (w : W32) (s : State) : exec (.rsSealWrite who w) s = execRsSealWrite who w s := rfl
theorem exec_genChipWrite (who : Who) (w : W32) (s : State) : exec (.genChipWrite who w) s = execGenChipWrite who w s := rfl
theorem exec_trgNow (who : Who) (w : W32) (s : State) : exec (.trgNow who w) s = execTrgNow who w s := rfl
theorem exec_arm (who : Who) (w : W32) (s : State) : exec (.arm who w) s = execArm who w s := rfl
theorem exec_mark (who : Who) (w : W32) (s : State) : exec (.mark who w) s = execMark who w s := rfl
theorem exec_tbHeadWrite (who : Who) (w : W32) (s : State) : exec (.tbHeadWrite who w) s = execTbHeadWrite who w s := rfl
theorem exec_tbModeWrite (who : Who) (w : W32) (s : State) : exec (.tbModeWrite who w) s = execTbModeWrite who w s := rfl
theorem exec_stHeadWrite (who : Who) (page : Nat) (w : W32) (s : State) : exec (.stHeadWrite who page w) s = execStHeadWrite who page w s := rfl
theorem exec_stEnWrite (who : Who) (page : Nat) (w : W32) (s : State) : exec (.stEnWrite who page w) s = execStEnWrite who page w s := rfl
theorem exec_latchedPairRead (who : Who) (off size : Nat) (s : State) : exec (.latchedPairRead who off size) s = execLatchedPairRead who off size s := rfl
theorem exec_counterSatClear (who : Who) (off : Nat) (w : W32) (s : State) : exec (.counterSatClear who off w) s = execCounterSatClear who off w s := rfl
theorem exec_pageLockWrite (who : Who) (off : Nat) (w : W32) (s : State) : exec (.pageLockWrite who off w) s = execPageLockWrite who off w s := rfl
theorem exec_pageFreezeWrite (who : Who) (off : Nat) (w : W32) (s : State) : exec (.pageFreezeWrite who off w) s = execPageFreezeWrite who off w s := rfl
theorem exec_pageErrorClear (who : Who) (off : Nat) (w : W32) (s : State) : exec (.pageErrorClear who off w) s = execPageErrorClear who off w s := rfl
theorem exec_registerWrite (who : Who) (off size : Nat) (w hi : W32) (s : State) : exec (.registerWrite who off size w hi) s = execRegisterWrite who off size w hi s := rfl
theorem exec_coreMemoryRequest (core : Nat) (req : CoreReq) (s : State) : exec (.coreMemoryRequest core req) s = execCoreMemoryRequest core req s := rfl
theorem exec_dispatchPortFailure (port : Nat) (s : State) : exec (.dispatchPortFailure port) s = execDispatchPortFailure port s := rfl
theorem exec_recordRestored (core : Nat) (s : State) : exec (.recordRestored core) s = execRecordRestored core s := rfl
theorem exec_dumpComplete (s : State) : exec .dumpComplete s = execDumpComplete s := rfl
theorem exec_debugLockoutExpiry (s : State) : exec .debugLockoutExpiry s = execDebugLockoutExpiry s := rfl
theorem exec_dirtyRingHeadAdvance (slice head : Nat) (s : State) : exec (.dirtyRingHeadAdvance slice head) s = execDirtyRingHeadAdvance slice head s := rfl
theorem exec_powerCycle (s : State) : exec .powerCycle s = execPowerCycle s := rfl

end Sys2Proof.Machine
end

