-- ==== Sys2Proof/Laws/Memory.lean ====
section
/-! SUPPORT. Laws of memory: a byte written is read back, every other byte stays, and each operation keeps the canonical form. -/

set_option Elab.async false

namespace Sys2Proof.Machine

/-- Every key of a memory is at or above a bound. -/
def memFrom (lo : Nat) (m : List Host.Cell) : Prop := ∀ c ∈ m, lo ≤ c.1

/-- The canonical form, one entry at a time. -/
theorem Memory.wf_cons (j : Nat) (u : Byte) (t : List Host.Cell) :
    Memory.wf ((j, u) :: t) = true ↔ u ≠ 0 ∧ memFrom (j + 1) t ∧ Memory.wf t = true := by
  induction t generalizing j u with
  | nil => simp [Memory.wf, memFrom]
  | cons c t ih =>
    obtain ⟨k, v⟩ := c
    rw [show Memory.wf ((j, u) :: (k, v) :: t) = (u != 0 && decide (j < k) && Memory.wf ((k, v) :: t)) from rfl]
    simp only [Bool.and_eq_true, bne_iff_ne, decide_eq_true_eq]
    constructor
    · rintro ⟨⟨hu, hjk⟩, hw⟩
      refine ⟨hu, ?_, hw⟩
      intro c hc
      rcases List.mem_cons.1 hc with rfl | hc
      · exact hjk
      · have := ((ih k v).1 hw).2.1 c hc
        omega
    · rintro ⟨hu, hf, hw⟩
      exact ⟨⟨hu, hf (k, v) (by simp)⟩, hw⟩

/-- Writing a byte keeps a lower bound of the keys that the key written also meets. -/
theorem memFrom_memSet {lo k : Nat} (v : Byte) (m : List Host.Cell) (h : memFrom lo m) (hk : lo ≤ k) : memFrom lo (memSet m k v) := by
  induction m with
  | nil => unfold memSet; split <;> simp_all [memFrom]
  | cons c t ih =>
    obtain ⟨j, u⟩ := c
    have ht : memFrom lo t := fun c hc => h c (List.mem_cons_of_mem _ hc)
    have hj : lo ≤ j := h (j, u) (by simp)
    unfold memSet
    split
    · intro c hc
      rcases List.mem_cons.1 hc with rfl | hc
      · exact hj
      · exact ih ht c hc
    · split
      · split
        · exact ht
        · intro c hc
          rcases List.mem_cons.1 hc with rfl | hc
          · exact hk
          · exact ht c hc
      · split
        · exact h
        · intro c hc
          rcases List.mem_cons.1 hc with rfl | hc
          · exact hk
          · exact h c hc

/-- Writing a byte keeps the canonical form. -/
theorem Memory.wf_memSet (m : List Host.Cell) (k : Nat) (v : Byte) (h : Memory.wf m = true) : Memory.wf (memSet m k v) = true := by
  induction m with
  | nil => unfold memSet; split <;> simp_all [Memory.wf]
  | cons c t ih =>
    obtain ⟨j, u⟩ := c
    obtain ⟨hu, hf, ht⟩ := (Memory.wf_cons j u t).1 h
    unfold memSet
    split
    · rename_i hjk
      exact (Memory.wf_cons _ _ _).2 ⟨hu, memFrom_memSet v t hf hjk, ih ht⟩
    · split
      · rename_i hjk; subst hjk
        split
        · exact ht
        · rename_i hv
          exact (Memory.wf_cons _ _ _).2 ⟨hv, hf, ht⟩
      · split
        · exact h
        · rename_i h1 h2 hv
          refine (Memory.wf_cons _ _ _).2 ⟨hv, ?_, h⟩
          intro c hc
          rcases List.mem_cons.1 hc with rfl | hc
          · show k + 1 ≤ j; omega
          · have := hf c hc; omega

/-- Writing bytes keeps the canonical form. -/
theorem Memory.wf_memWrite (bs : Bytes) : ∀ (m : List Host.Cell) (k : Nat), Memory.wf m = true → Memory.wf (memWrite m k bs) = true := by
  induction bs with
  | nil => intro m k h; exact h
  | cons v vs ih => intro m k h; exact ih _ _ (Memory.wf_memSet m k v h)

/-- Dropping entries keeps the canonical form. -/
theorem Memory.wf_filter (p : Host.Cell → Bool) (m : List Host.Cell) (h : Memory.wf m = true) : Memory.wf (m.filter p) = true := by
  induction m with
  | nil => rfl
  | cons c t ih =>
    obtain ⟨j, u⟩ := c
    obtain ⟨hu, hf, ht⟩ := (Memory.wf_cons j u t).1 h
    simp only [List.filter]
    split
    · exact (Memory.wf_cons _ _ _).2 ⟨hu, fun c hc => hf c (List.mem_of_mem_filter hc), ih ht⟩
    · exact ih ht

/-- Nothing is listed below a bound of the keys. -/
theorem memGet_below {lo k : Nat} (m : List Host.Cell) (h : memFrom lo m) (hk : k < lo) : memGet m k = 0 := by
  induction m with
  | nil => rfl
  | cons c t ih =>
    obtain ⟨j, u⟩ := c
    have hj : lo ≤ j := h (j, u) (by simp)
    have : j ≠ k := by omega
    simp [memGet, this, ih fun c hc => h c (List.mem_cons_of_mem _ hc)]

/-- A byte written is read back. -/
theorem memGet_memSet_same (m : List Host.Cell) (k : Nat) (v : Byte) (h : Memory.wf m = true) : memGet (memSet m k v) k = v := by
  induction m with
  | nil => unfold memSet; split <;> simp_all [memGet]
  | cons c t ih =>
    obtain ⟨j, u⟩ := c
    obtain ⟨hu, hf, ht⟩ := (Memory.wf_cons j u t).1 h
    unfold memSet
    split
    · rename_i hjk
      have : j ≠ k := by omega
      simp [memGet, this, ih ht]
    · split
      · rename_i hjk; subst hjk
        split
        · rename_i hv; rw [hv]; exact memGet_below t hf (by omega)
        · simp [memGet]
      · split
        · rename_i h1 h2 hv
          have : j ≠ k := h2
          simp only [memGet, this, if_false, hv]
          exact memGet_below t hf (by omega)
        · simp [memGet]

/-- A byte written leaves every other byte. -/
theorem memGet_memSet_other (m : List Host.Cell) {k a : Nat} (v : Byte) (ha : a ≠ k) : memGet (memSet m k v) a = memGet m a := by
  induction m with
  | nil => unfold memSet; split <;> simp [memGet, Ne.symm ha]
  | cons c t ih =>
    obtain ⟨j, u⟩ := c
    unfold memSet
    split
    · by_cases h : j = a <;> simp [memGet, h, ih]
    · split
      · rename_i hjk; subst hjk
        split <;> simp [memGet, Ne.symm ha]
      · split
        · rfl
        · simp [memGet, Ne.symm ha]

/-- Bytes written leave every byte outside their span. -/
theorem memGet_memWrite_other (bs : Bytes) : ∀ (m : List Host.Cell) (k a : Nat), (a < k ∨ k + bs.length ≤ a) →
    memGet (memWrite m k bs) a = memGet m a := by
  induction bs with
  | nil => intro m k a _; rfl
  | cons v vs ih =>
    intro m k a h
    simp only [memWrite, List.length_cons] at *
    rw [ih _ _ _ (by omega), memGet_memSet_other m v (by omega)]

/-- Bytes written are read back. -/
theorem memGet_memWrite_at (bs : Bytes) : ∀ (m : List Host.Cell) (k i : Nat), Memory.wf m = true → i < bs.length →
    memGet (memWrite m k bs) (k + i) = bs.getD i 0 := by
  induction bs with
  | nil => intro m k i _ h; simp at h
  | cons v vs ih =>
    intro m k i hw h
    cases i with
    | zero =>
      simp only [memWrite, Nat.add_zero, List.getD_cons_zero]
      rw [memGet_memWrite_other vs _ _ _ (by omega), memGet_memSet_same m k v hw]
    | succ i =>
      simp only [memWrite, List.getD_cons_succ]
      have := ih (memSet m k v) (k + 1) i (Memory.wf_memSet m k v hw) (by simpa using h)
      rw [← this]; congr 1; omega

/-! ## The operations of the block that write memory -/

/-- A change of the dirty logs leaves memory. -/
@[simp] theorem noteDirty_mem (b : Blk) (k n : Nat) : (noteDirty b k n).mem = b.mem := by
  unfold noteDirty
  generalize granulesOf k n = gs
  induction gs generalizing b with
  | nil => rfl
  | cons g gs ih =>
    simp only [List.foldl_cons]
    rw [ih]
    split <;> rfl

/-- What a write at its home does to memory. -/
theorem storeLocal_mem (b : Blk) (k : Nat) (bs : Bytes) : (storeLocal k bs b).mem = memWrite b.mem k bs := by
  unfold storeLocal
  split
  · rename_i h; cases bs <;> simp_all [memWrite]
  · simp

/-- A write at its home keeps the canonical form. -/
theorem storeLocal_wf (b : Blk) (k : Nat) (bs : Bytes) (h : Memory.wf b.mem = true) : Memory.wf (storeLocal k bs b).mem = true := by
  rw [storeLocal_mem]; exact Memory.wf_memWrite bs _ _ h

/-- Zeros over a span keep the canonical form. -/
theorem zeroMem_wf (b : Blk) (k n : Nat) (h : Memory.wf b.mem = true) : Memory.wf (zeroMem k n b).mem = true :=
  Memory.wf_filter _ _ h

/-- A long write keeps the canonical form. -/
theorem storeSpan_wf (b : Blk) (k : Nat) (bs : Bytes) (h : Memory.wf b.mem = true) : Memory.wf (storeSpan k bs b).mem = true := by
  unfold storeSpan
  split
  · exact h
  · simp only [noteDirty_mem, Blk.emit_mem]
    have go : ∀ (l : Bytes) (x : List Host.Cell × Nat), Memory.wf x.1 = true →
        Memory.wf (l.foldl (fun (m : List Host.Cell × Nat) (v : Byte) => (if v = 0 then m.1 else memSet m.1 m.2 v, m.2 + 1)) x).1 = true := by
      intro l
      induction l with
      | nil => intro x hx; exact hx
      | cons v vs ih =>
        intro x hx
        simp only [List.foldl_cons]
        refine ih _ ?_
        dsimp only
        split
        · exact hx
        · exact Memory.wf_memSet _ _ _ hx
    exact go bs _ (Memory.wf_filter _ _ h)

/-- A posted host write keeps the canonical form. -/
theorem hostWrite_wf (b : Blk) (slice hpa page : Nat) (bs : Bytes) (item : Option Nat) (h : Memory.wf b.mem = true) :
    Memory.wf (hostWrite slice hpa page bs item b).mem = true := by
  unfold hostWrite
  simp only [Blk.emit_mem]
  unfold noteHostStore
  simp only [Blk.hluU_mem]
  apply Memory.wf_memWrite
  have hc : ∀ (x : Blk) (s v : Nat), (countAccess s v x).mem = x.mem := by
    intro x s v; unfold countAccess touchHost; dsimp only; split <;> rfl
  have hf : ∀ (l : List Nat) (x : Blk) (s v : Nat), (l.foldl (fun b _ => countAccess s v b) x).mem = x.mem := by
    intro l
    induction l with
    | nil => intro x s v; rfl
    | cons a l ih => intro x s v; rw [List.foldl_cons, ih, hc]
  rw [hf]
  split
  · split
    · unfold logHostPage
      split
      · exact h
      · dsimp only; exact storeLocal_wf _ _ _ (storeLocal_wf _ _ _ h)
    · exact h
  · exact h

end Sys2Proof.Machine
end

