-- ==== Sys2Proof/Laws/Ops.lean ====
section
/-! SUPPORT. Laws of the shared operations: when a unit's event, an access or a packet goes through and what it then is, and what the
operations leave alone. -/

set_option Elab.async false

namespace Sys2Proof.Machine

open Sys2Proof.Safety

set_option linter.unusedSimpArgs false

/-! ## Events, accesses and packets that go through -/

/-- Leaving B1 does not put the block to sleep. -/
theorem leaveB1_awake (b : Blk) (h : b.pwr.pstate < 2) : (leaveB1 b).pwr.pstate < 2 := by
  unfold leaveB1; split
  · exact Nat.zero_lt_two
  · exact h

/-- A fire does not put the block to sleep. -/
theorem fire_awake (n c : Nat) (d : BitVec 32) (b : Blk) (h : b.pwr.pstate < 2) : (fire n c d b).pwr.pstate < 2 := by
  unfold fire; split
  · exact h
  · split
    · exact leaveB1_awake _ h
    · exact h

/-- `act` answers the block after its operation. -/
theorem act_on {f : Blk → Blk} {b p} : act f ⟨p, b⟩ = .next ⟨p, f b⟩ := rfl

/-- An admitted write of a unit page goes on in the state that it finds. -/
theorem onUnit_takes {who pg b t} {k : Blk → Blk} (h : unitTakes who pg b t) : onUnit who pg b k = k t := by
  simp [onUnit, h.1, h.2]

/-- An admitted write of a view page goes on in the state that it finds. -/
theorem onView_takes {who page pg s b t} {k : Nat → Blk → Blk} (h : viewTakes who page s b t) : onView who page pg b k = k s t := by
  simp [onView, h.1.1, h.1.2, h.2]

/-- An admitted command of a channel side goes on in the state that it finds. -/
theorem onSide_takes {side c b t} {k : Blk → Blk} (h : sideTakes side c b t) : onSide side c b k = k t := by
  obtain ⟨h1, h2⟩ := h
  cases side with
  | host who => simp only [onSide, if_neg (Nat.not_le.2 h1)]; exact onUnit_takes h2
  | mp =>
    simp only [onSide, if_neg (Nat.not_le.2 h1)]
    obtain ⟨h3, h4, rfl⟩ := h2
    simp [h3, h4]

/-- A record that SEC takes is answered with what its operation gives. -/
theorem onRecord_takes {kind r b} {k : Blk → Blk × Nat} (h : recordTakes kind r b) : onRecord kind r b k = answerRecord (k b).2 (k b).1 := by
  obtain ⟨h1, h2, h3, h4⟩ := h
  have e : ¬ ((kind = 1) = (b.sec.identOk = true)) := by
    intro e; rw [← e] at h3; by_cases hk : kind = 1 <;> simp_all
  unfold onRecord
  rw [if_neg (by simp [h1]; omega), if_neg e, if_neg (by simp [h4])]

/-- A good packet has the channel of its type. -/
theorem pktOk_vc {p : Pkt} (h : pktOk p = true) : p.vc = typeVc p.typ := by
  simp only [pktOk, Bool.and_eq_true, beq_iff_eq] at h; exact h.1.2

/-- A control packet that arrives is taken, and its port acknowledges. -/
theorem arrive_ctl {ts n p b u} (h : controlArrives n p b u) (ht : ts.contains p.typ = true) :
    arrive ts n p b = afterPkt (reorderFull b) (takeControl n p u) := by
  obtain ⟨-, h2, h3, h4, h5⟩ := h
  subst h5
  unfold arrive
  rw [if_pos ⟨h2, ht⟩]
  simp [deliver, h3, h4]

/-- A packet for this chip that arrives is taken, and its port acknowledges. -/
theorem arrive_data {ts n p b u} (h : dataArrives n p b u) (ht : ts.contains p.typ = true) (hv : p.vc ≠ 3) :
    arrive ts n p b = afterPkt (reorderFull b) (takeData n p u) := by
  obtain ⟨-, h2, h3, h4, h5, h6⟩ := h
  subst h6
  have hk : kitePort (b.port n) = true := by
    simp only [portActive, decide_eq_true_eq] at h2; simp [kitePort, h2]
  unfold arrive
  rw [if_pos ⟨hk, ht⟩]
  have h2' : portActive (b.updPort n fun q => { q with rxCtr := q.rxCtr + 1 }) n = true := by
    simpa [portActive] using h2
  have h4' : ¬ (p.dest ≠ (b.updPort n fun q => { q with rxCtr := q.rxCtr + 1 }).chip) := by simpa using h4
  simp only [deliver, h3, hv, h2', if_neg h4']
  rfl

/-- Leaving B1 keeps the sources. -/
@[simp] theorem leaveB1_src (b : Blk) (s) : (leaveB1 b).src s = b.src s := by unfold leaveB1; split <;> rfl

/-- A request that is the next of its source is applied, then what was held behind it. -/
theorem takeReq_next {n p b u v} (h : requestArrives n p b u v) (ht : p.typ ≠ 0x08) :
    takeReq p u = drainHeld applyAny (((applyAny p v).src p.src).held.length + 1) p.src (applyAny p v) := by
  obtain ⟨-, h2, h3⟩ := h
  subst h3
  unfold takeReq
  simp only [ht, false_or]
  have hs : ((if p.typ = 0x04 then u else leaveB1 u).src p.src) = u.src p.src := by split <;> simp
  unfold recvReq
  rw [if_neg ht]
  have e1 : ¬ (p.txn ≤ (u.src p.src).last) := by omega
  simp only [hs, h2, if_pos, if_neg (show ¬ ((u.src p.src).last + 1 ≤ (u.src p.src).last) by omega)]

/-- A link event happens while the link layer runs. -/
theorem actLink_on {f b p} (h : linkOn b) : actLink f ⟨p, b⟩ = .next ⟨p, f b⟩ := by
  simp [actLink, act, h.1, h.2.1, h.2.2]

/-- A unit's event happens while the units run and debug does not hold the unit. -/
theorem actUnit_on {pg f b p} (h : unitOn pg b) : actUnit pg f ⟨p, b⟩ = .next ⟨p, f b⟩ := by
  simp [actUnit, act, h.1, h.2]

/-- What applies a request outside a block reset. -/
theorem applyAny_on {p v} (h : v.rcv.blockPhase = 0) : applyAny p v = (match p.typ with
    | 0x01 => applyWr p v
    | 0x02 => applyRd p v
    | 0x03 => applyAt p v
    | 0x04 => applyFsig p v
    | 0x05 => applyPlanPkt p v
    | 0x06 => applyReady p v
    | 0x07 => applyLeave p v
    | _ => v) := by
  unfold applyAny
  exact if_neg (by simp [h])

/-- A request that arrives finds no block reset. -/
theorem req_phase {n p b u v} (h : requestArrives n p b u v) : v.rcv.blockPhase = 0 := by
  obtain ⟨⟨-, -, -, -, h5, h6⟩, -, h3⟩ := h
  subst h3 h6
  split <;> simpa [Blk.updSrc] using h5

/-- A request packet of channel 0 that is the next of its source. -/
theorem request_row {ts n p b u v} (h : requestArrives n p b u v) (ht : ts.contains p.typ = true) (h8 : p.typ ≠ 8) (hv : typeVc p.typ = 0) :
    arrive ts n p b = afterPkt (reorderFull b) (oweCredit n p (drainHeld applyAny (((applyAny p v).src p.src).held.length + 1) p.src (applyAny p v))) := by
  have h0 : p.vc = 0 := by rw [pktOk_vc h.1.2.2.1, hv]
  rw [arrive_data h.1 ht (by omega), takeData, h0]
  simp only [takeReq_next h h8]

/-- A unit's event does nothing while the units do not run or debug holds the unit. -/
theorem actUnit_held {pg f b p} (h : frozenUnit b pg = true ∨ unitsRun b = false) : actUnit pg f ⟨p, b⟩ = .next ⟨p, b⟩ := by
  unfold actUnit
  rw [act_on]
  rcases h with h | h <;> simp [h]

/-- A link event does nothing while the link layer does not run. -/
theorem actLink_held {f b p} (h : frozenUnit b pgLMF = true ∨ 2 ≤ b.pwr.pstate ∨ b.pwr.supplies = false) :
    actLink f ⟨p, b⟩ = .next ⟨p, b⟩ := by
  unfold actLink
  rw [act_on]
  rw [if_neg]
  rintro ⟨h1, h2, h3⟩
  rcases h with h | h | h
  · simp [h3] at h
  · omega
  · simp [h1] at h

/-- A command that goes through `act` keeps the queue. -/
theorem act_next {f : Blk → Blk} {p b t} (h : act f ⟨p, b⟩ = .next t) : t.pending = p ∧ t.blk = f b := by
  cases h; exact ⟨rfl, rfl⟩

/-! ## What admission of an access changes: page headers and PWR alone -/

/-- Nothing but page headers and PWR differs. -/
def OnlyHeaders (b u : Blk) : Prop := u = { b with pages := u.pages, pwr := u.pwr }

theorem onlyHeaders_refl (b) : OnlyHeaders b b := rfl

theorem onlyHeaders_pageErr (pg c b) : OnlyHeaders b (pageErr pg c b) := rfl

theorem onlyHeaders_trans {a b c} (h : OnlyHeaders a b) (h2 : OnlyHeaders b c) : OnlyHeaders a c := by
  unfold OnlyHeaders at *; rw [h2, h]

theorem onlyHeaders_viewErr (s pg c b) : OnlyHeaders b (viewErr s pg c b) := rfl

theorem onlyHeaders_errFrom (who s pg c b) : OnlyHeaders b (errFrom who s pg c b) := by unfold errFrom; split <;> rfl

theorem onlyHeaders_leaveB1 (b) : OnlyHeaders b (leaveB1 b) := by unfold leaveB1; split <;> rfl

theorem onlyHeaders_gate (who pg w b) : OnlyHeaders b (gatePower who pg w b).1 := by
  unfold gatePower
  split
  · rfl
  · split
    · split
      · unfold requestWake; split <;> rfl
      · split
        · dsimp only; split <;> rfl
        · exact onlyHeaders_trans (b := if w || pg != pgPWR then abortGrace b else b) (by split; unfold abortGrace; split <;> rfl; rfl) (onlyHeaders_leaveB1 _)
    · split
      · unfold requestWake; split <;> rfl
      · split
        · dsimp only; split <;> rfl
        · exact onlyHeaders_trans (b := if w || pg != pgPWR then abortGrace b else b) (by split; unfold abortGrace; split <;> rfl; rfl) (onlyHeaders_leaveB1 _)
    · split
      · rfl
      · split
        · split
          · rfl
          · dsimp only; split <;> rfl
        · dsimp only; split
          · rfl
          · exact onlyHeaders_leaveB1 _
    · split
      · rfl
      · exact onlyHeaders_leaveB1 _
    · rfl
    · rfl

theorem onUnit_cases (who pg b k) : ∃ g, OnlyHeaders b g ∧ (onUnit who pg b k = g ∨ onUnit who pg b k = k g) := by
  have h := onlyHeaders_gate who pg true b
  unfold onUnit
  generalize gatePower who pg true b = r at h
  obtain ⟨g, o⟩ := r
  cases o
  · exact ⟨g, h, .inl rfl⟩
  · dsimp only
    split
    · exact ⟨g, h, .inr rfl⟩
    · exact ⟨_, onlyHeaders_trans h (onlyHeaders_pageErr pg 2 g), .inl rfl⟩

theorem onView_cases (who page pg b k) : ∃ g, OnlyHeaders b g ∧ (onView who page pg b k = g ∨ ∃ s, onView who page pg b k = k s g) := by
  have h := onlyHeaders_gate who (pgView page) true b
  unfold onView
  generalize gatePower who (pgView page) true b = r at h
  obtain ⟨g, o⟩ := r
  cases o
  · exact ⟨g, h, .inl rfl⟩
  · dsimp only
    split
    · exact ⟨_, onlyHeaders_trans h (onlyHeaders_pageErr pgQFE 7 g), .inl rfl⟩
    · split
      · exact ⟨g, h, .inr ⟨_, rfl⟩⟩
      · exact ⟨_, onlyHeaders_trans h (onlyHeaders_pageErr pg 2 g), .inl rfl⟩

/-! ## Stores, traces, fires -/

theorem gate_mem (who pg w b) : (gatePower who pg w b).1.mem = b.mem := by
  unfold gatePower
  repeat' split
  all_goals first | rfl | skip
  all_goals simp only [requestWake, leaveB1, abortGrace, pageErr]
  all_goals repeat' split
  all_goals rfl

theorem leBytes_length (n v) : (leBytes n v).length = n := by
  induction n generalizing v with
  | zero => rfl
  | succ n ih => simp [leBytes, ih]

theorem foldl_same {α : Type} (f : Blk → α → Blk) (hf : ∀ b a, ∃ x, f b a = { b with xlt := x }) (l : List α) :
    ∀ b, ∃ x, l.foldl f b = { b with xlt := x } := by
  induction l with
  | nil => intro b; exact ⟨b.xlt, rfl⟩
  | cons a l ih =>
    intro b
    rw [List.foldl_cons]
    obtain ⟨y, hy⟩ := hf b a
    obtain ⟨x, hx⟩ := ih (f b a)
    rw [hx, hy]
    exact ⟨x, rfl⟩

theorem noteDirty_same (b k n) : ∃ x, noteDirty b k n = { b with xlt := x } := by
  unfold noteDirty
  refine foldl_same _ ?_ _ b
  intro b g
  split <;> exact ⟨_, rfl⟩

theorem storeLocal_same (k bs b) : ∃ x o u, storeLocal k bs b = { b with mem := memWrite b.mem k bs, xlt := x, out := o, uncorr := u } := by
  unfold storeLocal
  split
  · rename_i h
    have : bs = [] := by simpa using h
    subst this
    exact ⟨_, _, _, rfl⟩
  · obtain ⟨x, hx⟩ := noteDirty_same ((({ b with mem := memWrite b.mem k bs, uncorr := healed b.uncorr k bs.length } : Blk).emit (.reservationClear (k / 64) (linesOf k bs.length).length))) k bs.length
    exact ⟨x, _, _, hx⟩

theorem tracePut_same (r t) (h : isLocal t (t.trc.base + 32 * t.trc.tail) = true) (h2 : paSpace (t.trc.base + 32 * t.trc.tail) < 2) :
    ∃ x o u c, tracePut r t = { t with mem := memWrite t.mem (paKey (t.trc.base + 32 * t.trc.tail)) r, xlt := x, out := o, uncorr := u, trc := c } ∧
      c.triggers = t.trc.triggers ∧ c.postCount = t.trc.postCount ∧ c.trigMissed = t.trc.trigMissed := by
  obtain ⟨x, o, u, hs⟩ := storeLocal_same (paKey (t.trc.base + 32 * t.trc.tail)) r t
  unfold tracePut
  have : paWrite (t.trc.base + 32 * t.trc.tail) r t = storeLocal (paKey (t.trc.base + 32 * t.trc.tail)) r t := by
    unfold paWrite; rw [if_pos h, if_pos h2]
  rw [this, hs]
  exact ⟨x, o, u, _, rfl, rfl, rfl, rfl⟩

theorem trigger_put (r t) (h : isLocal t (t.trc.base + 32 * t.trc.tail) = true) (h2 : paSpace (t.trc.base + 32 * t.trc.tail) < 2) :
    (tracePut r (traceWindow r t)).mem = memWrite t.mem (paKey (t.trc.base + 32 * t.trc.tail)) r ∧
    (tracePut r (traceWindow r t)).ft = t.ft ∧ (tracePut r (traceWindow r t)).pwr = t.pwr ∧ (tracePut r (traceWindow r t)).evc = t.evc ∧
    (tracePut r (traceWindow r t)).trc.triggers = t.trc.triggers ∧ (tracePut r (traceWindow r t)).trc.postCount = t.trc.postCount ∧
    (tracePut r (traceWindow r t)).trc.trigMissed = t.trc.trigMissed := by
  obtain ⟨x, o, u, c, e1, e2, e3, e4⟩ := tracePut_same r (traceWindow r t) h h2
  rw [e1]
  exact ⟨rfl, rfl, rfl, rfl, e2, e3, e4⟩

theorem fire_frame (n c : Nat) (d : BitVec 32) (b : Blk) (h : b.pwr.pstate < 2) (h2 : (b.source n).assigned = true) :
    (fire n c d b).mem = b.mem ∧ (fire n c d b).trc = b.trc ∧ ((fire n c d b).source n).pending = true := by
  have e : fire n c d b = leaveB1 (b.updSource n fun s => s.fire c d b.ft none) := by
    unfold fire; rw [if_neg (by omega), if_pos h2]
  rw [e]
  have hl : ∀ x : Blk, (leaveB1 x).mem = x.mem ∧ (leaveB1 x).trc = x.trc ∧ (leaveB1 x).source n = x.source n := by
    intro x; unfold leaveB1; split <;> exact ⟨rfl, rfl, rfl⟩
  obtain ⟨a1, a2, a3⟩ := hl (b.updSource n fun s => s.fire c d b.ft none)
  refine ⟨a1, a2, ?_⟩
  rw [a3]
  have : (b.updSource n fun s => s.fire c d b.ft none).source n = (b.source n).fire c d b.ft none := Tab.getD_set_same _ _ _ _
  rw [this]; unfold Source'.fire; dsimp only; split <;> simp_all

/-! ## Byte strings and numbers -/

theorem leNat_leBytes (n : Nat) : ∀ x, leNat (leBytes n x) = x % 2 ^ (8 * n) := by
  induction n with
  | zero => intro x; simp [leBytes, leNat]; omega
  | succ n ih =>
    intro x
    simp only [leBytes, leNat, ih, BitVec.toNat_ofNat]
    have : 2 ^ (8 * (n + 1)) = 256 * 2 ^ (8 * n) := by rw [Nat.mul_succ, Nat.pow_add]; omega
    rw [this, Nat.mod_mul]

theorem leNat_lt (bs : Bytes) : leNat bs < 2 ^ (8 * bs.length) := by
  induction bs with
  | nil => simp [leNat]
  | cons x l ih =>
    have : 2 ^ (8 * (x :: l).length) = 256 * 2 ^ (8 * l.length) := by rw [List.length_cons, Nat.mul_succ, Nat.pow_add]; omega
    rw [this, leNat]
    have := x.isLt
    omega

theorem noteDirty_ctx (b k n) : (noteDirty b k n).ctx = b.ctx := by
  unfold noteDirty
  generalize granulesOf k n = l
  induction l generalizing b with
  | nil => rfl
  | cons g l ih =>
    rw [List.foldl_cons, ih]
    split <;> rfl

theorem stored_back (b : Blk) (k : Nat) (bs : Bytes) (h : Memory.wf b.mem = true) (h2 : b.ctx.spilled = []) (h3 : bs ≠ []) :
    loadLocal (storeLocal k bs b) k bs.length = bs := by
    have hb : ∀ i, (h' : i < bs.length) → memGet (storeLocal k bs b).mem (k + i) = bs[i] := by
      intro i hi
      rw [storeLocal_mem]
      have := memGet_memWrite_at bs b.mem k i h hi
      rw [this, List.getD_eq_getElem?_getD, List.getElem?_eq_getElem hi]; rfl
    have hc : (storeLocal k bs b).ctx = b.ctx := by
      unfold storeLocal
      rw [if_neg (by simpa using h3)]
      exact noteDirty_ctx _ _ _
    apply List.ext_getElem
    · simp [loadLocal]
    · intro i h4 h5
      simp only [loadLocal, List.getElem_map, List.getElem_range, byteAt, spillAt, hc, h2]
      have : (if b.ctx.tablesEn = true ∧ b.ctx.base + 0x800000 ≤ k + i ∧ k + i - (b.ctx.base + 0x800000) < 0x8000000 then
          Option.map (fun d => (d, (k + i - (b.ctx.base + 0x800000)) % 2048)) (Tab.get? ([] : Tab Nat) ((k + i - (b.ctx.base + 0x800000)) / 2048)) else none) = none := by
        split <;> rfl
      rw [this]; exact hb i h5

theorem signedOf_int (n x : Nat) (hn : 0 < n) (hx : x < 2 ^ (8 * n)) : signedOf n x = (BitVec.ofNat (8 * n) x).toInt := by
  rw [BitVec.toInt_eq_toNat_cond, BitVec.toNat_ofNat, Nat.mod_eq_of_lt hx]
  unfold signedOf
  have : 2 ^ (8 * n) = 2 * 2 ^ (8 * n - 1) := by rw [← Nat.pow_succ']; congr 1; omega
  by_cases h : x < 2 ^ (8 * n - 1)
  · rw [if_pos h, if_pos (by omega)]
  · rw [if_neg h, if_neg (by omega)]

theorem windowNs_pos (k) : 0 < windowNs k := by unfold windowNs; positivity

theorem windowNs_dvd {j k} (h : j ≤ k) : windowNs j ∣ windowNs k := by
  unfold windowNs; exact Nat.mul_dvd_mul_left _ (Nat.pow_dvd_pow 2 h)

theorem noteHeld_rem (g : Regulator) (c) : (Regulator.noteHeld g).rem c = g.rem c := by unfold Regulator.noteHeld; split <;> rfl

theorem noteHeld_ft (g : Regulator) : (Regulator.noteHeld g).windowFt = g.windowFt := by unfold Regulator.noteHeld; split <;> rfl

theorem refill_ft (g : Regulator) (a) : (g.refill a).windowFt = a := by unfold Regulator.refill; exact noteHeld_ft _

end Sys2Proof.Machine
end

