-- ==== Sys2Proof/Laws/PerInstr.lean ====
section
/-! SUPPORT. Per command: a well-formed command that names a Lemdy port names one that the block has. -/

set_option Elab.async false

namespace Sys2Proof.Laws.PortNamed

open Sys2Proof

/-- The Lemdy port that a command names. -/
def portOf : Instr → Option Nat
  | .fsigReceive port _ => some port
  | .fackReceive port _ => some port
  | .remoteWriteAck port _ => some port
  | .readyReceive port _ => some port
  | .planReceive port _ => some port
  | .leaveReceive port _ => some port
  | .collChunkReceive port _ => some port
  | .collRreqReceive port _ => some port
  | .laneRemove port _ => some port
  | .laneReceive port _ => some port
  | .markersMissed port => some port
  | .codewordReceive port _ => some port
  | .lackReceive port _ => some port
  | .retryReceive port _ => some port
  | .lackSendTimer port => some port
  | .creditReceive port _ => some port
  | .remoteWrReceive port _ => some port
  | .remoteRdReceive port _ => some port
  | .remoteAtReceive port _ => some port
  | .sessionReceive port _ => some port
  | .responseReceive port _ => some port
  | .portDown port _ => some port
  | .portRetryTimer port => some port
  | .calDone port _ => some port
  | .trainDone port _ => some port
  | .alignDone port _ _ _ => some port
  | .keychkReceive port _ _ => some port
  | .measureDone port _ => some port
  | .portOffDrainEnd port => some port
  | .retrain _ port _ => some port
  | .kiteSend port _ => some port
  | .kiteReceive port _ => some port
  | .keySwitch port => some port
  | .rekeyThreshold port => some port
  | _ => none

/-- The port of a well-formed command is below 32 (01_block_boundary.md, 10_lemdy_fabric.md). -/
def Statement (i : Instr) : Prop := i.wf = true → ∀ p, portOf i = some p → p < 32

theorem sqDoorbellWrite (who : Who) (page off size : Nat) (w : W32) : Statement (.sqDoorbellWrite who page off size w) := fun _ _ e => by cases e
theorem cqDoorbellWrite (who : Who) (page off size : Nat) (w : W32) : Statement (.cqDoorbellWrite who page off size w) := fun _ _ e => by cases e
theorem deviceDoorbell (who : Who) (page size : Nat) (w : W32) : Statement (.deviceDoorbell who page size w) := fun _ _ e => by cases e
theorem queueCreate (who : Who) (page : Nat) (w : W32) : Statement (.queueCreate who page w) := fun _ _ e => by cases e
theorem queueDestroy (who : Who) (page : Nat) (w : W32) : Statement (.queueDestroy who page w) := fun _ _ e => by cases e
theorem queueDrainEnd (slice slot : Nat) : Statement (.queueDrainEnd slice slot) := fun _ _ e => by cases e
theorem arbitrationTurn : Statement .arbitrationTurn := fun _ _ e => by cases e
theorem entryReceived (slice slot : Nat) (ext : ExtRead) : Statement (.entryReceived slice slot ext) := fun _ _ e => by cases e
theorem itemStart (item : Nat) : Statement (.itemStart item) := fun _ _ e => by cases e
theorem completionWriteRetry (item : Nat) : Statement (.completionWriteRetry item) := fun _ _ e => by cases e
theorem itemDeadlineExpiry (item : Nat) : Statement (.itemDeadlineExpiry item) := fun _ _ e => by cases e
theorem launch (item : Nat) : Statement (.launch item) := fun _ _ e => by cases e
theorem copy (item : Nat) : Statement (.copy item) := fun _ _ e => by cases e
theorem reduce (item : Nat) : Statement (.reduce item) := fun _ _ e => by cases e
theorem collective (item : Nat) : Statement (.collective item) := fun _ _ e => by cases e
theorem kvMove (item : Nat) : Statement (.kvMove item) := fun _ _ e => by cases e
theorem fenceSignal (item : Nat) : Statement (.fenceSignal item) := fun _ _ e => by cases e
theorem fenceWait (item : Nat) : Statement (.fenceWait item) := fun _ _ e => by cases e
theorem flushRange (item : Nat) : Statement (.flushRange item) := fun _ _ e => by cases e
theorem modelLoad (item : Nat) : Statement (.modelLoad item) := fun _ _ e => by cases e
theorem modelPin (item : Nat) : Statement (.modelPin item) := fun _ _ e => by cases e
theorem stepRun (item : Nat) : Statement (.stepRun item) := fun _ _ e => by cases e
theorem seqJoin (item : Nat) : Statement (.seqJoin item) := fun _ _ e => by cases e
theorem seqLeave (item : Nat) : Statement (.seqLeave item) := fun _ _ e => by cases e
theorem alloc (item : Nat) : Statement (.alloc item) := fun _ _ e => by cases e
theorem free (item : Nat) : Statement (.free item) := fun _ _ e => by cases e
theorem workGroupPlace (part : Nat) : Statement (.workGroupPlace part) := fun _ _ e => by cases e
theorem workGroupEnd (core launch : Nat) : Statement (.workGroupEnd core launch) := fun _ _ e => by cases e
theorem cheapPointAck (core : Nat) : Statement (.cheapPointAck core) := fun _ _ e => by cases e
theorem coreIdle (core : Nat) (image : Bytes) : Statement (.coreIdle core image) := fun _ _ e => by cases e
theorem graceExpiry (core : Nat) (mapUnreadable : Bool) : Statement (.graceExpiry core mapUnreadable) := fun _ _ e => by cases e
theorem saveStopFailure (core : Nat) (cause : StopCause) : Statement (.saveStopFailure core cause) := fun _ _ e => by cases e
theorem restoreDispatch (ctx : Nat) : Statement (.restoreDispatch ctx) := fun _ _ e => by cases e
theorem restoreFailure (core : Nat) (uncorrectable : Bool) : Statement (.restoreFailure core uncorrectable) := fun _ _ e => by cases e
theorem cacheMaintenanceAck (core : Nat) (lines : FlushLines) : Statement (.cacheMaintenanceAck core lines) := fun _ _ e => by cases e
theorem preempt (who : Who) (w : W32) : Statement (.preempt who w) := fun _ _ e => by cases e
theorem resume (who : Who) (w : W32) : Statement (.resume who w) := fun _ _ e => by cases e
theorem schLwaWrite (who : Who) (w : W32) : Statement (.schLwaWrite who w) := fun _ _ e => by cases e
theorem signalPortWrite (who : Who) (page off : Nat) (bytes : Bytes) : Statement (.signalPortWrite who page off bytes) := fun _ _ e => by cases e
theorem pollRecheck : Statement .pollRecheck := fun _ _ e => by cases e
theorem waitDeadlineExpiry (item : Nat) : Statement (.waitDeadlineExpiry item) := fun _ _ e => by cases e
theorem fsigReceive (port : Nat) (p : Pkt) : Statement (.fsigReceive port p) := fun h p e => by cases e; simp [Instr.wf, ltB] at h; omega
theorem fackReceive (port : Nat) (p : Pkt) : Statement (.fackReceive port p) := fun h p e => by cases e; simp [Instr.wf, ltB] at h; omega
theorem remoteSignalTimeout (item : Nat) : Statement (.remoteSignalTimeout item) := fun _ _ e => by cases e
theorem fsigSend (item : Nat) : Statement (.fsigSend item) := fun _ _ e => by cases e
theorem fenceQueryRead (who : Who) (page size : Nat) : Statement (.fenceQueryRead who page size) := fun _ _ e => by cases e
theorem fenceStaleClear (who : Who) (page : Nat) (w : W32) : Statement (.fenceStaleClear who page w) := fun _ _ e => by cases e
theorem managerFenceQueryRead (who : Who) (size : Nat) : Statement (.managerFenceQueryRead who size) := fun _ _ e => by cases e
theorem remoteWriteAck (port : Nat) (p : Pkt) : Statement (.remoteWriteAck port p) := fun h p e => by cases e; simp [Instr.wf, ltB] at h; omega
theorem remoteWriteLost (dest txn : Nat) : Statement (.remoteWriteLost dest txn) := fun _ _ e => by cases e
theorem remoteReadTimeout (dest txn : Nat) : Statement (.remoteReadTimeout dest txn) := fun _ _ e => by cases e
theorem hostFlushReadIssue (fn : Nat) : Statement (.hostFlushReadIssue fn) := fun _ _ e => by cases e
theorem hostReadCompletion (tag : Nat) (ext : ExtRead) : Statement (.hostReadCompletion tag ext) := fun _ _ e => by cases e
theorem hostReadTimeout (tag : Nat) : Statement (.hostReadTimeout tag) := fun _ _ e => by cases e
theorem ownershipPushAck (push : Nat) : Statement (.ownershipPushAck push) := fun _ _ e => by cases e
theorem atsCompletion (slice page hpa : Nat) (read write : Bool) : Statement (.atsCompletion slice page hpa read write) := fun _ _ e => by cases e
theorem rangeCacheMissDone (miss : Nat) : Statement (.rangeCacheMissDone miss) := fun _ _ e => by cases e
theorem atsInvalidationRequest (fn pasid hva pages itag : Nat) : Statement (.atsInvalidationRequest fn pasid hva pages itag) := fun _ _ e => by cases e
theorem holdRelease (holder : Holder) : Statement (.holdRelease holder) := fun _ _ e => by cases e
theorem shootdownAck (core : Nat) : Statement (.shootdownAck core) := fun _ _ e => by cases e
theorem invalidationAbort (epoch : Nat) : Statement (.invalidationAbort epoch) := fun _ _ e => by cases e
theorem abortDrainExpiry (epoch lines : Nat) : Statement (.abortDrainExpiry epoch lines) := fun _ _ e => by cases e
theorem faultBatchClose (slice : Nat) : Statement (.faultBatchClose slice) := fun _ _ e => by cases e
theorem prgResponse (fn prg code : Nat) : Statement (.prgResponse fn prg code) := fun _ _ e => by cases e
theorem fqHeadWrite (who : Who) (page : Nat) (w : W32) : Statement (.fqHeadWrite who page w) := fun _ _ e => by cases e
theorem fqEnWrite (who : Who) (page : Nat) (w : W32) : Statement (.fqEnWrite who page w) := fun _ _ e => by cases e
theorem hotNotice (slice granule : Nat) : Statement (.hotNotice slice granule) := fun _ _ e => by cases e
theorem accClear (who : Who) (page : Nat) (w : W32) : Statement (.accClear who page w) := fun _ _ e => by cases e
theorem dirtyRecord (slice addr : Nat) (host : Bool) : Statement (.dirtyRecord slice addr host) := fun _ _ e => by cases e
theorem mapPeer (who : Who) (w : W32) (ext : ExtRead) : Statement (.mapPeer who w ext) := fun _ _ e => by cases e
theorem unmapPeer (who : Who) (w : W32) (ext : ExtRead) : Statement (.unmapPeer who w ext) := fun _ _ e => by cases e
theorem dirtyStart (who : Who) (w : W32) (ext : ExtRead) : Statement (.dirtyStart who w ext) := fun _ _ e => by cases e
theorem dirtyStop (who : Who) (w : W32) (ext : ExtRead) : Statement (.dirtyStop who w ext) := fun _ _ e => by cases e
theorem dirtyRearm (who : Who) (w : W32) (ext : ExtRead) : Statement (.dirtyRearm who w ext) := fun _ _ e => by cases e
theorem invalSlice (who : Who) (w : W32) (ext : ExtRead) : Statement (.invalSlice who w ext) := fun _ _ e => by cases e
theorem xltAreaWrite (who : Who) (off : Nat) (w : W32) : Statement (.xltAreaWrite who off w) := fun _ _ e => by cases e
theorem createPartition (who : Who) (w : W32) (ext : ExtRead) : Statement (.createPartition who w ext) := fun _ _ e => by cases e
theorem destroyPartition (who : Who) (w : W32) (ext : ExtRead) : Statement (.destroyPartition who w ext) := fun _ _ e => by cases e
theorem createSlice (who : Who) (w : W32) (ext : ExtRead) : Statement (.createSlice who w ext) := fun _ _ e => by cases e
theorem modifySlice (who : Who) (w : W32) (ext : ExtRead) : Statement (.modifySlice who w ext) := fun _ _ e => by cases e
theorem destroySlice (who : Who) (w : W32) (ext : ExtRead) : Statement (.destroySlice who w ext) := fun _ _ e => by cases e
theorem grant (who : Who) (w : W32) (ext : ExtRead) : Statement (.grant who w ext) := fun _ _ e => by cases e
theorem reclaim (who : Who) (w : W32) (ext : ExtRead) : Statement (.reclaim who w ext) := fun _ _ e => by cases e
theorem createContext (who : Who) (w : W32) (ext : ExtRead) : Statement (.createContext who w ext) := fun _ _ e => by cases e
theorem destroyContext (who : Who) (w : W32) (ext : ExtRead) : Statement (.destroyContext who w ext) := fun _ _ e => by cases e
theorem pinContext (who : Who) (w : W32) (ext : ExtRead) : Statement (.pinContext who w ext) := fun _ _ e => by cases e
theorem unpinContext (who : Who) (w : W32) (ext : ExtRead) : Statement (.unpinContext who w ext) := fun _ _ e => by cases e
theorem viewContextCreate (who : Who) (page : Nat) (w : W32) : Statement (.viewContextCreate who page w) := fun _ _ e => by cases e
theorem viewContextDestroy (who : Who) (page : Nat) (w : W32) : Statement (.viewContextDestroy who page w) := fun _ _ e => by cases e
theorem ctxTablesWrite (who : Who) (off : Nat) (w : W32) : Statement (.ctxTablesWrite who off w) := fun _ _ e => by cases e
theorem tdHeadWrite (who : Who) (w : W32) : Statement (.tdHeadWrite who w) := fun _ _ e => by cases e
theorem spillDone (ctx : Nat) : Statement (.spillDone ctx) := fun _ _ e => by cases e
theorem restoreDone (ctx : Nat) : Statement (.restoreDone ctx) := fun _ _ e => by cases e
theorem admissionServe : Statement .admissionServe := fun _ _ e => by cases e
theorem marionetteAssign : Statement .marionetteAssign := fun _ _ e => by cases e
theorem readyReceive (port : Nat) (p : Pkt) : Statement (.readyReceive port p) := fun h p e => by cases e; simp [Instr.wf, ltB] at h; omega
theorem planReceive (port : Nat) (p : Pkt) : Statement (.planReceive port p) := fun h p e => by cases e; simp [Instr.wf, ltB] at h; omega
theorem planTimeout (run : Nat) : Statement (.planTimeout run) := fun _ _ e => by cases e
theorem leaveReceive (port : Nat) (p : Pkt) : Statement (.leaveReceive port p) := fun h p e => by cases e; simp [Instr.wf, ltB] at h; omega
theorem admittedJoinTimeout (run seq : Nat) : Statement (.admittedJoinTimeout run seq) := fun _ _ e => by cases e
theorem stepStart (run : Nat) : Statement (.stepStart run) := fun _ _ e => by cases e
theorem operationStart (run : Nat) : Statement (.operationStart run) := fun _ _ e => by cases e
theorem operationComplete (run op : Nat) : Statement (.operationComplete run op) := fun _ _ e => by cases e
theorem stepCommit (run : Nat) : Statement (.stepCommit run) := fun _ _ e => by cases e
theorem stepRollback (run op : Nat) (fault : StepFault) : Statement (.stepRollback run op fault) := fun _ _ e => by cases e
theorem marionetteFailure (mar : Nat) : Statement (.marionetteFailure mar) := fun _ _ e => by cases e
theorem runEnd (run : Nat) : Statement (.runEnd run) := fun _ _ e => by cases e
theorem modelBlockLoaded (work : Nat) : Statement (.modelBlockLoaded work) := fun _ _ e => by cases e
theorem modelStoreError (err : StoreError) : Statement (.modelStoreError err) := fun _ _ e => by cases e
theorem modelPieceReloaded (model piece : Nat) : Statement (.modelPieceReloaded model piece) := fun _ _ e => by cases e
theorem storeConfigWrite (who : Who) (off : Nat) (w : W32) : Statement (.storeConfigWrite who off w) := fun _ _ e => by cases e
theorem treItemAssign (work : Nat) : Statement (.treItemAssign work) := fun _ _ e => by cases e
theorem treChunkDone (engine : Nat) : Statement (.treChunkDone engine) := fun _ _ e => by cases e
theorem treFailure (engine : Nat) : Statement (.treFailure engine) := fun _ _ e => by cases e
theorem gcreate (who : Who) (w : W32) (ext : ExtRead) : Statement (.gcreate who w ext) := fun _ _ e => by cases e
theorem gdestroy (who : Who) (w : W32) (ext : ExtRead) : Statement (.gdestroy who w ext) := fun _ _ e => by cases e
theorem collChunkReceive (port : Nat) (p : Pkt) : Statement (.collChunkReceive port p) := fun h p e => by cases e; simp [Instr.wf, ltB] at h; omega
theorem collRreqReceive (port : Nat) (p : Pkt) : Statement (.collRreqReceive port p) := fun h p e => by cases e; simp [Instr.wf, ltB] at h; omega
theorem stageChunkExpiry : Statement .stageChunkExpiry := fun _ _ e => by cases e
theorem collPeerTimeout (coll : Nat) : Statement (.collPeerTimeout coll) := fun _ _ e => by cases e
theorem laneRemove (port lane : Nat) : Statement (.laneRemove port lane) := fun h p e => by cases e; simp [Instr.wf, ltB] at h; omega
theorem laneReceive (port : Nat) (p : Pkt) : Statement (.laneReceive port p) := fun h p e => by cases e; simp [Instr.wf, ltB] at h; omega
theorem markersMissed (port : Nat) : Statement (.markersMissed port) := fun h p e => by cases e; simp [Instr.wf, ltB] at h; omega
theorem codewordReceive (port : Nat) (cw : Codeword) : Statement (.codewordReceive port cw) := fun h p e => by cases e; simp [Instr.wf, ltB] at h; omega
theorem lackReceive (port : Nat) (p : Pkt) : Statement (.lackReceive port p) := fun h p e => by cases e; simp [Instr.wf, ltB] at h; omega
theorem retryReceive (port : Nat) (p : Pkt) : Statement (.retryReceive port p) := fun h p e => by cases e; simp [Instr.wf, ltB] at h; omega
theorem lackSendTimer (port : Nat) : Statement (.lackSendTimer port) := fun h p e => by cases e; simp [Instr.wf, ltB] at h; omega
theorem creditReceive (port : Nat) (p : Pkt) : Statement (.creditReceive port p) := fun h p e => by cases e; simp [Instr.wf, ltB] at h; omega
theorem remoteWrReceive (port : Nat) (p : Pkt) : Statement (.remoteWrReceive port p) := fun h p e => by cases e; simp [Instr.wf, ltB] at h; omega
theorem remoteRdReceive (port : Nat) (p : Pkt) : Statement (.remoteRdReceive port p) := fun h p e => by cases e; simp [Instr.wf, ltB] at h; omega
theorem remoteAtReceive (port : Nat) (p : Pkt) : Statement (.remoteAtReceive port p) := fun h p e => by cases e; simp [Instr.wf, ltB] at h; omega
theorem sessionReceive (port : Nat) (p : Pkt) : Statement (.sessionReceive port p) := fun h p e => by cases e; simp [Instr.wf, ltB] at h; omega
theorem responseReceive (port : Nat) (p : Pkt) : Statement (.responseReceive port p) := fun h p e => by cases e; simp [Instr.wf, ltB] at h; omega
theorem txnGapTimeout (src : Nat) : Statement (.txnGapTimeout src) := fun _ _ e => by cases e
theorem transactionTimeout (dest txn : Nat) : Statement (.transactionTimeout dest txn) := fun _ _ e => by cases e
theorem portDown (port cause : Nat) : Statement (.portDown port cause) := fun h p e => by cases e; simp [Instr.wf, ltB] at h; omega
theorem portRetryTimer (port : Nat) : Statement (.portRetryTimer port) := fun h p e => by cases e; simp [Instr.wf, ltB] at h; omega
theorem calDone (port : Nat) (ok : Bool) : Statement (.calDone port ok) := fun h p e => by cases e; simp [Instr.wf, ltB] at h; omega
theorem trainDone (port : Nat) (lanes : Lanes) : Statement (.trainDone port lanes) := fun h p e => by cases e; simp [Instr.wf, ltB] at h; omega
theorem alignDone (port : Nat) (ok : Bool) (chip peerPort : Nat) : Statement (.alignDone port ok chip peerPort) := fun h p e => by cases e; simp [Instr.wf, ltB] at h; omega
theorem keychkReceive (port : Nat) (cipher tag : Bytes) : Statement (.keychkReceive port cipher tag) := fun h p e => by cases e; simp [Instr.wf, ltB] at h; omega
theorem measureDone (port : Nat) (delays : Nats) : Statement (.measureDone port delays) := fun h p e => by cases e; simp [Instr.wf, ltB] at h; omega
theorem portEnWrite (who : Who) (w : W32) : Statement (.portEnWrite who w) := fun _ _ e => by cases e
theorem portOffDrainEnd (port : Nat) : Statement (.portOffDrainEnd port) := fun h p e => by cases e; simp [Instr.wf, ltB] at h; omega
theorem retrain (who : Who) (port : Nat) (w : W32) : Statement (.retrain who port w) := fun h p e => by cases e; simp [Instr.wf, ltB] at h; omega
theorem routingCommit (who : Who) (chip : Nat) (w : W32) : Statement (.routingCommit who chip w) := fun _ _ e => by cases e
theorem kiteSend (port frac : Nat) : Statement (.kiteSend port frac) := fun h p e => by cases e; simp [Instr.wf, ltB] at h; omega
theorem kiteReceive (port : Nat) (p : Pkt) : Statement (.kiteReceive port p) := fun h p e => by cases e; simp [Instr.wf, ltB] at h; omega
theorem holdoverTimeout : Statement .holdoverTimeout := fun _ _ e => by cases e
theorem keySwitch (port : Nat) : Statement (.keySwitch port) := fun h p e => by cases e; simp [Instr.wf, ltB] at h; omega
theorem rekeyThreshold (port : Nat) : Statement (.rekeyThreshold port) := fun h p e => by cases e; simp [Instr.wf, ltB] at h; omega
theorem regulatorWindow (reg : Nat) : Statement (.regulatorWindow reg) := fun _ _ e => by cases e
theorem regulatorIssue (reg : Nat) (arrivals : Requests) : Statement (.regulatorIssue reg arrivals) := fun _ _ e => by cases e
theorem feedbackLevelChange (ctrl level : Nat) : Statement (.feedbackLevelChange ctrl level) := fun _ _ e => by cases e
theorem regulatorCtrlCommit (who : Who) (reg : Nat) (w : W32) : Statement (.regulatorCtrlCommit who reg w) := fun _ _ e => by cases e
theorem wiredLineChange (line : Nat) (level : Bool) : Statement (.wiredLineChange line level) := fun _ _ e => by cases e
theorem pendingWrite (who : Who) (page off : Nat) (bytes : Bytes) : Statement (.pendingWrite who page off bytes) := fun _ _ e => by cases e
theorem evcDoorbell (who : Who) (w : W32) : Statement (.evcDoorbell who w) := fun _ _ e => by cases e
theorem evcModeWrite (who : Who) (w : W32) : Statement (.evcModeWrite who w) := fun _ _ e => by cases e
theorem pendSet (who : Who) (word : Nat) (w : W32) : Statement (.pendSet who word w) := fun _ _ e => by cases e
theorem pendClr (who : Who) (word : Nat) (w : W32) : Statement (.pendClr who word w) := fun _ _ e => by cases e
theorem sourceConfigWrite (who : Who) (w : W32) : Statement (.sourceConfigWrite who w) := fun _ _ e => by cases e
theorem pnEnWrite (who : Who) (page : Nat) (w : W32) : Statement (.pnEnWrite who page w) := fun _ _ e => by cases e
theorem pnHeadWrite (who : Who) (page : Nat) (w : W32) : Statement (.pnHeadWrite who page w) := fun _ _ e => by cases e
theorem pennantRecordIssue : Statement .pennantRecordIssue := fun _ _ e => by cases e
theorem mbxSend (side : MbxSide) (chan : Nat) : Statement (.mbxSend side chan) := fun _ _ e => by cases e
theorem mbxWithdraw (side : MbxSide) (chan : Nat) : Statement (.mbxWithdraw side chan) := fun _ _ e => by cases e
theorem mbxRelease (side : MbxSide) (chan : Nat) : Statement (.mbxRelease side chan) := fun _ _ e => by cases e
theorem mbxTake (side : MbxSide) (chan : Nat) : Statement (.mbxTake side chan) := fun _ _ e => by cases e
theorem mbxAck (side : MbxSide) (chan : Nat) (code : W16) : Statement (.mbxAck side chan code) := fun _ _ e => by cases e
theorem lockRead (who : Who) (lock : Nat) : Statement (.lockRead who lock) := fun _ _ e => by cases e
theorem lockFreeWrite (who : Who) (lock : Nat) (w : W32) : Statement (.lockFreeWrite who lock w) := fun _ _ e => by cases e
theorem lockBreak (who : Who) (secure : Bool) (w : W32) : Statement (.lockBreak who secure w) := fun _ _ e => by cases e
theorem monitorFire (mon : Monitor) : Statement (.monitorFire mon) := fun _ _ e => by cases e
theorem coreFaultLine (core : Nat) (level : Bool) : Statement (.coreFaultLine core level) := fun _ _ e => by cases e
theorem contextReset (req : RungReq) : Statement (.contextReset req) := fun _ _ e => by cases e
theorem engineReset (req : RungReq) : Statement (.engineReset req) := fun _ _ e => by cases e
theorem partitionReset (req : RungReq) : Statement (.partitionReset req) := fun _ _ e => by cases e
theorem blockReset (req : RungReq) : Statement (.blockReset req) := fun _ _ e => by cases e
theorem dump (req : RungReq) : Statement (.dump req) := fun _ _ e => by cases e
theorem dumpReadTimeout (unit word : Nat) : Statement (.dumpReadTimeout unit word) := fun _ _ e => by cases e
theorem selfTestDone (unit : SelfTest) (pass : Bool) : Statement (.selfTestDone unit pass) := fun _ _ e => by cases e
theorem identity (rec' : Bytes) : Statement (.identity rec') := fun _ _ e => by cases e
theorem sliceKey (rec' : Bytes) : Statement (.sliceKey rec') := fun _ _ e => by cases e
theorem linkKey (rec' : Bytes) : Statement (.linkKey rec') := fun _ _ e => by cases e
theorem erase (rec' : Bytes) : Statement (.erase rec') := fun _ _ e => by cases e
theorem dbgGrant (rec' : Bytes) : Statement (.dbgGrant rec') := fun _ _ e => by cases e
theorem dbgDeny (rec' : Bytes) : Statement (.dbgDeny rec') := fun _ _ e => by cases e
theorem dbgReq (who : Who) (w : W32) : Statement (.dbgReq who w) := fun _ _ e => by cases e
theorem dbgDrop (who : Who) (w : W32) : Statement (.dbgDrop who w) := fun _ _ e => by cases e
theorem challengeExpiry (slice : OptNat) : Statement (.challengeExpiry slice) := fun _ _ e => by cases e
theorem alarmTrip (sensor slice : Nat) : Statement (.alarmTrip sensor slice) := fun _ _ e => by cases e
theorem niSelfWrite (who : Who) (page : Nat) (w : W32) : Statement (.niSelfWrite who page w) := fun _ _ e => by cases e
theorem niMgrReq (who : Who) (page : Nat) (w : W32) : Statement (.niMgrReq who page w) := fun _ _ e => by cases e
theorem niRespSubmit (who : Who) (page : Nat) (w : W32) : Statement (.niRespSubmit who page w) := fun _ _ e => by cases e
theorem niMgrDrop (who : Who) (page : Nat) (w : W32) : Statement (.niMgrDrop who page w) := fun _ _ e => by cases e
theorem b1Entry : Statement .b1Entry := fun _ _ e => by cases e
theorem b1Exit (cause : B1Cause) : Statement (.b1Exit cause) := fun _ _ e => by cases e
theorem enterB2 (who : Who) (w : W32) : Statement (.enterB2 who w) := fun _ _ e => by cases e
theorem b2GraceEnd : Statement .b2GraceEnd := fun _ _ e => by cases e
theorem enterB3 (who : Who) (w : W32) : Statement (.enterB3 who w) := fun _ _ e => by cases e
theorem wake (cause : WakeCause) (hbmLost : Bool) : Statement (.wake cause hbmLost) := fun _ _ e => by cases e
theorem coreSupplyLoss : Statement .coreSupplyLoss := fun _ _ e => by cases e
theorem suppliesValid : Statement .suppliesValid := fun _ _ e => by cases e
theorem startGo (who : Who) (w : W32) : Statement (.startGo who w) := fun _ _ e => by cases e
theorem readyReport : Statement .readyReport := fun _ _ e => by cases e
theorem rsSealWrite (who : Who) (w : W32) : Statement (.rsSealWrite who w) := fun _ _ e => by cases e
theorem genChipWrite (who : Who) (w : W32) : Statement (.genChipWrite who w) := fun _ _ e => by cases e
theorem trgNow (who : Who) (w : W32) : Statement (.trgNow who w) := fun _ _ e => by cases e
theorem arm (who : Who) (w : W32) : Statement (.arm who w) := fun _ _ e => by cases e
theorem mark (who : Who) (w : W32) : Statement (.mark who w) := fun _ _ e => by cases e
theorem tbHeadWrite (who : Who) (w : W32) : Statement (.tbHeadWrite who w) := fun _ _ e => by cases e
theorem tbModeWrite (who : Who) (w : W32) : Statement (.tbModeWrite who w) := fun _ _ e => by cases e
theorem stHeadWrite (who : Who) (page : Nat) (w : W32) : Statement (.stHeadWrite who page w) := fun _ _ e => by cases e
theorem stEnWrite (who : Who) (page : Nat) (w : W32) : Statement (.stEnWrite who page w) := fun _ _ e => by cases e
theorem latchedPairRead (who : Who) (off size : Nat) : Statement (.latchedPairRead who off size) := fun _ _ e => by cases e
theorem counterSatClear (who : Who) (off : Nat) (w : W32) : Statement (.counterSatClear who off w) := fun _ _ e => by cases e
theorem pageLockWrite (who : Who) (off : Nat) (w : W32) : Statement (.pageLockWrite who off w) := fun _ _ e => by cases e
theorem pageFreezeWrite (who : Who) (off : Nat) (w : W32) : Statement (.pageFreezeWrite who off w) := fun _ _ e => by cases e
theorem pageErrorClear (who : Who) (off : Nat) (w : W32) : Statement (.pageErrorClear who off w) := fun _ _ e => by cases e
theorem registerWrite (who : Who) (off size : Nat) (w hi : W32) : Statement (.registerWrite who off size w hi) := fun _ _ e => by cases e
theorem coreMemoryRequest (core : Nat) (req : CoreReq) : Statement (.coreMemoryRequest core req) := fun _ _ e => by cases e
theorem dispatchPortFailure (port : Nat) : Statement (.dispatchPortFailure port) := fun _ _ e => by cases e
theorem recordRestored (core : Nat) : Statement (.recordRestored core) := fun _ _ e => by cases e
theorem dumpComplete : Statement .dumpComplete := fun _ _ e => by cases e
theorem debugLockoutExpiry : Statement .debugLockoutExpiry := fun _ _ e => by cases e
theorem dirtyRingHeadAdvance (slice head : Nat) : Statement (.dirtyRingHeadAdvance slice head) := fun _ _ e => by cases e
theorem powerCycle : Statement .powerCycle := fun _ _ e => by cases e

end Sys2Proof.Laws.PortNamed
end

