-- ==== Sys2Proof/Tests/Slice0.lean ====
section
/-! SUPPORT. Tests of single steps against the spec, the well-formedness smoke test, and a witness of the hypotheses of each statement. -/

namespace Sys2Proof.Tests
open Sys2Proof Sys2Proof.Machine Sys2Proof.Safety
set_option maxRecDepth 20000
set_option Elab.async false

/-- A block that has started and serves the host. -/
def up : Blk := { pwr := { supplies := true, ready := true } }
/-- The manager: the physical function without a PASID. -/
def man : Who := .pf none true
/-- Zero bytes. -/
def z (n : Nat) : Bytes := List.replicate n 0
/-- A slice. -/
def sl0 : Slice :=
  { pasid := 5, fn := 0, localIdx := 0, part := 0, weight := 8, clsMax := 7, maxQueues := 8, inflight := 100, maxContexts := 16
    maxFences := 16, storeBlocks := 4 }
/-- A partition. -/
def pt0 : Partition := { mask := 1, hbmShare := 100, spShare := 100, storeBlocks := 4 }
/-- A resident context. -/
def cx0 : Context := { slice := 0, state := .resident, slot := some 0, saveArea := 0x1000000, created := 0 }
/-- A CQ. -/
def cq0 : Queue := { isSq := false, ring := 0x20000, log2 := 4, cq := 0, prio := 0, pennantAll := false, ctx := 0 }
/-- An SQ. -/
def sq0 : Queue := { isSq := true, ring := 0x21000, log2 := 4, cq := 0, prio := 0, pennantAll := false, ctx := 0 }
/-- A range of HBM. -/
def rg0 : Range := { start := 0x10000, len := 0x20000, pa := 0x80000000, creator := 0 }
/-- A range of scratchpad. -/
def rg1 : Range := { start := 0x30000, len := 0x10000, pa := 0x400000000000, creator := 0 }
/-- A range for a save area. -/
def rg2 : Range := { start := 0x1000000, len := 0x1000000, pa := 0x90000000, creator := 0 }
/-- A block with one slice, its objects and its memory. -/
def live : Blk := { up with
  slices := [(0, sl0)]
  partitions := [(0, pt0)]
  contexts := [(0, cx0)]
  queues := [(0, cq0), (1, sq0)]
  views := [(0, {})]
  ctx := { tablesEn := true }
  fen := { fences := [(0, { value := 5, owner := 0, creator := 0 })] }
  xlt := { areaEn := true, ranges := [(0, [(0, rg0), (1, rg1), (2, rg2)])] }
  own := { owner := [(0x8000, 0), (0x8001, 0)] ++ (List.range 256).map (fun i => (0x9000 + i, 0)) ++ [(0x1F000, 0)] ++ [(2 ^ 30, 0)] } }
/-- A submission entry: opcode, class 3, scope 3, tag, body. -/
def entry (op : Nat) (rest : Bytes) : Bytes := leBytes 1 op ++ [0, 3, 3] ++ leBytes 4 0x11 ++ z 8 ++ rest
/-- A started item. -/
def item (e : Bytes) : Item :=
  { slice := 0, ctx := 0, sq := 1, slot := 0, cq := 0, entry := e, deadline := none, fetchFt := 0, order := 0, started := true }
/-- The block with one item. -/
def withItem (e : Bytes) : Blk := { live with items := [(0, item e)] }
/-- The block with bytes at its first range. -/
def withMem (bs : Bytes) (b : Blk) : Blk := { b with mem := memWrite [] 0x80000000 bs }
/-- A kernel descriptor. -/
def desc : Bytes := leBytes 2 1 ++ leBytes 2 1 ++ leBytes 2 32 ++ leBytes 1 8 ++ z 1 ++ leBytes 4 256 ++ z 4 ++ leBytes 8 0x100 ++ leBytes 8 0x10000 ++ z 32
/-- A launch. -/
def ln0 : Launch :=
  { owner := .item 0, slice := 0, ctx := 0, part := 0, cls := 3, scope := 3, deadline := none, gx := 2, gy := 1, gz := 1, maxCores := 4
    lgs := 1, regs := 1024, lwa := 256, graceNs := 100, descPa := 0, args := 0, order := 0 }
/-- A work group. -/
def wg0 : WorkGroup := { launch := 0, index := 0, lgs := 1, regs := 1024, lwa := 256 }
/-- A run. -/
def run0 : Run :=
  { item := 0, slice := 0, ctx := 0, runId := 7, cls := 3, scope := 3, maxSeq := 4, period := 0, steps := 0, idleNs := 0, timeout := 0
    batch := 0x10000, progDva := 0x30000, opsCount := 1, order := 0 }
/-- A sequence. -/
def seq0 : Seq :=
  { run := 0, item := 0, seqId := 9, kvTable := 0, outRing := 0, kvTokens := 0, kvCap := 8, maxTokens := 8, stopToken := 0, user := 0
    outLog2 := 4, state := .active }
/-- A waiting sequence. -/
def ws0 : WaitingSeq := { item := 0, seqId := 9, image := [], deadline := none, order := 0 }
/-- A model slice. -/
def md0 : Model := { slice := 0, ctx := 0, modelId := 0, src := 0x10000, len := 2097152, state := .resident }
/-- A core that is being stopped. -/
def st0 : CoreStop := { save := true, ack := true, raisedFt := 0, graceFt := 0 }
/-- An outstanding request. -/
def rq0 : Request' := { dest := 1, txn := 7, why := .itemWrite 0, limitFt := 0 }
/-- A launch with one core. -/
def onCore (k : Core) : Blk := { withItem (entry 1 []) with sch := { launches := [(0, ln0)], cores := [(0, k)] } }

/-- A descriptor for XLT. -/
def xcmd (d : Bytes) : Blk := { withMem d live with xlt := { live.xlt with xcmd := 0x80000000 } }
/-- A descriptor for CTX. -/
def ccmd (d : Bytes) : Blk := { withMem d live with ctx := { live.ctx with cmd := 0x80000000 } }
/-- The image of a slice. -/
def image (pasid : Nat) : Bytes :=
  leBytes 4 pasid ++ [0, 0, 0, 0, 0, 8, 7, 0] ++ leBytes 2 8 ++ leBytes 2 100 ++ leBytes 2 16 ++ leBytes 2 16 ++ z 12
/-- Dirty logging of a slice. -/
def dy0 : Dirty := { hbmMap := 0x90000000, spMap := 0x90100000, ring := 0x90200000, ringLog2 := 8 }
/-- A batch of faults. -/
def bt0 : Batch := { slice := 0, fn := 0, pasid := 5, openFt := 0, prg := none, pages := [] }
/-- An invalidation. -/
def iv0 : Inval := { epoch := 3, startFt := 0, slice := 0, targets := [], cores := [4], why := .invalSlice }
/-- A piece of engine work. -/
def wk0 : Work :=
  { owner := .item 0, kind := .copy 0x10000 0x20000 64 1 64 64, slice := 0, ctx := 0, cls := 3, deadline := none, order := 0, total := 64 }
/-- A group. -/
def gp0 : Group := { slice := 0, size := 2, rank := 0, ring := false, members := [0, 1], resendBase := 0, resendBytes := 0 }
/-- A good packet of a type. -/
def pk (typ vc len : Nat) : Pkt :=
  { typ := typ, vc := vc, resent := false, classB := false, ttl := 8, dest := 0, src := 1, txn := 1, spec := z 16, payload := z len, rsvd := true }
/-- A block with one port. -/
def port (q : Port) : Blk := { up with lmf := { ports := [(0, q)] } }
/-- A block with a port in service. -/
def link : Blk := port { state := .active }
/-- A block in a power state. -/
def pst (n : Nat) : Blk := { up with pwr := { up.pwr with pstate := n } }
/-- A word of the response to a challenge. -/
def resp (i : Nat) : W32 := BitVec.ofNat 32 (responseOf (z 16) ⟨7, 1, 100⟩ / 2 ^ (32 * i))
theorem pair_of {α β : Type} (x : α × Option β) (y : β) (h : x.2 = some y) : x = (x.1, some y) := by rw [← h]
theorem some_of {α : Type} (o : Option α) (h : o.isSome = true) : o = some (o.get h) := by simp
theorem both_of {α β : Type} (o : Option (α × β)) (h : o.isSome = true) : o = some ((o.get h).1, (o.get h).2) := by simp
/-- The block after a write that is done. -/
def doneOf : WRes → Blk
  | .done b => b
  | _ => up
/-- A write is done. -/
def isDone : WRes → Bool
  | .done _ => true
  | _ => false
theorem done_of (r : WRes) (h : isDone r = true) : r = .done (doneOf r) := by cases r <;> simp_all [isDone, doneOf]
/-- A piece goes where it is said to. -/
def isSeg (r : Except Stop Seg) (x : Seg) : Bool :=
  match r with
  | .ok y => decide (y = x)
  | .error _ => false
theorem seg_of (r : Except Stop Seg) (x : Seg) (h : isSeg r x = true) : r = .ok x := by cases r <;> simp_all [isSeg]

/-! ## Well-formedness: one good term of each constructor, and an ill-formed one for each check -/

def who : Who := .pf none true
def pkt : Pkt := pk 1 0 4
def badPkt : Pkt := { pkt with typ := 256 }
def cw : Codeword := ⟨0, 0, 0, List.replicate 640 0, none⟩
def badCw : Codeword := { cw with badSymbols := 545 }
def req : Request := { slice := 0, cls := 0, deadline := 0, addr := 0, bytes := 64, kind := .read, ctrl := none, saving := false }
def badReq : Request := { req with slice := 4096 }

theorem test_wf_accepts_0 :
    (([.sqDoorbellWrite who 0 0 4 0, .cqDoorbellWrite who 0 0 4 0, .deviceDoorbell who 0 4 0, .queueCreate who 0 0,
     .queueDestroy who 0 0, .queueDrainEnd 0 0, .arbitrationTurn, .entryReceived 0 0 .poisoned, .itemStart 0,
     .completionWriteRetry 0, .itemDeadlineExpiry 0, .launch 0, .copy 0, .reduce 0, .collective 0, .kvMove 0, .fenceSignal 0,
     .fenceWait 0, .flushRange 0, .modelLoad 0, .modelPin 0, .stepRun 0, .seqJoin 0, .seqLeave 0, .alloc 0, .free 0,
     .workGroupPlace 0, .workGroupEnd 0 0, .cheapPointAck 0, .coreIdle 0 [], .graceExpiry 0 true, .saveStopFailure 0 .lost,
     .restoreDispatch 0, .restoreFailure 0 true, .cacheMaintenanceAck 0 [], .preempt who 0, .resume who 0, .schLwaWrite who 0,
     .signalPortWrite who 0 0 [], .pollRecheck] : List Instr).all fun c => c.wf) = true := by decide +kernel

theorem test_wf_accepts_1 :
    (([.waitDeadlineExpiry 0, .fsigReceive 0 pkt, .fackReceive 0 pkt, .remoteSignalTimeout 0, .fsigSend 0, .fenceQueryRead who 0 4,
     .fenceStaleClear who 0 0, .managerFenceQueryRead who 4, .remoteWriteAck 0 pkt, .remoteWriteLost 0 1, .remoteReadTimeout 0 1,
     .hostFlushReadIssue 0, .hostReadCompletion 0 .poisoned, .hostReadTimeout 0, .ownershipPushAck 0,
     .atsCompletion 0 0 0 true true, .rangeCacheMissDone 0, .atsInvalidationRequest 0 0 0 0 0, .holdRelease (.core 0),
     .shootdownAck 0, .invalidationAbort 0, .abortDrainExpiry 0 0, .faultBatchClose 0, .prgResponse 0 0 0, .fqHeadWrite who 0 0,
     .fqEnWrite who 0 0, .hotNotice 0 0, .accClear who 0 0, .dirtyRecord 0 0 true, .mapPeer who 0 .poisoned,
     .unmapPeer who 0 .poisoned, .dirtyStart who 0 .poisoned, .dirtyStop who 0 .poisoned, .dirtyRearm who 0 .poisoned,
     .invalSlice who 0 .poisoned, .xltAreaWrite who 0 0, .createPartition who 0 .poisoned, .destroyPartition who 0 .poisoned,
     .createSlice who 0 .poisoned, .modifySlice who 0 .poisoned] : List Instr).all fun c => c.wf) = true := by decide +kernel

theorem test_wf_accepts_2 :
    (([.destroySlice who 0 .poisoned, .grant who 0 .poisoned, .reclaim who 0 .poisoned, .createContext who 0 .poisoned,
     .destroyContext who 0 .poisoned, .pinContext who 0 .poisoned, .unpinContext who 0 .poisoned, .viewContextCreate who 0 0,
     .viewContextDestroy who 0 0, .ctxTablesWrite who 0 0, .tdHeadWrite who 0, .spillDone 0, .restoreDone 0, .admissionServe,
     .marionetteAssign, .readyReceive 0 pkt, .planReceive 0 pkt, .planTimeout 0, .leaveReceive 0 pkt, .admittedJoinTimeout 0 0,
     .stepStart 0, .operationStart 0, .operationComplete 0 0, .stepCommit 0, .stepRollback 0 0 .core, .marionetteFailure 0,
     .runEnd 0, .modelBlockLoaded 0, .modelStoreError (.bank 0), .modelPieceReloaded 0 0, .storeConfigWrite who 0 0,
     .treItemAssign 0, .treChunkDone 0, .treFailure 0, .gcreate who 0 .poisoned, .gdestroy who 0 .poisoned,
     .collChunkReceive 0 pkt, .collRreqReceive 0 pkt, .stageChunkExpiry, .collPeerTimeout 0] : List Instr).all fun c => c.wf) = true := by decide +kernel

theorem test_wf_accepts_3 :
    (([.laneRemove 0 0, .laneReceive 0 pkt, .markersMissed 0, .codewordReceive 0 cw, .lackReceive 0 pkt, .retryReceive 0 pkt,
     .lackSendTimer 0, .creditReceive 0 pkt, .remoteWrReceive 0 pkt, .remoteRdReceive 0 pkt, .remoteAtReceive 0 pkt,
     .sessionReceive 0 pkt, .responseReceive 0 pkt, .txnGapTimeout 0, .transactionTimeout 0 1, .portDown 0 0, .portRetryTimer 0,
     .calDone 0 true, .trainDone 0 0, .alignDone 0 true 0 0, .keychkReceive 0 [] [], .measureDone 0 [], .portEnWrite who 0,
     .portOffDrainEnd 0, .retrain who 0 0, .routingCommit who 0 0, .kiteSend 0 0, .kiteReceive 0 pkt, .holdoverTimeout,
     .keySwitch 0, .rekeyThreshold 0, .regulatorWindow 0, .regulatorIssue 0 [], .feedbackLevelChange 0 0,
     .regulatorCtrlCommit who 0 0, .wiredLineChange 0 true, .pendingWrite who 0 0 [], .evcDoorbell who 0, .evcModeWrite who 0,
     .pendSet who 0 0] : List Instr).all fun c => c.wf) = true := by decide +kernel

theorem test_wf_accepts_4 :
    (([.pendClr who 0 0, .sourceConfigWrite who 0, .pnEnWrite who 0 0, .pnHeadWrite who 0 0, .pennantRecordIssue, .mbxSend .mp 0,
     .mbxWithdraw .mp 0, .mbxRelease .mp 0, .mbxTake .mp 0, .mbxAck .mp 0 0, .lockRead who 0, .lockFreeWrite who 0 0,
     .lockBreak who true 0, .monitorFire (.engine 0), .coreFaultLine 0 true, .contextReset .mp, .engineReset .mp,
     .partitionReset .mp, .blockReset .mp, .dump .mp, .dumpReadTimeout 0 0, .selfTestDone .block true, .identity [],
     .sliceKey [], .linkKey [], .erase [], .dbgGrant [], .dbgDeny [], .dbgReq who 0, .dbgDrop who 0, .challengeExpiry none,
     .alarmTrip 0 0, .niSelfWrite who 0 0, .niMgrReq who 0 0, .niRespSubmit who 0 0, .niMgrDrop who 0 0, .b1Entry, .b1Exit .fire,
     .enterB2 who 0, .b2GraceEnd] : List Instr).all fun c => c.wf) = true := by decide +kernel

theorem test_wf_accepts_5 :
    (([.enterB3 who 0, .wake .mp true, .coreSupplyLoss, .suppliesValid, .startGo who 0, .readyReport, .rsSealWrite who 0,
     .genChipWrite who 0, .trgNow who 0, .arm who 0, .mark who 0, .tbHeadWrite who 0, .tbModeWrite who 0, .stHeadWrite who 0 0,
     .stEnWrite who 0 0, .latchedPairRead who 0 4, .counterSatClear who 0 0, .pageLockWrite who 0 0, .pageFreezeWrite who 0 0,
     .pageErrorClear who 0 0, .registerWrite who 0 4 0 0, .coreMemoryRequest 0 (.window 0 0), .dispatchPortFailure 0,
     .recordRestored 0, .dumpComplete, .debugLockoutExpiry, .dirtyRingHeadAdvance 0 0, .powerCycle] : List Instr).all fun c => c.wf) = true := by decide +kernel

theorem test_wf_refuses_0 :
    (([.sqDoorbellWrite (.vf 512 none) 0 0 4 0, .sqDoorbellWrite who 4096 0 4 0, .sqDoorbellWrite who 0 2 4 0,
     .sqDoorbellWrite who 0 0 65 0, .cqDoorbellWrite (.vf 512 none) 0 0 4 0, .cqDoorbellWrite who 4096 0 4 0,
     .cqDoorbellWrite who 0 2 4 0, .cqDoorbellWrite who 0 0 65 0, .deviceDoorbell (.vf 512 none) 0 4 0,
     .deviceDoorbell who 4096 4 0, .deviceDoorbell who 0 65 0, .queueCreate (.vf 512 none) 0 0, .queueCreate who 4096 0,
     .queueDestroy (.vf 512 none) 0 0, .queueDestroy who 4096 0, .queueDrainEnd 4096 0, .queueDrainEnd 0 512,
     .entryReceived 4096 0 .poisoned, .entryReceived 0 512 .poisoned, .workGroupPlace 64, .workGroupEnd 192 0,
     .cheapPointAck 192, .coreIdle 192 [], .graceExpiry 192 true, .saveStopFailure 192 .lost, .restoreDispatch 65536,
     .restoreFailure 192 true, .cacheMaintenanceAck 192 [], .cacheMaintenanceAck 0 [(1, [])], .preempt (.vf 512 none) 0,
     .resume (.vf 512 none) 0, .schLwaWrite (.vf 512 none) 0, .signalPortWrite (.vf 512 none) 0 0 [],
     .signalPortWrite who 4096 0 [], .signalPortWrite who 0 2 [], .fsigReceive 32 pkt, .fsigReceive 0 badPkt,
     .fackReceive 32 pkt, .fackReceive 0 badPkt, .fenceQueryRead (.vf 512 none) 0 4] : List Instr).all fun c => !c.wf) = true := by decide +kernel

theorem test_wf_refuses_1 :
    (([.fenceQueryRead who 4096 4, .fenceQueryRead who 0 65, .fenceStaleClear (.vf 512 none) 0 0, .fenceStaleClear who 4096 0,
     .managerFenceQueryRead (.vf 512 none) 4, .managerFenceQueryRead who 65, .remoteWriteAck 32 pkt, .remoteWriteAck 0 badPkt,
     .remoteWriteLost 1024 1, .remoteWriteLost 0 0, .remoteReadTimeout 1024 1, .remoteReadTimeout 0 0, .hostFlushReadIssue 512,
     .hostReadCompletion 4096 .poisoned, .hostReadTimeout 4096, .atsCompletion 4096 0 0 true true,
     .atsInvalidationRequest 512 0 0 0 0, .atsInvalidationRequest 0 1048576 0 0 0, .atsInvalidationRequest 0 0 0 0 32,
     .shootdownAck 192, .faultBatchClose 4096, .prgResponse 512 0 0, .prgResponse 0 512 0, .fqHeadWrite (.vf 512 none) 0 0,
     .fqHeadWrite who 4096 0, .fqEnWrite (.vf 512 none) 0 0, .fqEnWrite who 4096 0, .hotNotice 4096 0,
     .accClear (.vf 512 none) 0 0, .accClear who 4096 0, .dirtyRecord 4096 0 true, .mapPeer (.vf 512 none) 0 .poisoned,
     .unmapPeer (.vf 512 none) 0 .poisoned, .dirtyStart (.vf 512 none) 0 .poisoned, .dirtyStop (.vf 512 none) 0 .poisoned,
     .dirtyRearm (.vf 512 none) 0 .poisoned, .invalSlice (.vf 512 none) 0 .poisoned, .xltAreaWrite (.vf 512 none) 0 0,
     .xltAreaWrite who 2 0, .createPartition (.vf 512 none) 0 .poisoned] : List Instr).all fun c => !c.wf) = true := by decide +kernel

theorem test_wf_refuses_2 :
    (([.destroyPartition (.vf 512 none) 0 .poisoned, .createSlice (.vf 512 none) 0 .poisoned,
     .modifySlice (.vf 512 none) 0 .poisoned, .destroySlice (.vf 512 none) 0 .poisoned, .grant (.vf 512 none) 0 .poisoned,
     .reclaim (.vf 512 none) 0 .poisoned, .createContext (.vf 512 none) 0 .poisoned, .destroyContext (.vf 512 none) 0 .poisoned,
     .pinContext (.vf 512 none) 0 .poisoned, .unpinContext (.vf 512 none) 0 .poisoned, .viewContextCreate (.vf 512 none) 0 0,
     .viewContextCreate who 4096 0, .viewContextDestroy (.vf 512 none) 0 0, .viewContextDestroy who 4096 0,
     .ctxTablesWrite (.vf 512 none) 0 0, .ctxTablesWrite who 2 0, .tdHeadWrite (.vf 512 none) 0, .spillDone 65536,
     .restoreDone 65536, .readyReceive 32 pkt, .readyReceive 0 badPkt, .planReceive 32 pkt, .planReceive 0 badPkt,
     .leaveReceive 32 pkt, .leaveReceive 0 badPkt, .marionetteFailure 16, .storeConfigWrite (.vf 512 none) 0 0,
     .storeConfigWrite who 2 0, .treChunkDone 32, .treFailure 32, .gcreate (.vf 512 none) 0 .poisoned,
     .gdestroy (.vf 512 none) 0 .poisoned, .collChunkReceive 32 pkt, .collChunkReceive 0 badPkt, .collRreqReceive 32 pkt,
     .collRreqReceive 0 badPkt, .laneRemove 32 0, .laneRemove 0 8, .laneReceive 32 pkt, .laneReceive 0 badPkt] : List Instr).all fun c => !c.wf) = true := by decide +kernel

theorem test_wf_refuses_3 :
    (([.markersMissed 32, .codewordReceive 32 cw, .codewordReceive 0 badCw, .lackReceive 32 pkt, .lackReceive 0 badPkt,
     .retryReceive 32 pkt, .retryReceive 0 badPkt, .lackSendTimer 32, .creditReceive 32 pkt, .creditReceive 0 badPkt,
     .remoteWrReceive 32 pkt, .remoteWrReceive 0 badPkt, .remoteRdReceive 32 pkt, .remoteRdReceive 0 badPkt,
     .remoteAtReceive 32 pkt, .remoteAtReceive 0 badPkt, .sessionReceive 32 pkt, .sessionReceive 0 badPkt,
     .responseReceive 32 pkt, .responseReceive 0 badPkt, .txnGapTimeout 1024, .transactionTimeout 1024 1,
     .transactionTimeout 0 0, .portDown 32 0, .portRetryTimer 32, .calDone 32 true, .trainDone 32 0, .alignDone 32 true 0 0,
     .alignDone 0 true 1024 0, .alignDone 0 true 0 32, .keychkReceive 32 [] [], .measureDone 32 [],
     .portEnWrite (.vf 512 none) 0, .portOffDrainEnd 32, .retrain (.vf 512 none) 0 0, .retrain who 32 0,
     .routingCommit (.vf 512 none) 0 0, .routingCommit who 1024 0, .kiteSend 32 0, .kiteSend 0 65536] : List Instr).all fun c => !c.wf) = true := by decide +kernel

theorem test_wf_refuses_4 :
    (([.kiteReceive 32 pkt, .kiteReceive 0 badPkt, .keySwitch 32, .rekeyThreshold 32, .regulatorWindow 120, .regulatorIssue 120 [],
     .regulatorIssue 0 [badReq], .feedbackLevelChange 16 0, .feedbackLevelChange 0 4, .regulatorCtrlCommit (.vf 512 none) 0 0,
     .regulatorCtrlCommit who 120 0, .wiredLineChange 64 true, .pendingWrite (.vf 512 none) 0 0 [], .pendingWrite who 4096 0 [],
     .pendingWrite who 0 2 [], .evcDoorbell (.vf 512 none) 0, .evcModeWrite (.vf 512 none) 0, .pendSet (.vf 512 none) 0 0,
     .pendSet who 256 0, .pendClr (.vf 512 none) 0 0, .pendClr who 256 0, .sourceConfigWrite (.vf 512 none) 0,
     .pnEnWrite (.vf 512 none) 0 0, .pnEnWrite who 4096 0, .pnHeadWrite (.vf 512 none) 0 0, .pnHeadWrite who 4096 0,
     .mbxSend (.host (.vf 0 none)) 0, .mbxSend .mp 32, .mbxWithdraw (.host (.vf 0 none)) 0, .mbxWithdraw .mp 32,
     .mbxRelease (.host (.vf 0 none)) 0, .mbxRelease .mp 32, .mbxTake (.host (.vf 0 none)) 0, .mbxTake .mp 32,
     .mbxAck (.host (.vf 0 none)) 0 0, .mbxAck .mp 32 0, .lockRead (.vf 512 none) 0, .lockRead who 64,
     .lockFreeWrite (.vf 512 none) 0 0, .lockFreeWrite who 64 0] : List Instr).all fun c => !c.wf) = true := by decide +kernel

theorem test_wf_refuses_5 :
    (([.lockBreak (.vf 512 none) true 0, .coreFaultLine 192 true, .contextReset (.cmd (.vf 0 none) 0),
     .engineReset (.cmd (.vf 0 none) 0), .partitionReset (.cmd (.vf 0 none) 0), .blockReset (.cmd (.vf 0 none) 0),
     .dump (.cmd (.vf 0 none) 0), .dumpReadTimeout 18 0, .dbgReq (.vf 512 none) 0, .dbgDrop (.vf 512 none) 0,
     .challengeExpiry (some 4096), .alarmTrip 32 0, .alarmTrip 0 4096, .niSelfWrite (.vf 512 none) 0 0, .niSelfWrite who 4096 0,
     .niMgrReq (.vf 512 none) 0 0, .niMgrReq who 4096 0, .niRespSubmit (.vf 512 none) 0 0, .niRespSubmit who 4096 0,
     .niMgrDrop (.vf 512 none) 0 0, .niMgrDrop who 4096 0, .enterB2 (.vf 512 none) 0, .enterB3 (.vf 512 none) 0,
     .wake (.wired 64) true, .startGo (.vf 512 none) 0, .rsSealWrite (.vf 512 none) 0, .genChipWrite (.vf 512 none) 0,
     .trgNow (.vf 512 none) 0, .arm (.vf 512 none) 0, .mark (.vf 512 none) 0, .tbHeadWrite (.vf 512 none) 0,
     .tbModeWrite (.vf 512 none) 0, .stHeadWrite (.vf 512 none) 0 0, .stHeadWrite who 4096 0, .stEnWrite (.vf 512 none) 0 0,
     .stEnWrite who 4096 0, .latchedPairRead (.vf 512 none) 0 4, .latchedPairRead who 2 4, .latchedPairRead who 0 65,
     .counterSatClear (.vf 512 none) 0 0] : List Instr).all fun c => !c.wf) = true := by decide +kernel

theorem test_wf_refuses_6 :
    (([.counterSatClear who 2 0, .pageLockWrite (.vf 512 none) 0 0, .pageLockWrite who 2 0, .pageFreezeWrite (.vf 512 none) 0 0,
     .pageFreezeWrite who 2 0, .pageErrorClear (.vf 512 none) 0 0, .pageErrorClear who 2 0,
     .registerWrite (.vf 512 none) 0 4 0 0, .registerWrite who 2 4 0 0, .registerWrite who 0 65 0 0,
     .coreMemoryRequest 192 (.window 0 0), .coreMemoryRequest 0 (.load 0 0 4097), .dispatchPortFailure 4, .recordRestored 192,
     .dirtyRingHeadAdvance 4096 0, .lockRead (.pf (some 1048576) true) 0, .lockRead (.vf 0 none) 0,
     .lockRead (.vf 1 (some 1048576)) 0, .lockRead (.core 4096 0) 0, .lockRead (.core 0 65536) 0, .lockRead (.remote 4096) 0,
     .fsigReceive 0 { pkt with typ := 256 }, .fsigReceive 0 { pkt with vc := 4 }, .fsigReceive 0 { pkt with ttl := 16 },
     .fsigReceive 0 { pkt with dest := 1024 }, .fsigReceive 0 { pkt with src := 1024 },
     .fsigReceive 0 { pkt with txn := 2 ^ 64 }, .fsigReceive 0 { pkt with spec := [] },
     .fsigReceive 0 { pkt with payload := List.replicate 4097 0 }, .codewordReceive 0 { cw with badSymbols := 545 },
     .codewordReceive 0 { cw with seq := 4096 }, .codewordReceive 0 { cw with firstPkt := 64 },
     .codewordReceive 0 { cw with data := [] }, .coreMemoryRequest 0 (.load 0 0 0), .coreMemoryRequest 0 (.store 0 0 []),
     .coreMemoryRequest 0 (.store 0 0 (List.replicate 4097 0)), .coreMemoryRequest 0 (.atomic 0 0 2 .add 0 0),
     .coreMemoryRequest 0 (.atomic 0 0 8 .addF32 0 0), .coreMemoryRequest 0 (.atomic 0 4 8 .add 0 0),
     .cacheMaintenanceAck 0 [(0, [])]] : List Instr).all fun c => !c.wf) = true := by decide +kernel

theorem test_wf_refuses_7 :
    (([.wake (.pcmd (.vf 0 none) 0) true, .sqDoorbellWrite who 0 0 0 0, .regulatorIssue 0 [{ req with slice := 4096 }],
     .regulatorIssue 0 [{ req with cls := 8 }], .regulatorIssue 0 [{ req with deadline := 2 ^ 24 }],
     .regulatorIssue 0 [{ req with ctrl := some 16 }]] : List Instr).all fun c => !c.wf) = true := by decide +kernel


/-! ## Single steps -/

/-- The block after one command, where exec answers a next state. -/
def after (c : Instr) (b : Blk) : Option Blk :=
  match exec c ⟨[], b⟩ with
  | .next t => some t.blk
  | _ => none

/-- A fact about the block after one command. -/
def holds (c : Instr) (b : Blk) (f : Blk → Bool) : Bool := (after c b).any f

/-! ## Published check values of the algorithms that R348 and R361 name -/

theorem test_crc32_check_value : crc32 [0x31, 0x32, 0x33, 0x34, 0x35, 0x36, 0x37, 0x38, 0x39] = 0xCBF43926 := by decide +kernel
-- FIPS 197, appendix C.3.
theorem test_aes256_block :
    beNat (aesBlock ((List.range 32).map (BitVec.ofNat 8)) ((List.range 16).map fun i => BitVec.ofNat 8 (i * 17))) =
      0x8EA2B7CA516745BFEAFC49904B496089 := by decide +kernel

/-! ## Numbers (R310 to R317), calculated by hand -/

theorem test_sum_rounds_to_even : reduceOp 0 0x3F800000 0x4B800000 = 0x4B800000 ∧ reduceOp 0 0x3F800000 0x40000000 = 0x40400000 := by decide +kernel
theorem test_sum_overflows_to_infinity : reduceOp 0 0x7F7FFFFF 0x7F7FFFFF = 0x7F800000 := by decide +kernel
theorem test_subnormals_kept : reduceOp 0 0x00000001 0x00000001 = 0x00000002 := by decide +kernel
theorem test_bf16_rounds_to_even : toBf16 0x3F808000 = 0x3F80 ∧ toBf16 0x3F818000 = 0x3F82 := by decide +kernel

/-! ## Queues and items -/

theorem test_sq_doorbell_sets_tail : holds (.sqDoorbellWrite man 0 8 4 3) live (fun b => (b.queues.get? 1).any fun q => q.tail == 3) = true := by
  decide +kernel
theorem test_sq_doorbell_index_out_of_range :
    holds (.sqDoorbellWrite man 0 8 4 16) live (fun b => (b.queues.get? 1).any (fun q => q.tail == 0) && (b.hdr pgQFE).err.val == 1 &&
      b.qfe.dbDrops.val == 1) = true := by decide +kernel
theorem test_cq_doorbell_beyond_tail_counts :
    holds (.cqDoorbellWrite man 0 0 4 5) live (fun b => (b.queues.get? 0).any (fun q => q.head == 0) && (b.hdr pgQFE).err.val == 1) = true := by
  decide +kernel
-- R72, Table 02.4: the completion entry in the CQ, byte by byte.
theorem test_deadline_zero_of_class_7_is_malformed :
    holds (.entryReceived 0 1 .poisoned) { live with
        mem := memWrite [] 0x80011000 [2, 0, 7, 3]
        queues := [(0, cq0), (1, { sq0 with fetch := some ⟨0, 1, .issued⟩, tail := 1 })] }
      (fun b => loadLocal b 0x80010000 16 == [0, 0, 0, 0, 1, 0, 0, 0, 0x17, 5, 1, 0, 8, 0, 0, 0]) = true := by decide +kernel

/-! ## Fences -/

theorem test_signal_takes_the_larger_value : (applySignal 0 0 9 false live).1.fen.fences.get? 0 =
    some { value := 9, owner := 0, creator := 0 } := by decide +kernel
theorem test_stale_signal_counts : (applySignal 0 0 5 false live).1.fen.fences.get? 0 =
    some { value := 5, owner := 0, creator := 0, stale := 1 } := by decide +kernel

/-! ## Translation and memory -/

theorem test_dva_of_a_range : xlate live 0 0x10040 true = .dev 0x80000040 (.range 0 0) := by decide +kernel
theorem test_dva_past_a_range : xlate live 0 0x40000 false = .fault 0x03 := by decide +kernel
theorem test_atomic_add_wraps : (atomHere .add 8 4 2 0 { up with mem := memWrite [] 8 (leBytes 4 0xFFFFFFFF) }).1 = 0xFFFFFFFF ∧
    memGet (atomHere .add 8 4 2 0 { up with mem := memWrite [] 8 (leBytes 4 0xFFFFFFFF) }).2.mem 8 = 1 := by decide +kernel
theorem test_compare_exchange_misses : (atomHere .compareExchange 8 8 2 7 up).2.mem = [] := by decide +kernel

/-! ## Objects -/

theorem test_create_slice : holds (.createSlice man 2 .poisoned) (ccmd (leBytes 2 1 ++ z 30 ++ image 6))
    (fun b => (b.slices.get? 1).any (fun s => s.pasid == 6 && s.weight == 8) && b.ctx.result == 0 && b.ctx.resultId == 1) = true := by
  decide +kernel
theorem test_create_slice_of_a_used_pasid : holds (.createSlice man 2 .poisoned) (ccmd (leBytes 2 1 ++ z 30 ++ image 5))
    (fun b => b.slices.has 1 == false && b.ctx.result != 0) = true := by decide +kernel
theorem test_destroy_partition_in_use : holds (.destroyPartition man 1 .poisoned) (ccmd (z 64))
    (fun b => b.partitions.has 0 && b.ctx.result != 0) = true := by decide +kernel

/-! ## Lemdy -/

theorem test_duplicate_request_is_dropped : holds (.remoteWrReceive 0 { pk 1 0 4 with txn := 0 }) link (fun b => b.lmf.dupReq.val == 1) = true := by
  decide +kernel
theorem test_ttl_one_is_discarded : holds (.remoteWrReceive 0 { pk 1 0 4 with dest := 2, ttl := 1 }) link (fun b => b.lmf.ttlDrops.val == 1) = true := by
  decide +kernel
theorem test_uncorrectable_codeword_asks_again :
    holds (.codewordReceive 0 ⟨16, 0, 0, z 640, none⟩) link (fun b => b.out.any fun o => match o with
      | .packet 0 p => p.typ == 0x33
      | _ => false) = true := by decide +kernel
theorem test_fewer_than_four_lanes_takes_the_port_down :
    holds (.trainDone 0 0x07) (port { state := .train }) (fun b => (b.port 0).state == .down) = true := by decide +kernel

/-! ## Regulators -/

theorem test_window_lengths : windowNs 0 = 1024 ∧ windowNs 10 = 1048576 := by decide
theorem test_commit_waits_for_the_common_boundary : commitAt 1024 0 2 = 4096 ∧ commitAt 4096 2 0 = 8192 := by decide

/-! ## Events, mailboxes, locks -/

theorem test_unassigned_source_counts : holds (.evcDoorbell man 300) up (fun b => !(b.source 300).pending && (b.hdr pgEVC).err.val == 1) = true := by
  decide +kernel
theorem test_doorbell_beyond_the_sources : holds (.evcDoorbell man 8176) up (fun b => (b.hdr pgEVC).errCode == 0x05) = true := by decide +kernel
theorem test_lock_is_acquired_once : holds (.lockRead man 0) up (fun b => b.readOut == 0 && b.mbx.locks.get? 0 == some 0x1000) = true ∧
    holds (.lockRead (.mp false) 0) { up with mbx := { locks := [(0, 0x1000)] } } (fun b => b.readOut == 0x1000) = true := by decide +kernel
theorem test_nonsecure_read_of_a_secure_lock : holds (.lockRead man 32) up (fun b => b.readOut == 0xFFFFFFFF && b.mbx.locks == []) = true := by
  decide +kernel
theorem test_send_on_a_taken_slot_counts :
    holds (.mbxSend .mp 0) { up with mbx := { m2h := [(0, { state := .taken })] } } (fun b => (b.hdr (chanPage 0)).err.val == 1) = true := by
  decide +kernel

/-! ## Recovery, security, power, trace, registers -/

theorem test_block_reset_starts_with_its_dump_or_freeze : holds (.blockReset .mp) up (fun b => b.rcv.blockPhase != 0) = true := by decide +kernel
theorem test_erase_before_identity_is_refused : holds (.erase ([4] ++ z 63)) up (fun b => b.out == [.deliveryResult 6]) = true := by decide +kernel
theorem test_identity_sets_the_lifecycle : holds (.identity ([1] ++ z 7 ++ leBytes 4 1 ++ z 52)) up
    (fun b => b.sec.identOk && b.sec.lifecycle == 1) = true := by decide +kernel
theorem test_grace_is_ten_microseconds : holds (.enterB2 man 1) { up with ft := 7 } (fun b => b.pwr.graceFt == some 10007) = true := by decide +kernel
theorem test_entry_to_b2_with_work_is_refused : holds (.enterB2 man 1) (withItem (entry 2 []))
    (fun b => b.pwr.presult == 0x17 && b.pwr.refuse.getLsbD 0) = true := by decide +kernel
theorem test_lock_keeps_the_chip_number : holds (.genChipWrite man 9) { up with pages := [(pgGEN, { locked := true })] }
    (fun b => b.chip == 0 && (b.hdr pgGEN).errCode == 0x03) = true := by decide +kernel
theorem test_trigger_without_a_mode_does_nothing : after (.trgNow man 2) up = some up := by decide +kernel
theorem test_odd_access_sizes_are_counted : holds (.registerWrite man 0x48 2 0 0) up (fun b => (b.hdr pgGEN).errCode == 0x01) = true := by
  decide +kernel
theorem test_a_dark_block_takes_no_command : after (.genChipWrite man 9) Blk.reset = some Blk.reset := by decide +kernel
theorem test_tick_is_one_nanosecond : step ⟨[], up⟩ = .next ⟨[], { up with ft := 1 }⟩ := rfl
theorem test_step_takes_the_front : step ⟨[.mark man 0, .b1Entry], Blk.reset⟩ = exec (.mark man 0) ⟨[.b1Entry], Blk.reset⟩ := rfl
theorem test_no_word_spells_a_command : decodeTableWord 0 0 = none ∧ State.reset.withFetchWord 32 0xFFFFFFFF = State.reset := ⟨rfl, rfl⟩


/-! ## Witnesses of the hypotheses of the statements -/

theorem witness_EveryCommandAnswers : ∃ s t : State, queueOk s ∧ step s = .next t ∧ s.pending ≠ [] :=
  ⟨⟨[.pollRecheck, .admissionServe], up⟩, _, by unfold queueOk; decide, rfl, by decide⟩

theorem witness_TickNeverGoesBack : (∃ b : Blk, b.pwr.supplies = true ∧ b.lmf.slew = 0) ∧ (∃ b : Blk, b.pwr.supplies = false ∧ b.pwr.pstate ≠ 3) :=
  ⟨⟨up, rfl, rfl⟩, ⟨Blk.reset, rfl, by decide⟩⟩

theorem witness_BurgeeFieldsReadBack : ∃ slice ctx cls dl scope : Nat, slice = 4095 ∧ ctx = 65535 ∧ cls = 7 ∧ dl = 2 ^ 24 - 1 ∧ scope = 5 ∧
    slice < 4096 ∧ ctx < 65536 ∧ cls < 8 ∧ dl < 2 ^ 24 ∧ scope < 6 :=
  ⟨4095, 65535, 7, 2 ^ 24 - 1, 5, by decide⟩

theorem witness_DeadlineIsTimeRemaining : (∃ ft t : Nat, ft ≤ t ∧ (t - ft) / 16 = 0xFFFFFE ∧ t - ft ≤ 268435424) ∧
    (∃ ft t : Nat, ft ≤ t ∧ 0xFFFFFE + 1 = (t - ft) / 16) :=
  ⟨⟨7, 268435431, by decide⟩, ⟨0, 268435440, by decide⟩⟩

theorem witness_CountersSaturate : (∃ c : Ctr, c.val = BitVec.allOnes 31 ∧ c.sat = true) ∧
    (∃ c : Ctr, ∃ n : Nat, c.val ≠ BitVec.allOnes 31 ∧ 0 < n ∧ 2 ^ 31 - 1 = c.val.toNat + n) :=
  ⟨⟨⟨BitVec.allOnes 31, true⟩, by decide⟩, ⟨⟨2147483646#31, false⟩, 1, by decide⟩⟩

theorem witness_AddressSelectsItsMechanism :
    (∃ dva : Nat, dva < 2 ^ 64 ∧ bits dva 57 7 ≠ 0 ∧ dva = 2 ^ 57) ∧
    (∃ dva : Nat, dva < 2 ^ 64 ∧ bits dva 57 7 = 0 ∧ bits dva 56 1 = 1 ∧ dva = 2 ^ 57 - 1) ∧
    (∃ dva : Nat, dva < 2 ^ 64 ∧ bits dva 57 7 = 0 ∧ bits dva 56 1 = 0 ∧ dva = 2 ^ 56 - 1) ∧
    (∃ (b : Blk) (slice dva i : Nat) (r : Range) (write : Bool), bits dva 57 7 = 0 ∧ bits dva 56 1 = 0 ∧ 0x10000 ≤ dva ∧
      ¬ (modelBase ≤ dva ∧ dva < modelBase + 1024 * modelSpan) ∧ findRange b slice dva = some (i, r) ∧ (write && r.readOnly) = false ∧
      paInside (r.pa + (dva - r.start)) 1 = true) :=
  ⟨⟨2 ^ 57, by decide +kernel⟩, ⟨2 ^ 57 - 1, by decide +kernel⟩, ⟨2 ^ 56 - 1, by decide +kernel⟩,
   ⟨live, 0, 0x10000, 0, rg0, true, by decide +kernel⟩⟩

theorem witness_RangesBoundDeviceAddresses :
    (∃ dva : Nat, dva < 0x10000 ∧ dva = 0xFFFF) ∧
    (∃ (b : Blk) (slice dva : Nat), 0x10000 ≤ dva ∧ dva < 2 ^ 56 ∧ ¬ (modelBase ≤ dva ∧ dva < modelBase + 1024 * modelSpan) ∧
      (∀ e ∈ rangesOf b slice, e.2.valid = true → ¬ (e.2.start ≤ dva ∧ dva < e.2.start + e.2.len)) ∧ dva = 0x40000 ∧
      (rangesOf b slice).length = 3) ∧
    (∃ (b : Blk) (slice dva i : Nat) (r : Range), 0x10000 ≤ dva ∧ dva < 2 ^ 56 ∧ ¬ (modelBase ≤ dva ∧ dva < modelBase + 1024 * modelSpan) ∧
      findRange b slice dva = some (i, r) ∧ r.readOnly = true ∧ paInside (r.pa + (dva - r.start)) 1 = true) ∧
    (∃ (b : Blk) (slice dva i : Nat) (r : Range), 0x10000 ≤ dva ∧ dva < 2 ^ 56 ∧ ¬ (modelBase ≤ dva ∧ dva < modelBase + 1024 * modelSpan) ∧
      findRange b slice dva = some (i, r) ∧ r.readOnly = false ∧ paInside (r.pa + (dva - r.start)) 1 = false) ∧
    (∃ dva : Nat, modelBase ≤ dva ∧ dva < modelBase + 1024 * modelSpan ∧ dva = modelBase + 1024 * modelSpan - 1) :=
  ⟨⟨0xFFFF, by decide⟩, ⟨live, 0, 0x40000, by decide +kernel⟩,
   ⟨{ up with xlt := { areaEn := true, ranges := [(0, [(0, { rg0 with readOnly := true })])] } }, 0, 0x10000, 0, { rg0 with readOnly := true },
     by decide +kernel⟩,
   ⟨{ up with xlt := { areaEn := true, ranges := [(0, [(0, { rg0 with pa := 2 ^ 40 })])] } }, 0, 0x10000, 0, { rg0 with pa := 2 ^ 40 },
     by decide +kernel⟩, ⟨modelBase + 1024 * modelSpan - 1, by decide +kernel⟩⟩

theorem witness_OwnersGuardGranules :
    (∃ (b : Blk) (k n o : Nat), 0 < n ∧ k / 65536 = (k + n - 1) / 65536 ∧ protectedGranule b (k / 65536) = false ∧
      b.own.owner.get? (k / 65536) = some o ∧ k + n = 0x80010000) ∧
    (∃ (b : Blk) (k n : Nat), 0 < n ∧ k / 65536 = (k + n - 1) / 65536 ∧ protectedGranule b (k / 65536) = false ∧
      b.own.owner.get? (k / 65536) = none) ∧
    (∃ (b : Blk) (slice k n : Nat), 0 < n ∧ k / 65536 = (k + n - 1) / 65536 ∧ protectedGranule b (k / 65536) = false ∧
      admits b .swedikin slice true k n = false) :=
  ⟨⟨{ live with ctx := {}, xlt := {} }, 0x80000000, 65536, 0, by decide +kernel⟩, ⟨Blk.reset, 0, 1, by decide +kernel⟩,
   ⟨{ live with ctx := {}, xlt := {} }, 7, 0x80000000, 64, by decide +kernel⟩⟩

theorem witness_FenceValuesOnlyRise :
    (∃ (b : Blk) (slice f : Nat) (e : Fence) (v : BitVec 64), b.fen.fences.get? f = some e ∧ e.owner = slice ∧ v ≤ e.value ∧
      e.abandoning = false ∧ v = e.value) ∧
    (∃ (b : Blk) (slice f : Nat) (e : Fence) (v : BitVec 64), b.fen.fences.get? f = some e ∧ e.owner = slice ∧ e.value < v) ∧
    (∃ (b : Blk) (slice f : Nat) (e : Fence) (it : Item), b.fen.fences.get? f = some e ∧ e.owner = slice ∧ e.abandoning = false ∧
      it.slice = slice ∧ e.value = BitVec.allOnes 64) :=
  ⟨⟨live, 0, 0, _, 5, rfl, by decide⟩, ⟨live, 0, 0, _, 6, rfl, by decide⟩,
   ⟨{ up with fen := { fences := [(0, { value := BitVec.allOnes 64, owner := 0, creator := 0 })] } }, 0, 0, _, item [], rfl, by decide⟩⟩

theorem witness_MailboxEventFrames :
    (∃ (c : Instr) (p : List Instr) (b : Blk) (t : State), exec c ⟨p, b⟩ = .next t ∧ mailboxCommand c = true) ∧
    (∃ (c : Instr) (p : List Instr) (b : Blk) (t : State), exec c ⟨p, b⟩ = .next t ∧ sourceCommand c = true) ∧
    (∃ (c : Instr) (p : List Instr) (b : Blk) (t : State), exec c ⟨p, b⟩ = .next t ∧ regulatorCommand c = true) :=
  ⟨⟨.lockRead man 0, [], up, _, rfl, rfl⟩, ⟨.pnHeadWrite man 0 0, [], live, _, rfl, rfl⟩, ⟨.regulatorWindow 0, [], up, _, rfl, rfl⟩⟩

theorem witness_SettingFrames :
    (∃ (c : Instr) (p : List Instr) (b : Blk) (t : State), exec c ⟨p, b⟩ = .next t ∧ headerCommand c = true) ∧
    (∃ (c : Instr) (p : List Instr) (b : Blk) (t : State), exec c ⟨p, b⟩ = .next t ∧ idleCommand c = true) ∧
    (∃ (c : Instr) (p : List Instr) (b : Blk) (t : State), exec c ⟨p, b⟩ = .next t ∧ traceSetting c = true) ∧
    (∃ (c : Instr) (p : List Instr) (b : Blk) (t : State), exec c ⟨p, b⟩ = .next t ∧ ∃ who off size, c = .latchedPairRead who off size) :=
  ⟨⟨.pageLockWrite man 0x80010 1, [], up, _, rfl, rfl⟩, ⟨.b1Entry, [], up, _, rfl, rfl⟩, ⟨.arm man 1, [], up, _, rfl, rfl⟩,
   ⟨.latchedPairRead man 0x48 4, [], up, _, rfl, _, _, _, rfl⟩⟩

theorem witness_RequestsAreAppliedOnceInOrder :
    (∃ (b u v : Blk) (n : Nat) (k : Pkt), dataArrives n k b u ∧ k.typ = 0x01 ∧ v = leaveB1 u ∧ k.txn ≤ (v.src k.src).last) ∧
    (∃ (b u v : Blk) (n : Nat) (k : Pkt), dataArrives n k b u ∧ k.typ = 0x01 ∧ v = leaveB1 u ∧ (v.src k.src).last + 1 < k.txn ∧
      ((v.src k.src).held.any fun h => h.1 == k.txn) = false) :=
  ⟨⟨link, _, _, 0, { pk 1 0 4 with txn := 0 }, ⟨by decide +kernel, by decide +kernel, by decide +kernel, by decide +kernel, by decide +kernel, rfl⟩,
     rfl, rfl, by decide +kernel⟩,
   ⟨link, _, _, 0, { pk 1 0 4 with txn := 2 }, ⟨by decide +kernel, by decide +kernel, by decide +kernel, by decide +kernel, by decide +kernel, rfl⟩,
     rfl, rfl, by decide +kernel, by decide +kernel⟩⟩

theorem witness_ForwardingCountsDownTtl :
    (∃ (b : Blk) (n : Nat) (k : Pkt), linkOn b ∧ portActive b n = true ∧ pktOk k = true ∧ k.vc < 3 ∧ k.typ = 0x01 ∧ k.dest ≠ b.chip ∧ k.ttl = 1) ∧
    (∃ (b : Blk) (n : Nat) (k : Pkt), linkOn b ∧ portActive b n = true ∧ pktOk k = true ∧ k.vc < 3 ∧ k.typ = 0x01 ∧ k.dest ≠ b.chip ∧ k.ttl = 2) :=
  ⟨⟨link, 0, { pk 1 0 4 with dest := 2, ttl := 1 }, by decide +kernel⟩, ⟨link, 0, { pk 1 0 4 with dest := 2, ttl := 2 }, by decide +kernel⟩⟩

theorem witness_ChipNumberHoldsWhilePortsServe :
    (∃ (b t : Blk) (who : Who), unitTakes who pgGEN b t ∧ (t.hdr pgGEN).locked = false ∧ ((List.range 32).any fun n => portActive t n) = true) ∧
    (∃ (b t : Blk) (who : Who), unitTakes who pgGEN b t ∧ (t.hdr pgGEN).locked = false ∧ ((List.range 32).any fun n => portActive t n) = false) :=
  ⟨⟨link, _, man, ⟨rfl, by decide +kernel⟩, by decide +kernel, by decide +kernel⟩,
   ⟨up, _, man, ⟨rfl, by decide +kernel⟩, by decide +kernel, by decide +kernel⟩⟩

theorem witness_FirstErrorLatches : (∃ h : PageHdr, h.err.val = 0 ∧ h.err.sat = false) ∧ (∃ h : PageHdr, h.err.val ≠ 0) ∧
    (∃ pg pg' : Nat, pg' ≠ pg) ∧ (∃ slice pg : Nat, pg ≠ pgView slice) :=
  ⟨⟨{}, by decide⟩, ⟨{ err := ⟨1, false⟩ }, by decide⟩, ⟨0, 4, by decide⟩, ⟨0, 4, by decide⟩⟩

theorem witness_LockedPagesKeepTheirFields :
    (∀ pg ∈ [pgGEN, pgPWR, pgEVC, pgBWR, pgTRC, pgXLT, pgLMF, pgRCV], ∃ (b t : Blk) (who : Who), unitTakes who pg b t ∧ (t.hdr pg).locked = true) ∧
    (∃ (b u k : Blk) (who : Who) (w : W32), unitTakes who pgRCV b u ∧ k = (if w.getLsbD 31 then clearUnit pgRCV 0x40 u else u) ∧
      (k.hdr pgRCV).locked = true) :=
  ⟨fun pg h => ⟨{ up with pages := [(pg, { locked := true })] }, { up with pages := [(pg, { locked := true })] }, .mp true, by
      revert pg; decide +kernel⟩,
   ⟨{ up with pages := [(pgRCV, { locked := true })] }, _, _, man, 0, ⟨rfl, by decide +kernel⟩, rfl, by decide +kernel⟩⟩

theorem witness_HeldUnitsDoNothing :
    (∃ (c : Instr) (b : Blk) (pg : Nat), eventPage c = some pg ∧ frozenUnit b pg = true) ∧
    (∃ (c : Instr) (b : Blk) (pg : Nat), eventPage c = some pg ∧ unitsRun b = false) ∧
    (∃ (c : Instr) (b : Blk), linkEvent c = true ∧ frozenUnit b pgLMF = true) ∧ (∃ (c : Instr) (b : Blk), linkEvent c = true ∧ 2 ≤ b.pwr.pstate) ∧
    (∃ (c : Instr) (b : Blk), linkEvent c = true ∧ b.pwr.supplies = false) :=
  ⟨⟨.pollRecheck, { up with pages := [(pgFEN, { freeze := true })] }, _, rfl, rfl⟩, ⟨.admissionServe, Blk.reset, _, rfl, rfl⟩,
   ⟨.markersMissed 0, { up with pages := [(pgLMF, { freeze := true })] }, rfl, rfl⟩, ⟨.markersMissed 0, pst 2, rfl, by decide⟩,
   ⟨.markersMissed 31, Blk.reset, rfl, rfl⟩⟩

theorem witness_MailboxSlotsFollowTheirStates :
    (∀ x ∈ [SlotState.empty, .posted, .taken, .acked], ∃ (b t : Blk) (side : MbxSide) (c : Nat), sideTakes side c b t ∧
      (t.slot (hostSends side) c).state = x ∧ (t.slot (!hostSends side) c).state = x ∧ c = 31) ∧
    (∃ (b t : Blk) (side : MbxSide) (c : Nat), sideTakes side c b t ∧ side = .host (.mp true) ∧ (t.slot true c).state ≠ .empty ∧ c = 16) :=
  ⟨fun x _ => ⟨{ up with mbx := { h2m := [(31, { state := x })], m2h := [(31, { state := x })] } }, _, .mp, 31,
      And.intro (by decide) (And.intro rfl (And.intro (show (0 : Nat) ≠ 3 by decide) rfl)), rfl, rfl, rfl⟩,
   ⟨{ up with mbx := { h2m := [(16, { state := .acked })] } }, _, .host (.mp true), 16, And.intro (by decide) ⟨rfl, by decide +kernel⟩, rfl,
     by decide +kernel, rfl⟩⟩

theorem witness_LocksHaveOneOwner :
    (∃ (b t : Blk) (who : Who) (n k : Nat), gatePower who (lockPage n) false b = (t, true) ∧ n < 64 ∧ isDebug who = false ∧
      (32 ≤ n → secureWorld t who = true) ∧ t.mbx.locks.get? n = none ∧ ownerNumber t who = some k ∧ n = 63) ∧
    (∃ (b t : Blk) (who : Who) (n k : Nat), gatePower who (lockPage n) false b = (t, true) ∧ n < 64 ∧ isDebug who = false ∧
      (32 ≤ n → secureWorld t who = true) ∧ t.mbx.locks.get? n = some k ∧ n = 31) ∧
    (∃ (b t : Blk) (who : Who) (n : Nat), gatePower who (lockPage n) false b = (t, true) ∧ 32 ≤ n ∧ n < 64 ∧ secureWorld t who = false ∧
      isDebug who = false) ∧
    (∃ (b t : Blk) (who : Who) (n k : Nat) (w : W32), unitTakes who (lockPage n) b t ∧ t.mbx.locks.get? n = some k ∧ ownerNumber t who = some k ∧ w = 0) ∧
    (∃ (b t : Blk) (who : Who) (n k : Nat) (w : W32), unitTakes who (lockPage n) b t ∧ t.mbx.locks.get? n = some k ∧ ownerNumber t who = some k ∧ w ≠ 0) ∧
    (∃ (b t : Blk) (who : Who) (n : Nat), unitTakes who (lockPage n) b t ∧ t.mbx.locks.get? n = none) ∧
    (∃ (b t : Blk) (who : Who) (n k : Nat), unitTakes who (lockPage n) b t ∧ t.mbx.locks.get? n = some k ∧ ownerNumber t who ≠ some k) ∧
    (∃ (b t : Blk) (who : Who) (w : W32), unitTakes who (pgMBX + 3) b t ∧ 32 ≤ bits w.toNat 0 6) ∧
    (∃ (b : Blk) (q : Option Nat) (v : Bool), secureWorld b (.pf q v) = false) ∧
    (∃ (b : Blk) (q : Option Nat) (v : Bool), secureWorld b (.pf q v) = true) :=
  ⟨⟨up, _, .mp true, 63, _, rfl, by decide, rfl, fun _ => rfl, rfl, rfl, rfl⟩,
   ⟨{ up with mbx := { locks := [(31, 7)] } }, _, man, 31, _, rfl, by decide, rfl, fun h => by omega, rfl, rfl⟩,
   ⟨up, _, man, 32, rfl, by decide, by decide, rfl, rfl⟩,
   ⟨{ up with mbx := { locks := [(0, 0x1000)] } }, _, man, 0, _, 0, ⟨rfl, by decide +kernel⟩, rfl, rfl, rfl⟩,
   ⟨{ up with mbx := { locks := [(0, 0x1000)] } }, _, man, 0, _, 1, ⟨rfl, by decide +kernel⟩, rfl, rfl, by decide⟩,
   ⟨up, _, man, 0, ⟨rfl, by decide +kernel⟩, rfl⟩,
   ⟨{ up with mbx := { locks := [(0, 0x2000)] } }, _, man, 0, _, ⟨rfl, by decide +kernel⟩, rfl, by decide⟩,
   ⟨up, _, .mp true, 32, ⟨rfl, by decide +kernel⟩, by decide⟩, ⟨up, none, true, rfl⟩,
   ⟨{ up with sec := { identOk := true, securePasid := 9 } }, some 9, true, rfl⟩⟩

theorem witness_SensingModesGateFires :
    (∃ (b t : Blk) (who : Who) (w : W32), unitTakes who pgEVC b t ∧ 8176 = bits w.toNat 0 13) ∧
    (∃ (b t : Blk) (who : Who) (w : W32), unitTakes who pgEVC b t ∧ bits w.toNat 0 13 ≤ 8175 ∧ t.evc.mode = 0) ∧
    (∃ (b t : Blk) (who : Who) (w : W32), unitTakes who pgEVC b t ∧ bits w.toNat 0 2 = 3) ∧
    (∃ (b : Blk) (n : Nat), b.evc.mode ≠ 0 ∧ n < 64 ∧ b.pwr.supplies = true ∧ b.pwr.pstate < 3 ∧ frozenUnit b pgEVC = false ∧ n = 63) ∧
    (∃ (n : Nat) (b : Blk), b.pwr.pstate < 2 ∧ (b.source n).assigned = false ∧ n = 256) ∧ (∃ (n : Nat) (b : Blk), 64 ≤ n ∧ 2 ≤ b.pwr.pstate) ∧
    (∃ (n : Nat) (b : Blk), b.pwr.pstate < 2 ∧ (b.source n).assigned = true ∧ (b.source n).pending = false ∧ n = 255) ∧
    (∃ (n c : Nat) (b : Blk), b.pwr.pstate < 2 ∧ (b.source n).assigned = true ∧ (b.source n).pending = true ∧ (b.source n).ctx ≠ c ∧
      (b.source n).count = 255) :=
  ⟨⟨up, _, man, 8176, ⟨rfl, by decide +kernel⟩, by decide⟩, ⟨{ up with evc := { mode := 0 } }, _, man, 0, ⟨rfl, by decide +kernel⟩, by decide, rfl⟩,
   ⟨up, _, man, 3, ⟨rfl, by decide +kernel⟩, by decide⟩, ⟨up, 63, by decide⟩, ⟨256, up, by decide⟩, ⟨64, pst 2, by decide⟩, ⟨255, up, by decide⟩,
   ⟨5, 1, { up with evc := { sources := [(5, { assigned := true, pending := true, count := 255 })] } }, by decide⟩⟩

theorem witness_StoredBytesReadBack : ∃ (b : Blk) (bs : Bytes), Memory.wf b.mem = true ∧ b.ctx.spilled = [] ∧ bs ≠ [] :=
  ⟨{ up with mem := [(5, 1)] }, [0, 7], by decide⟩

theorem witness_MarkWritesOneRecord : ∃ (b t : Blk) (who : Who), unitTakes who pgTRC b t ∧ t.pwr.pstate < 2 ∧ t.trc.mode = 2 ∧
    t.trc.frozen = false ∧ t.trc.postPhase = false ∧ t.trc.kindMask.getLsbD 31 = true ∧
    isLocal t (t.trc.base + 32 * t.trc.tail) = true ∧ paSpace (t.trc.base + 32 * t.trc.tail) < 2 :=
  ⟨{ up with trc := { mode := 2, tail := 1023 } }, _, man, ⟨rfl, by decide +kernel⟩, by decide +kernel⟩

theorem witness_ReductionsKeepFp32Rules : (∃ a b : F32, a.num = .nan ∨ b.num = .nan) ∧ (∃ a : F32, a.num ≠ .nan ∧ a ≠ 0x80000000) ∧
    (∃ a b : F32, a.num ≠ .nan ∧ b.num ≠ .nan) :=
  ⟨⟨0x7F800001, 0, by decide +kernel⟩, ⟨0xFF800000, by decide +kernel⟩, ⟨0x00000001, 0x7F7FFFFF, by decide +kernel⟩⟩

theorem witness_AtomicsActAtTheirHome : ∃ (op : AtomOp) (n : Nat) (b : Blk), (n = 4 ∨ n = 8) ∧ (op = .addF32 → n = 4) ∧ Memory.wf b.mem = true ∧
    b.ctx.spilled = [] := ⟨.addF32, 4, { up with mem := [(3, 9)] }, by decide⟩

theorem witness_WindowsOpenOnFabricTime :
    (∃ (g : Regulator) (ft : Nat), g.commit = none ∧ g.windowFt / windowNs g.winK < ft / windowNs g.winK ∧ ft = 1048576) ∧
    (∃ (g : Regulator) (c : Nat), c < 8 ∧ g.budget c = 0xFFFFFF) ∧ (∃ (g : Regulator) (c : Nat), c < 8 ∧ g.budget c ≠ 0xFFFFFF ∧ 0 ≤ g.rem c) ∧
    (∃ (g : Regulator) (c : Nat), c < 8 ∧ g.budget c ≠ 0xFFFFFF ∧ g.rem c < 0) ∧
    (∃ (g : Regulator) (x : Waiting), g.budget x.req.cls ≠ 0xFFFFFF ∧ g.rem x.req.cls = 0 ∧ x.req.saving = false) ∧
    (∃ x : Waiting, x.req.saving = true) ∧
    (∃ (b t : Blk) (who : Who) (r : Nat) (w : W32), unitTakes who pgBWR b t ∧ (t.hdr pgBWR).locked = false ∧ r < 120 ∧ 11 = bits w.toNat 0 4) :=
  ⟨⟨{ winK := 10 }, 1048576, by decide⟩, ⟨{}, 7, by decide⟩, ⟨{ budgets := [5], remaining := [0] }, 0, by decide⟩,
   ⟨{ budgets := [5], remaining := [-3] }, 0, by decide⟩,
   ⟨{ budgets := [5], remaining := [0] }, ⟨⟨0, 0, 0, 0, 64, .read, none, false⟩, 0, none, false⟩, by decide⟩,
   ⟨⟨⟨0, 0, 0, 0, 64, .read, none, true⟩, 0, none, false⟩, rfl⟩, ⟨up, _, man, 119, 11, ⟨rfl, by decide +kernel⟩, by decide +kernel⟩⟩

theorem witness_TriggersStartOnePostPhase :
    (∃ (b t : Blk) (who : Who) (w : W32), unitTakes who pgTRC b t ∧ w.getLsbD 1 = true ∧ w.getLsbD 0 = false ∧ t.trc.mode ≠ 0 ∧
      t.trc.frozen = false ∧ t.trc.postPhase = false ∧ t.pwr.pstate < 2 ∧ (t.source 78).assigned = true ∧
      isLocal t (t.trc.base + 32 * t.trc.tail) = true ∧ paSpace (t.trc.base + 32 * t.trc.tail) < 2) ∧
    (∃ (b t : Blk) (who : Who) (w : W32), unitTakes who pgTRC b t ∧ w.getLsbD 1 = true ∧ w.getLsbD 0 = false ∧ t.trc.mode ≠ 0 ∧ t.trc.frozen = true) ∧
    (∃ (b t : Blk) (who : Who) (w : W32), unitTakes who pgTRC b t ∧ w.getLsbD 1 = true ∧ w.getLsbD 0 = false ∧ t.trc.mode = 0) ∧
    (∃ (b t : Blk) (who : Who) (w : W32), unitTakes who pgTRC b t ∧ w.getLsbD 0 = true ∧ w.getLsbD 1 = false ∧ t.trc.postPhase = true) ∧
    (∃ (b t : Blk) (who : Who) (w : W32), unitTakes who pgTRC b t ∧ (t.hdr pgTRC).locked = false ∧ t.trc.mode ≠ 0 ∧ bits w.toNat 0 2 ≠ 0 ∧
      bits w.toNat 0 2 ≠ t.trc.mode) :=
  ⟨⟨{ up with trc := { mode := 2 } }, _, man, 2, ⟨rfl, by decide +kernel⟩, by decide +kernel⟩,
   ⟨{ up with trc := { mode := 2, frozen := true } }, _, man, 2, ⟨rfl, by decide +kernel⟩, by decide +kernel⟩,
   ⟨up, _, man, 2, ⟨rfl, by decide +kernel⟩, by decide +kernel⟩,
   ⟨{ up with trc := { mode := 2, postPhase := true } }, _, man, 1, ⟨rfl, by decide +kernel⟩, by decide +kernel⟩,
   ⟨{ up with trc := { mode := 2 } }, _, man, 1, ⟨rfl, by decide +kernel⟩, by decide +kernel⟩⟩

theorem witness_LowPowerIsRefusedWhileWorkIsHeld :
    (∃ (b t : Blk) (who : Who) (w : W32) (c : Instr), c = .enterB2 who w ∧ bits w.toNat 0 2 = 1 ∧ unitTakes who pgPWR b t ∧ t.pwr.pbusy = false ∧
      t.pwr.pstate < 2 ∧ t.pwr.ready = true ∧ t.items ≠ []) ∧
    (∃ (b t : Blk) (who : Who) (w : W32) (c : Instr), c = .enterB3 who w ∧ bits w.toNat 0 2 = 2 ∧ unitTakes who pgPWR b t ∧ t.pwr.pbusy = false ∧
      t.pwr.pstate < 2 ∧ t.pwr.ready = true ∧ refuseBits t = 0) :=
  ⟨⟨withItem (entry 1 []), _, man, 1, _, rfl, by decide, ⟨rfl, by decide +kernel⟩, by decide +kernel⟩,
   ⟨up, _, man, 2, _, rfl, by decide, ⟨rfl, by decide +kernel⟩, by decide +kernel⟩⟩

theorem witness_SupplyLossErasesEverything :
    (∃ (p : List Instr) (b : Blk), b.pwr.supplies = true ∧ b.pwr.pstate < 3 ∧ Instr.suppliesValid ∉ p ∧ b.items ≠ []) ∧
    (∃ (p : List Instr) (b : Blk) (n : Nat), b.pwr.supplies = true ∧ b.pwr.toB3 = true ∧ b.pwr.graceFt = some n ∧ n ≤ b.ft ∧
      Instr.suppliesValid ∉ p) :=
  ⟨⟨[.b1Entry], withItem [], by decide⟩, ⟨[.b1Entry], { up with pwr := { up.pwr with toB3 := true, graceFt := some 0 } }, 0, by decide⟩⟩

theorem witness_DarkIsKept : ∃ s t : State, dark s ∧ step s = .next t ∧ s.pending ≠ [] ∧ s.blk.mem ≠ [] :=
  ⟨⟨[.powerCycle, .b1Entry], { ft := 5, mem := [(2, 2)], pwr := { pstate := 3 } }⟩, _, by unfold dark; decide, rfl, by decide, by decide⟩

theorem witness_QueueCommandsComplete :
    -- sqDoorbellWrite
    (∃ (b : Blk) (who : Who) (page : Nat) (off : Nat) (size : Nat) (w : W32) (t : Blk) (s : Nat) (q : Queue), pageTakes who pgQFE page s b t ∧ (size = 4 ∨ size = 8) ∧ off % 8 = 0 ∧ off < 4096 ∧ ownAccess t who s = true ∧ t.queues.get? (qkey s (off / 8)) = some q ∧ q.isSq = true ∧ t.rcv.blockPhase = 0 ∧ ctxDestroying t q.ctx = false ∧ w.toNat % 65536 < 2 ^ q.log2) ∧
    -- cqDoorbellWrite
    (∃ (b : Blk) (who : Who) (page : Nat) (off : Nat) (size : Nat) (w : W32) (t : Blk) (s : Nat) (q : Queue), pageTakes who pgQFE page s b t ∧ (size = 4 ∨ size = 8) ∧ off % 8 = 0 ∧ off < 4096 ∧ ownAccess t who s = true ∧ t.queues.get? (qkey s (off / 8)) = some q ∧ q.isSq = false ∧ t.rcv.blockPhase = 0 ∧ w.toNat % 65536 < 2 ^ q.log2 ∧ (w.toNat % 65536 + 2 ^ q.log2 - q.head) % 2 ^ q.log2 ≤ (q.tail + 2 ^ q.log2 - q.head) % 2 ^ q.log2) ∧
    -- deviceDoorbell
    (∃ (b : Blk) (page : Nat) (size : Nat) (w : W32) (t : Blk) (s : Nat) (ctx : Nat) (q : Queue), pageTakes (.core s ctx) (pgView page) page s b t ∧ (size = 4 ∨ size = 8) ∧ t.queues.get? (qkey s (bits w.toNat 0 9)) = some q ∧ q.isSq = true ∧ t.rcv.blockPhase = 0 ∧ ctxDestroying t q.ctx = false ∧ bits w.toNat 16 16 < 2 ^ q.log2) ∧
    -- queueCreate
    (∃ (b : Blk) (who : Who) (page : Nat) (w : W32) (t : Blk) (u : Blk) (s : Nat) (k : Nat) (n : Nat) (d : Bytes), viewTakes who page s b t ∧ (t.view s).qOp = none ∧ bits w.toNat 0 2 = 0 ∧ (t.view s).qDesc % 64 = 0 ∧ (u = t.updView s fun v => { v with qOp := some (.create v.qDesc) }) ∧ segOf u s false (t.view s).qDesc 32 = .ok ⟨(t.view s).qDesc, 32, .here k (.range s n)⟩ ∧ admits u .swedikin s false k 32 = true ∧ uncorrectable u k 32 = false ∧ loadLocal u k 32 = d ∧ queueFault u s d = none) ∧
    -- queueDestroy
    (∃ (b : Blk) (who : Who) (page : Nat) (w : W32) (t : Blk) (s : Nat) (q : Queue), viewTakes who page s b t ∧ (t.view s).qOp = none ∧ bits w.toNat 0 2 = 1 ∧ t.queues.get? (qkey s (bits w.toNat 16 9)) = some q ∧ q.isSq = true) ∧
    -- queueDestroy
    (∃ (b : Blk) (who : Who) (page : Nat) (w : W32) (t : Blk) (s : Nat) (q : Queue), viewTakes who page s b t ∧ (t.view s).qOp = none ∧ bits w.toNat 0 2 = 1 ∧ t.queues.get? (qkey s (bits w.toNat 16 9)) = some q ∧ q.isSq = false ∧ ((t.queues.any fun e => e.2.isSq && e.1 / 512 == s && e.2.cq == bits w.toNat 16 9) = false)) ∧
    -- queueDrainEnd
    (∃ (b : Blk) (s : Nat) (slot : Nat) (q : Queue), unitOn pgQFE b ∧ b.queues.get? (qkey s slot) = some q ∧ q.isSq = true ∧ q.draining = true ∧ (b.view s).qOp = some (.drain slot) ∧ sqItems b s slot = [] ∧ q.fetch = none) ∧
    -- arbitrationTurn
    (∃ (b : Blk) (u : Blk) (s : Nat) (x : Slice) (slot : Nat) (q : Queue), unitOn pgQFE b ∧ b.pwr.ready = true ∧ b.pwr.graceFt = none ∧ (drrPick (readySlices b) (9 * (readySlices b).length + 1) { b with slices := b.slices.mapVals fun k x => if (readySlices b).contains k then x else { x with deficit := 0 } } = (u, some s)) ∧ u.slices.get? s = some x ∧ pickSlot x (readySlots u s) = some (slot, q)) ∧
    -- entryReceived
    (∃ (b : Blk) (s : Nat) (slot : Nat) (q : Queue) (ft : Fetch), unitOn pgQFE b ∧ b.queues.get? (qkey s slot) = some q ∧ q.fetch = some ft ∧ ft.state = .issued) ∧
    -- itemStart
    (∃ (b : Blk) (i : Nat) (it : Item), unitOn pgQFE b ∧ b.items.get? i = some it ∧ it.started = false ∧ it.result = none ∧ mayStart b it = true ∧ pastDeadline b.ft it.deadline = false ∧ bit it.flags 2 = false) ∧
    -- completionWriteRetry
    (∃ (b : Blk) (i : Nat) (it : Item) (r : Result), unitOn pgQFE b ∧ b.items.get? i = some it ∧ it.complWait = true ∧ it.result = some r ∧ (it.stall = none ∨ it.stall = some .dirtyRing) ∧ itemVisible b i it = true) ∧
    -- itemDeadlineExpiry
    (∃ (b : Blk) (i : Nat) (it : Item), unitOn pgQFE b ∧ b.items.get? i = some it ∧ it.result = none ∧ it.started = false ∧ pastDeadline b.ft it.deadline = true) :=
  ⟨⟨live, man, 0, 8, 4, 3#32, _, 0, _, ⟨rfl, by decide +kernel⟩, by decide +kernel, by decide +kernel, by decide +kernel, by decide +kernel, rfl, by decide +kernel, by decide +kernel, by decide +kernel, by decide +kernel⟩,
   ⟨live, man, 0, 0, 4, 0#32, _, 0, _, ⟨rfl, by decide +kernel⟩, by decide +kernel, by decide +kernel, by decide +kernel, by decide +kernel, rfl, by decide +kernel, by decide +kernel, by decide +kernel, by decide +kernel⟩,
   ⟨live, 0, 4, 0x30001#32, _, 0, 0, _, ⟨rfl, by decide +kernel⟩, by decide +kernel, rfl, by decide +kernel, by decide +kernel, by decide +kernel, by decide +kernel⟩,
   ⟨({ withMem (leBytes 8 (2 ^ 56) ++ [1, 4] ++ leBytes 2 3 ++ z 20) live with views := [(0, { qDesc := 0x10000 })] }), man, 0, 0#32, _, _, 0, 0x80000000, 0, _, ⟨⟨rfl, by decide +kernel⟩, by decide +kernel⟩, by decide +kernel, by decide +kernel, by decide +kernel, rfl, seg_of _ _ (by decide +kernel), by decide +kernel, by decide +kernel, rfl, by decide +kernel⟩,
   ⟨live, man, 0, 0x10001#32, _, 0, _, ⟨⟨rfl, by decide +kernel⟩, by decide +kernel⟩, by decide +kernel, by decide +kernel, rfl, by decide +kernel⟩,
   ⟨({ live with queues := [(0, cq0)] }), man, 0, 1#32, _, 0, _, ⟨⟨rfl, by decide +kernel⟩, by decide +kernel⟩, by decide +kernel, by decide +kernel, rfl, by decide +kernel, by decide +kernel⟩,
   ⟨({ live with queues := [(0, cq0), (1, { sq0 with draining := true })], views := [(0, { qOp := some (.drain 1) })] }), 0, 1, _, by decide +kernel, rfl, by decide +kernel, by decide +kernel, by decide +kernel, by decide +kernel, by decide +kernel⟩,
   ⟨({ live with queues := [(0, cq0), (1, { sq0 with tail := 3 })] }), _, 0, _, _, _, by decide +kernel, by decide +kernel, by decide +kernel, pair_of _ 0 (by decide +kernel), some_of _ (by decide +kernel), both_of _ (by decide +kernel)⟩,
   ⟨({ live with queues := [(0, cq0), (1, { sq0 with fetch := some ⟨0, 1, .issued⟩ })] }), 0, 1, _, _, by decide +kernel, rfl, rfl, by decide +kernel⟩,
   ⟨({ live with items := [(0, { item (entry 2 []) with started := false })] }), 0, _, by decide +kernel, rfl, by decide +kernel, by decide +kernel, by decide +kernel, by decide +kernel, by decide +kernel⟩,
   ⟨({ live with items := [(0, { item (entry 2 []) with complWait := true, result := some ⟨0, 0, 0⟩ })] }), 0, _, _, by decide +kernel, rfl, by decide +kernel, rfl, by decide +kernel, by decide +kernel⟩,
   ⟨({ live with ft := 100, items := [(0, { item (entry 2 []) with started := false, deadline := some 1 })] }), 0, _, by decide +kernel, rfl, by decide +kernel, by decide +kernel, by decide +kernel⟩⟩

theorem witness_EngineItemsComplete :
    -- copy
    (∃ (b : Blk) (i : Nat) (it : Item), unitOn pgTRE b ∧ itemRuns i 0x02 pgTRE b it) ∧
    -- reduce
    (∃ (b : Blk) (i : Nat) (it : Item), unitOn pgTRE b ∧ itemRuns i 0x03 pgTRE b it) ∧
    -- kvMove
    (∃ (b : Blk) (i : Nat) (it : Item), unitOn pgTRE b ∧ itemRuns i 0x05 pgTRE b it) ∧
    -- collective
    (∃ (b : Blk) (i : Nat) (it : Item) (g : Group), unitOn pgTRE b ∧ itemRuns i 0x04 pgTRE b it ∧ b.tre.groups.get? (field it.entry 0x28 2) = some g ∧ g.slice = it.slice ∧ collFault b (itemColl i it g) = none) ∧
    -- flushRange
    (∃ (b : Blk) (i : Nat) (it : Item), unitOn pgSCH b ∧ itemRuns i 0x08 pgSCH b it ∧ flushState b i = none) ∧
    -- launch
    (∃ (b : Blk) (i : Nat) (it : Item) (d : Bytes) (u : Blk), unitOn pgSCH b ∧ itemRuns i 0x01 pgSCH b it ∧ partCores b (slicePart b it.slice) ≠ [] ∧ (¬(2 ^ 56 ≤ field it.entry 0x10 8 ∧ field it.entry 0x10 8 < 2 ^ 57)) ∧ readDesc i it (field it.entry 0x10 8) b = .data d u ∧ descFault u d (field it.entry 0x2C 4) = none) ∧
    -- stepRun
    (∃ (b : Blk) (i : Nat) (it : Item), unitOn pgMAR b ∧ itemRuns i 0x0B pgMAR b it ∧ inOneRange b it.slice (field it.entry 0x38 8) (64 + 32 * field it.entry 0x1C 4) 1 = true) :=
  ⟨⟨(withItem (entry 2 [])), 0, _, by decide +kernel, ⟨rfl, by decide +kernel⟩⟩,
   ⟨(withItem (entry 3 [])), 0, _, by decide +kernel, ⟨rfl, by decide +kernel⟩⟩,
   ⟨(withItem (entry 5 [])), 0, _, by decide +kernel, ⟨rfl, by decide +kernel⟩⟩,
   ⟨({ withItem (entry 4 (leBytes 8 0x10000 ++ leBytes 8 0x20000 ++ leBytes 4 1)) with tre := { groups := [(0, { slice := 0, size := 2, rank := 0, ring := false, members := [0, 1], resendBase := 0, resendBytes := 0 })] } }), 0, _, _, by decide +kernel, ⟨rfl, by decide +kernel⟩, rfl, by decide +kernel, by decide +kernel⟩,
   ⟨(withItem (entry 8 [])), 0, _, by decide +kernel, ⟨rfl, by decide +kernel⟩, by decide +kernel⟩,
   ⟨(withMem desc (withItem (entry 1 (leBytes 8 0x10000)))), 0, _, _, _, by decide +kernel, ⟨rfl, by decide +kernel⟩, by decide +kernel, by decide +kernel, rfl, by decide +kernel⟩,
   ⟨(withItem (entry 0x0B (z 40 ++ leBytes 8 0x30000))), 0, _, by decide +kernel, ⟨rfl, by decide +kernel⟩, by decide +kernel⟩⟩

theorem witness_ObjectItemsComplete :
    -- fenceSignal
    (∃ (b : Blk) (i : Nat) (it : Item) (u : Blk) (n : Nat), unitOn pgFEN b ∧ itemRuns i 0x06 pgFEN b it ∧ pastDeadline b.ft it.deadline = false ∧ signalVisible b it = true ∧ field it.entry 0x12 2 = b.chip ∧ signalFence it.slice it.ctx (field it.entry 0x10 2) (BitVec.ofNat 64 (field it.entry 0x18 8)) (bit (field it.entry 0x14 1) 0) b.chip false it.tag b = (u, n)) ∧
    -- fenceSignal
    (∃ (b : Blk) (i : Nat) (it : Item), unitOn pgFEN b ∧ itemRuns i 0x06 pgFEN b it ∧ pastDeadline b.ft it.deadline = false ∧ signalVisible b it = true ∧ field it.entry 0x12 2 ≠ b.chip) ∧
    -- fenceWait
    (∃ (b : Blk) (i : Nat) (it : Item) (f : Fence), unitOn pgFEN b ∧ itemRuns i 0x07 pgFEN b it ∧ b.fen.fences.get? (field it.entry 0x10 2) = some f ∧ f.owner = it.slice ∧ f.abandoning = false ∧ BitVec.ofNat 64 (field it.entry 0x18 8) ≤ f.value) ∧
    -- fenceWait
    (∃ (b : Blk) (i : Nat) (it : Item) (f : Fence), unitOn pgFEN b ∧ itemRuns i 0x07 pgFEN b it ∧ b.fen.fences.get? (field it.entry 0x10 2) = some f ∧ f.owner = it.slice ∧ f.abandoning = false ∧ f.value < BitVec.ofNat 64 (field it.entry 0x18 8) ∧ b.fen.table.length < 16384) ∧
    -- alloc
    (∃ (b : Blk) (i : Nat) (it : Item) (f : Nat) (u : Blk) (t : Blk), unitOn pgCTX b ∧ itemRuns i 0x0E pgCTX b it ∧ it.wants = none ∧ field it.entry 0x10 1 = 2 ∧ ((b.slices.get? it.slice).all (fun s => decide (sliceFences b it.slice < s.maxFences)) = true) ∧ takeFenceNumber b = some (f, u) ∧ itemWrite i it (field it.entry 0x20 8) (leBytes 8 f) u = .done t ∧ ((t.lmf.outstanding.any fun q => q.why == .itemWrite i) = false)) ∧
    -- alloc
    (∃ (b : Blk) (i : Nat) (it : Item) (g : Nat) (a : Nat) (t : Blk), unitOn pgCTX b ∧ itemRuns i 0x0E pgCTX b it ∧ it.wants = none ∧ field it.entry 0x10 1 < 2 ∧ field it.entry 0x28 8 = 0 ∧ b.xlt.areaEn = true ∧ (rangesOf b it.slice).length < 1024 ∧ firstFit (freePages b it.slice (field it.entry 0x10 1)) (field it.entry 0x18 8 / 65536) = some g ∧ placeRange b it.slice (field it.entry 0x18 8) = some a ∧ itemWrite i it (field it.entry 0x20 8) (leBytes 8 a) (setRange it.slice (rangesOf b it.slice).fresh (some { start := a, len := field it.entry 0x18 8, pa := mkPa b (field it.entry 0x10 1) (g % 2 ^ 30 * 65536), creator := it.ctx, valid := false }) b) = .done t ∧ ((t.lmf.outstanding.any fun q => q.why == .itemWrite i) = false)) ∧
    -- free
    (∃ (b : Blk) (i : Nat) (it : Item), unitOn pgCTX b ∧ itemRuns i 0x0F pgCTX b it ∧ field it.entry 0x10 1 = 2 ∧ ownsFence b it.slice (field it.entry 0x18 8) = true) ∧
    -- free
    (∃ (b : Blk) (i : Nat) (it : Item) (n : Nat) (r : Range), unitOn pgCTX b ∧ itemRuns i 0x0F pgCTX b it ∧ field it.entry 0x10 1 < 2 ∧ (((rangesOf b it.slice).find? fun x => x.2.start == field it.entry 0x18 8 && x.2.valid && !x.2.peer && paSpace x.2.pa == field it.entry 0x10 1) = some (n, r)) ∧ rangeNamed b it.slice r = false) :=
  ⟨⟨(withItem (entry 6 (z 8 ++ leBytes 8 7))), 0, _, _, _, by decide +kernel, ⟨rfl, by decide +kernel⟩, by decide +kernel, by decide +kernel, by decide +kernel, rfl⟩,
   ⟨(withItem (entry 6 (leBytes 2 0 ++ leBytes 2 1))), 0, _, by decide +kernel, ⟨rfl, by decide +kernel⟩, by decide +kernel, by decide +kernel, by decide +kernel⟩,
   ⟨(withItem (entry 7 (z 8 ++ leBytes 8 3))), 0, _, _, by decide +kernel, ⟨rfl, by decide +kernel⟩, rfl, by decide +kernel, by decide +kernel, by decide +kernel⟩,
   ⟨(withItem (entry 7 (z 8 ++ leBytes 8 9))), 0, _, _, by decide +kernel, ⟨rfl, by decide +kernel⟩, rfl, by decide +kernel, by decide +kernel, by decide +kernel, by decide +kernel⟩,
   ⟨(withItem (entry 0x0E ([2] ++ z 15 ++ leBytes 8 0x10000))), 0, _, _, _, _, by decide +kernel, ⟨rfl, by decide +kernel⟩, by decide +kernel, by decide +kernel, by decide +kernel, rfl, rfl, by decide +kernel⟩,
   ⟨(withItem (entry 0x0E (z 8 ++ leBytes 8 0x10000 ++ leBytes 8 0x10000))), 0, _, _, _, _, by decide +kernel, ⟨rfl, by decide +kernel⟩, by decide +kernel, by decide +kernel, by decide +kernel, by decide +kernel, by decide +kernel, rfl, rfl, rfl, by decide +kernel⟩,
   ⟨(withItem (entry 0x0F [2])), 0, _, by decide +kernel, ⟨rfl, by decide +kernel⟩, by decide +kernel, by decide +kernel⟩,
   ⟨(withItem (entry 0x0F (z 8 ++ leBytes 8 0x10000))), 0, _, _, _, by decide +kernel, ⟨rfl, by decide +kernel⟩, by decide +kernel, rfl, by decide +kernel⟩⟩

theorem witness_ModelItemsComplete :
    -- modelLoad
    (∃ (b : Blk) (i : Nat) (it : Item) (n : Nat) (m : Model), unitOn pgMDL b ∧ itemRuns i 0x09 pgMDL b it ∧ modelOf b it.slice (field it.entry 0x10 4) = some (n, m) ∧ m.src = field it.entry 0x18 8 ∧ m.len = field it.entry 0x20 8 ∧ m.invalidating = false ∧ m.state = .resident) ∧
    -- modelLoad
    (∃ (b : Blk) (i : Nat) (it : Item), unitOn pgMDL b ∧ itemRuns i 0x09 pgMDL b it ∧ modelOf b it.slice (field it.entry 0x10 4) = none ∧ b.mdl.models.length < 1024) ∧
    -- modelPin
    (∃ (b : Blk) (i : Nat) (it : Item) (n : Nat) (m : Model), unitOn pgMDL b ∧ itemRuns i 0x0A pgMDL b it ∧ modelOf b it.slice (field it.entry 0x10 4) = some (n, m) ∧ field it.entry 0x14 1 = 0) ∧
    -- modelPin
    (∃ (b : Blk) (i : Nat) (it : Item) (n : Nat) (m : Model), unitOn pgMDL b ∧ itemRuns i 0x0A pgMDL b it ∧ modelOf b it.slice (field it.entry 0x10 4) = some (n, m) ∧ field it.entry 0x14 1 ≠ 0 ∧ m.pinned = false ∧ slicePinned b it.slice + m.need ≤ sliceShare b it.slice ∧ m.invalidating = false ∧ m.state = .resident) ∧
    -- seqJoin
    (∃ (b : Blk) (i : Nat) (it : Item) (n : Nat) (r : Run) (d : Bytes) (u : Blk), unitOn pgMAR b ∧ itemRuns i 0x0C pgMAR b it ∧ findRun b it.slice (field it.entry 0x10 4) = .run n r ∧ seqInRun b n r (field it.entry 0x14 4) = false ∧ itemRead i it (field it.entry 0x18 8) 64 b = .data d u ∧ imageOk d = true) ∧
    -- seqLeave
    (∃ (b : Blk) (i : Nat) (it : Item) (n : Nat) (r : Run), unitOn pgMAR b ∧ itemRuns i 0x0D pgMAR b it ∧ findRun b it.slice (field it.entry 0x10 4) = .run n r ∧ seqInRun b n r (field it.entry 0x14 4) = true ∧ ((r.waiting.any fun x => x.seqId == field it.entry 0x14 4) = true)) ∧
    -- seqLeave
    (∃ (b : Blk) (i : Nat) (it : Item) (n : Nat) (r : Run), unitOn pgMAR b ∧ itemRuns i 0x0D pgMAR b it ∧ findRun b it.slice (field it.entry 0x10 4) = .run n r ∧ seqInRun b n r (field it.entry 0x14 4) = true ∧ ((r.waiting.any fun x => x.seqId == field it.entry 0x14 4) = false)) :=
  ⟨⟨({ withItem (entry 9 (z 8 ++ leBytes 8 0x10000 ++ leBytes 8 2097152)) with mdl := { models := [(0, md0)] } }), 0, _, _, _, by decide +kernel, ⟨rfl, by decide +kernel⟩, rfl, by decide +kernel, by decide +kernel, by decide +kernel, by decide +kernel⟩,
   ⟨(withItem (entry 9 [])), 0, _, by decide +kernel, ⟨rfl, by decide +kernel⟩, by decide +kernel, by decide +kernel⟩,
   ⟨({ withItem (entry 0x0A []) with mdl := { models := [(0, md0)] } }), 0, _, _, _, by decide +kernel, ⟨rfl, by decide +kernel⟩, rfl, by decide +kernel⟩,
   ⟨({ withItem (entry 0x0A (z 4 ++ [1])) with mdl := { models := [(0, md0)] } }), 0, _, _, _, by decide +kernel, ⟨rfl, by decide +kernel⟩, rfl, by decide +kernel, by decide +kernel, by decide +kernel, by decide +kernel, by decide +kernel⟩,
   ⟨({ withMem (z 40 ++ [4] ++ z 23) (withItem (entry 0x0C (leBytes 4 7 ++ leBytes 4 9 ++ leBytes 8 0x10000))) with mar := { runs := [(0, run0)] } }), 0, _, _, _, _, _, by decide +kernel, ⟨rfl, by decide +kernel⟩, rfl, by decide +kernel, rfl, by decide +kernel⟩,
   ⟨({ withItem (entry 0x0D (leBytes 4 7 ++ leBytes 4 9)) with mar := { runs := [(0, { run0 with waiting := [ws0] })] } }), 0, _, _, _, by decide +kernel, ⟨rfl, by decide +kernel⟩, rfl, by decide +kernel, by decide +kernel⟩,
   ⟨({ withItem (entry 0x0D (leBytes 4 7 ++ leBytes 4 9)) with mar := { runs := [(0, run0)], seqs := [(0, seq0)] } }), 0, _, _, _, by decide +kernel, ⟨rfl, by decide +kernel⟩, rfl, by decide +kernel, by decide +kernel⟩⟩

theorem witness_PlacementComplete :
    -- workGroupPlace
    (∃ (b : Blk) (part : Nat) (u : Blk) (n : Nat) (k : Nat) (l : Launch), unitOn pgSCH b ∧ schReady b = true ∧ startPreempt part b = u ∧ nextPlacing u part = some (.launch n, k) ∧ u.sch.launches.get? n = some l) ∧
    -- workGroupEnd
    (∃ (b : Blk) (k : Nat) (n : Nat), unitOn pgSCH b ∧ (((b.core k).groups.any fun g => g.launch == n) = true)) ∧
    -- restoreDispatch
    (∃ (b : Blk) (c : Nat) (e : Context) (n : Nat) (k : Nat), unitOn pgSCH b ∧ schReady b = true ∧ b.contexts.get? c = some e ∧ nextPlacing b (slicePart b e.slice) = some (.record c n, k)) ∧
    -- recordRestored
    (∃ (b : Blk) (k : Nat) (c : Nat) (n : Nat) (u : Blk), unitOn pgSCH b ∧ (b.core k).restoring = some (c, n) ∧ (u = freeRecord c n (b.updCore k fun x => idleCore { x with restoring := none, groups := ((((b.contexts.get? c).bind fun e => e.records.get? n).map fun r => r.groups).getD []).filter fun g => (b.sch.launches.get? g.launch).any fun l => l.stop.isNone, placedFt := b.ft }))) ∧
    -- dispatchPortFailure
    (∃ (b : Blk) (n : Nat), unitOn pgSCH b ∧ n < 4 ∧ b.sch.portsUp.getLsbD n = true) ∧
    -- preempt
    (∃ (b : Blk) (who : Who) (w : W32) (t : Blk) (e : Context) (u : Blk), unitTakes who pgSCH b t ∧ t.sch.pbusy = none ∧ t.contexts.get? (bits w.toNat 16 16) = some e ∧ e.state ≠ .destroying ∧ bit w.toNat 0 = false ∧ (u = syncSaveArea (bits w.toNat 16 16) (t.updContext (bits w.toNat 16 16) fun x => { x with held := bit w.toNat 1 }))) ∧
    -- resume
    (∃ (b : Blk) (who : Who) (w : W32) (t : Blk) (e : Context), unitTakes who pgSCH b t ∧ t.sch.pbusy = none ∧ t.contexts.get? (bits w.toNat 16 16) = some e ∧ e.state ≠ .destroying ∧ bit w.toNat 0 = true) ∧
    -- schLwaWrite
    (∃ (b : Blk) (who : Who) (w : W32) (t : Blk), unitTakes who pgSCH b t ∧ (t.hdr pgSCH).locked = false ∧ 1 ≤ bits w.toNat 0 5 ∧ bits w.toNat 0 5 ≤ 16 ∧ noScratchpad t = true ∧ t.mdl.storeEn = false ∧ t.contexts = []) :=
  ⟨⟨(onCore {}), 0, _, _, _, _, by decide +kernel, by decide +kernel, rfl, rfl, rfl⟩,
   ⟨(onCore { groups := [wg0] }), 0, 0, by decide +kernel, by decide +kernel⟩,
   ⟨({ live with contexts := [(0, { cx0 with records := [(0, { recState := 1, groups := [wg0], savedAt := 0, order := 0 })] })] }), 0, _, _, _, by decide +kernel, by decide +kernel, rfl, rfl⟩,
   ⟨({ onCore { restoring := some (0, 0) } with contexts := [(0, { cx0 with records := [(0, { recState := 3, groups := [wg0], savedAt := 0, order := 0 })] })] }), 0, _, _, _, by decide +kernel, rfl, rfl⟩,
   ⟨up, 0, by decide +kernel, by decide +kernel, by decide +kernel⟩,
   ⟨live, man, 0#32, _, _, _, ⟨rfl, by decide +kernel⟩, by decide +kernel, rfl, by decide +kernel, by decide +kernel, rfl⟩,
   ⟨live, man, 1#32, _, _, ⟨rfl, by decide +kernel⟩, by decide +kernel, rfl, by decide +kernel, by decide +kernel⟩,
   ⟨up, man, 4#32, _, ⟨rfl, by decide +kernel⟩, by decide +kernel, by decide +kernel, by decide +kernel, by decide +kernel, by decide +kernel, by decide +kernel⟩⟩

theorem witness_StopsComplete :
    -- cheapPointAck
    (∃ (b : Blk) (k : Nat) (st : CoreStop), unitOn pgSCH b ∧ (b.core k).stop = some st) ∧
    -- graceExpiry
    (∃ (b : Blk) (k : Nat) (st : CoreStop), unitOn pgSCH b ∧ (b.core k).stop = some st ∧ st.ack = false ∧ st.forced = false ∧ st.graceFt ≤ b.ft) ∧
    -- coreIdle
    (∃ (b : Blk) (k : Nat) (image : Bytes) (st : CoreStop) (c : Nat) (e : Context) (a : Nat) (u : Blk), unitOn pgSCH b ∧ (b.core k).stop = some st ∧ (b.core k).ctx = some c ∧ (b.core k).groups ≠ [] ∧ (st.ack = true ∨ st.forced = true) ∧ b.contexts.get? c = some e ∧ st.save = true ∧ a = recordDva b e (savePos b k e) ∧ ctlWrite e.slice c none a (image.take (recordBytes b)) b = .done u) ∧
    -- coreIdle
    (∃ (b : Blk) (k : Nat) (st : CoreStop) (c : Nat) (e : Context), unitOn pgSCH b ∧ (b.core k).stop = some st ∧ (b.core k).ctx = some c ∧ (st.ack = true ∨ st.forced = true) ∧ b.contexts.get? c = some e ∧ st.save = false) ∧
    -- saveStopFailure
    (∃ (b : Blk) (k : Nat) (st : CoreStop) (c : Nat) (e : Context), unitOn pgSCH b ∧ (b.core k).stop = some st ∧ (b.core k).ctx = some c ∧ st.save = true ∧ b.contexts.get? c = some e) ∧
    -- saveStopFailure
    (∃ (b : Blk) (k : Nat) (st : CoreStop) (c : Nat) (e : Context), unitOn pgSCH b ∧ (b.core k).stop = some st ∧ (b.core k).ctx = some c ∧ st.save = true ∧ b.contexts.get? c = some e) ∧
    -- saveStopFailure
    (∃ (b : Blk) (k : Nat) (st : CoreStop) (c : Nat) (e : Context) (a : Nat) (n : Nat), unitOn pgSCH b ∧ (b.core k).stop = some st ∧ (b.core k).ctx = some c ∧ st.save = true ∧ b.contexts.get? c = some e ∧ spanCause b e.slice (recordDva b e (savePos b k e)) (recordBytes b) true = some (a, n)) ∧
    -- restoreFailure
    (∃ (b : Blk) (k : Nat) (c : Nat) (n : Nat) (e : Context), unitOn pgSCH b ∧ (b.core k).restoring = some (c, n) ∧ b.contexts.get? c = some e) ∧
    -- cacheMaintenanceAck
    (∃ (b : Blk) (k : Nat) (f : FlushWord) (it : Item), unitOn pgSCH b ∧ ((b.sch.flush.find? fun x => x.cores.contains k) = some f) ∧ b.items.get? f.item = some it ∧ f.cores.filter (· ≠ k) = []) :=
  ⟨⟨(onCore { ctx := some 0, groups := [wg0], stop := some st0 }), 0, _, by decide +kernel, rfl⟩,
   ⟨(onCore { ctx := some 0, groups := [wg0], stop := some { st0 with ack := false } }), 0, _, by decide +kernel, rfl, by decide +kernel, by decide +kernel, by decide +kernel⟩,
   ⟨(onCore { ctx := some 0, groups := [wg0], stop := some st0 }), 0, (z 64), _, _, _, _, _, by decide +kernel, rfl, rfl, by decide +kernel, by decide +kernel, rfl, by decide +kernel, rfl, done_of _ (by decide +kernel)⟩,
   ⟨(onCore { ctx := some 0, groups := [wg0], stop := some { st0 with save := false } }), 0, _, _, _, by decide +kernel, rfl, rfl, by decide +kernel, rfl, by decide +kernel⟩,
   ⟨(onCore { ctx := some 0, groups := [wg0], stop := some st0 }), 0, _, _, _, by decide +kernel, rfl, rfl, by decide +kernel, rfl⟩,
   ⟨(onCore { ctx := some 0, groups := [wg0], stop := some st0 }), 0, _, _, _, by decide +kernel, rfl, rfl, by decide +kernel, rfl⟩,
   ⟨({ onCore { ctx := some 0, groups := [wg0], stop := some st0 } with contexts := [(0, { cx0 with saveArea := 0x8000000 })] }), 0, _, _, _, _, _, by decide +kernel, rfl, rfl, by decide +kernel, rfl, both_of _ (by decide +kernel)⟩,
   ⟨(onCore { restoring := some (0, 0) }), 0, _, _, _, by decide +kernel, rfl, rfl⟩,
   ⟨({ withItem (entry 8 []) with sch := { flush := [⟨0, [0], 0, 0, 0⟩] } }), 0, _, _, by decide +kernel, rfl, rfl, by decide +kernel⟩⟩

theorem witness_FenceCommandsComplete :
    -- signalPortWrite
    (∃ (b : Blk) (who : Who) (page : Nat) (off : Nat) (bytes : Bytes) (t : Blk) (s : Nat) (u : Blk) (n : Nat), pageTakes who (pgView page) page s b t ∧ portWriter t who s = true ∧ off = 0x200 ∧ bytes.length = 16 ∧ field bytes 0x0A 2 = 0 ∧ field bytes 0x0C 4 = 0 ∧ ownsFence t s (field bytes 8 2) = true ∧ signalFence s (portCtx who) (field bytes 8 2) (BitVec.ofNat 64 (field bytes 0 8)) false t.chip false 0 t = (u, n)) ∧
    -- pollRecheck
    (∃ (b : Blk), unitOn pgFEN b) ∧
    -- waitDeadlineExpiry
    (∃ (b : Blk) (i : Nat) (wt : Wait), unitOn pgFEN b ∧ ((b.fen.table.find? fun x => x.item == i && pastDeadline b.ft x.deadline) = some wt)) ∧
    -- remoteSignalTimeout
    (∃ (b : Blk) (i : Nat) (it : Item) (rs : RemoteSig), unitOn pgFEN b ∧ b.items.get? i = some it ∧ it.sig = some rs ∧ it.result = none ∧ it.startFt + it.timeoutNs b.lmf.txnTimeoutUs ≤ b.ft) ∧
    -- fsigSend
    (∃ (b : Blk) (i : Nat) (it : Item) (n : Nat) (u : Blk) (t : Blk), unitOn pgFEN b ∧ b.items.get? i = some it ∧ it.sig = some ⟨none, n⟩ ∧ it.result = none ∧ pastDeadline b.ft it.deadline = false ∧ fsigOut b (field it.entry 0x12 2 % 1024) < 64 ∧ u = openSession (field it.entry 0x12 2 % 1024) b ∧ t = traceRec 0x04 it.slice it.ctx (field it.entry 0x18 8) (field it.entry 0x10 2 + field it.entry 0x12 2 % 1024 * 2 ^ 16 + nextTxn u (field it.entry 0x12 2 % 1024) % 2 ^ 32 * 2 ^ 32) false u) ∧
    -- fenceQueryRead
    (∃ (b : Blk) (who : Who) (page : Nat) (size : Nat) (t : Blk) (s : Nat), readTakes who (pgView page) size b t ∧ pageSlice t who page = some s) ∧
    -- managerFenceQueryRead
    (∃ (b : Blk) (who : Who) (size : Nat) (t : Blk), readTakes who pgFEN size b t) ∧
    -- fenceStaleClear
    (∃ (b : Blk) (who : Who) (page : Nat) (w : W32) (t : Blk) (s : Nat), viewTakes who page s b t ∧ bit w.toNat 16 = true ∧ ownsFence t s (t.view s).fqSel = true) ∧
    -- remoteWriteLost
    (∃ (b : Blk) (dest : Nat) (txn : Nat) (rq : Request'), unitOn pgLMF b ∧ answered b dest txn = some rq ∧ rq.limitFt ≤ b.ft ∧ rq.why.isWrite = true) ∧
    -- remoteReadTimeout
    (∃ (b : Blk) (dest : Nat) (txn : Nat) (rq : Request'), unitOn pgLMF b ∧ answered b dest txn = some rq ∧ rq.limitFt ≤ b.ft ∧ rq.why.isRead = true ∧ rq.why.isWrite = false) ∧
    -- hostFlushReadIssue
    (∃ (b : Blk) (fn : Nat), unitOn pgHLU b ∧ ((b.hlu.stores.any fun x => x.fn == fn && x.flush.isNone) = true)) ∧
    -- hostReadCompletion
    (∃ (b : Blk) (tag : Nat) (hr : HostRead), unitOn pgHLU b ∧ hostReadOf b tag = some hr ∧ (∀ s q, hr.why ≠ .fetch s q)) ∧
    -- hostReadTimeout
    (∃ (b : Blk) (tag : Nat) (hr : HostRead) (fn : Nat), unitOn pgHLU b ∧ hostReadOf b tag = some hr ∧ hr.limitFt ≤ b.ft ∧ hr.why = .flush fn) ∧
    -- ownershipPushAck
    (∃ (b : Blk) (n : Nat), b.pwr.supplies = true ∧ b.pwr.pstate < 2 ∧ ((b.own.pushes.any fun x => x.id == n) = true)) :=
  ⟨⟨live, man, 0, 0x200, (leBytes 8 9 ++ z 8), _, 0, _, _, ⟨rfl, by decide +kernel⟩, by decide +kernel, by decide +kernel, by decide +kernel, by decide +kernel, by decide +kernel, by decide +kernel, rfl⟩,
   ⟨up, by decide +kernel⟩,
   ⟨({ withItem (entry 7 []) with ft := 100, fen := { table := [⟨0, 9, some 1, 0, 0⟩] } }), 0, _, by decide +kernel, rfl⟩,
   ⟨({ live with ft := 1000000, items := [(0, { item (entry 6 []) with sig := some ⟨some 3, 0⟩ })] }), 0, _, _, by decide +kernel, rfl, rfl, by decide +kernel, by decide +kernel⟩,
   ⟨({ live with items := [(0, { item (entry 6 (z 2 ++ leBytes 2 1)) with sig := some ⟨none, 0⟩ })] }), 0, _, _, _, _, by decide +kernel, rfl, rfl, by decide +kernel, by decide +kernel, by decide +kernel, rfl, rfl⟩,
   ⟨live, man, 0, 4, _, 0, ⟨rfl, by decide +kernel⟩, by decide +kernel⟩,
   ⟨up, man, 4, _, ⟨rfl, by decide +kernel⟩⟩,
   ⟨live, man, 0, 0x10000#32, _, 0, ⟨⟨rfl, by decide +kernel⟩, by decide +kernel⟩, by decide +kernel, by decide +kernel⟩,
   ⟨({ live with lmf := { outstanding := [rq0] } }), 1, 7, _, by decide +kernel, rfl, by decide +kernel, by decide +kernel⟩,
   ⟨({ live with lmf := { outstanding := [{ rq0 with why := .itemRead 0 0 8 }] } }), 1, 7, _, by decide +kernel, rfl, by decide +kernel, by decide +kernel, by decide +kernel⟩,
   ⟨({ live with hlu := { stores := [⟨0, none, 0, none⟩] } }), 0, by decide +kernel, by decide +kernel⟩,
   ⟨({ live with hlu := { reads := [⟨3, .item 0 0 8, 0, 0⟩] } }), 3, _, by decide +kernel, rfl, by intro s q h; cases h⟩,
   ⟨({ live with hlu := { reads := [⟨3, .flush 0, 0, 0⟩] } }), 3, _, _, by decide +kernel, rfl, by decide +kernel, rfl⟩,
   ⟨({ live with own := { pushes := [⟨4, [1], some 0, none⟩] } }), 4, by decide +kernel, by decide +kernel, by decide +kernel⟩⟩

theorem witness_TranslationEventsComplete :
    -- atsCompletion
    (∃ (b : Blk) (s : Nat) (page : Nat), unitOn pgXLT b ∧ ((b.xlt.atsWaits.any fun x => x.slice == s && x.page == page) = true)) ∧
    -- rangeCacheMissDone
    (∃ (b : Blk) (n : Nat) (m : Miss) (k : Nat), unitOn pgXLT b ∧ ((b.xlt.misses.find? fun x => x.id == n) = some m) ∧ m.work = none ∧ m.core = some k) ∧
    -- atsInvalidationRequest
    (∃ (b : Blk), unitOn pgXLT b ∧ b.hlu.invalRequests < 32) ∧
    -- holdRelease
    (∃ (b : Blk) (holder : Holder), unitOn pgXLT b ∧ atBoundary b holder = true) ∧
    -- shootdownAck
    (∃ (b : Blk) (k : Nat) (x : Inval), unitOn pgXLT b ∧ ((b.xlt.invals.find? fun y => y.cores.contains k) = some x) ∧ (∀ y ∈ b.lmf.outstanding, ∀ n, y.why ≠ .coreWrite k n ∧ y.why ≠ .coreRead k n)) ∧
    -- invalidationAbort
    (∃ (b : Blk) (n : Nat) (x : Inval), unitOn pgXLT b ∧ ((b.xlt.invals.find? fun y => y.epoch == n && !y.aborted) = some x) ∧ x.startFt + 8000 ≤ b.ft) ∧
    -- abortDrainExpiry
    (∃ (b : Blk) (n : Nat) (a : Nat), unitOn pgXLT b ∧ ((b.xlt.aborted.find? fun x => x.1 == n) = some (n, a)) ∧ a + 10000 ≤ b.ft) ∧
    -- faultBatchClose
    (∃ (b : Blk) (s : Nat) (x : Batch), unitOn pgXLT b ∧ ((b.xlt.batches.find? fun y => y.slice == s && y.prg.isNone && (decide (64 ≤ y.pages.length) || decide (y.openFt + 1000 ≤ b.ft))) = some x) ∧ pagesAsked b x.fn + x.pages.length ≤ b.xlt.priAlloc ∧ (batchRecords x).length ≤ fqSlots (b.view s)) ∧
    -- prgResponse
    (∃ (b : Blk) (fn : Nat) (prg : Nat) (n : Nat) (x : Batch), unitOn pgXLT b ∧ ((b.xlt.batches.find? fun y => y.fn == fn && y.prg == some prg) = some x) ∧ n = 0) ∧
    -- prgResponse
    (∃ (b : Blk) (fn : Nat) (prg : Nat) (n : Nat) (x : Batch), unitOn pgXLT b ∧ ((b.xlt.batches.find? fun y => y.fn == fn && y.prg == some prg) = some x) ∧ n ≠ 0) :=
  ⟨⟨({ live with xlt := { live.xlt with atsWaits := [⟨0, 7, 0, false, .item 0⟩] } }), 0, 7, by decide +kernel, by decide +kernel⟩,
   ⟨({ live with xlt := { live.xlt with misses := [{ id := 0, slice := 0, dva := 0x10000, write := false, work := none, core := some 3 }] } }), 0, _, _, by decide +kernel, rfl, by decide +kernel, rfl⟩,
   ⟨live, by decide +kernel, by decide +kernel⟩,
   ⟨live, (.core 0), by decide +kernel, by decide +kernel⟩,
   ⟨({ live with xlt := { live.xlt with invals := [iv0] } }), 4, _, by decide +kernel, rfl, (fun y h => by cases h)⟩,
   ⟨({ live with ft := 8000, xlt := { live.xlt with invals := [iv0] } }), 3, _, by decide +kernel, rfl, by decide +kernel⟩,
   ⟨({ live with ft := 10000, xlt := { live.xlt with aborted := [(3, 0)] } }), 3, 0, by decide +kernel, by decide +kernel, by decide +kernel⟩,
   ⟨({ live with ft := 1000, xlt := { live.xlt with batches := [bt0] } }), 0, bt0, by decide +kernel, by decide +kernel, by decide +kernel, by decide +kernel⟩,
   ⟨({ live with xlt := { live.xlt with batches := [{ bt0 with prg := some 2 }] } }), 0, 2, 0, _, by decide +kernel, rfl, by decide +kernel⟩,
   ⟨({ live with xlt := { live.xlt with batches := [{ bt0 with prg := some 2 }] } }), 0, 2, 1, _, by decide +kernel, rfl, by decide +kernel⟩⟩

theorem witness_FaultQueueComplete :
    -- fqHeadWrite
    (∃ (b : Blk) (who : Who) (page : Nat) (w : W32) (t : Blk) (s : Nat), viewTakes who page s b t ∧ (bits w.toNat 0 12 + 4096 - (t.view s).fqHead) % 4096 ≤ ((t.view s).fqTail + 4096 - (t.view s).fqHead) % 4096) ∧
    -- fqEnWrite
    (∃ (b : Blk) (who : Who) (page : Nat) (w : W32) (t : Blk) (s : Nat), viewTakes who page s b t ∧ bit w.toNat 0 = true ∧ bit w.toNat 1 = false ∧ (t.view s).fqEn = false ∧ fqPlaced t s (t.view s).fqBase = true) ∧
    -- fqEnWrite
    (∃ (b : Blk) (who : Who) (page : Nat) (w : W32) (t : Blk) (s : Nat), viewTakes who page s b t ∧ bit w.toNat 0 = false ∧ bit w.toNat 1 = false) ∧
    -- hotNotice
    (∃ (b : Blk) (s : Nat) (n : Nat) (a : AccCtr), unitOn pgXLT b ∧ ((b.xlt.acc.find? fun x => x.slice == s && x.granule == n) = some a) ∧ (b.view s).hotThresh ≠ 0 ∧ (b.view s).hotThresh ≤ a.value ∧ a.noticed = false ∧ (b.view s).fqEn = true ∧ (b.view s).fqRoom = true) ∧
    -- accClear
    (∃ (b : Blk) (who : Who) (page : Nat) (w : W32) (t : Blk) (s : Nat), viewTakes who page s b t ∧ bit w.toNat 0 = true) ∧
    -- dirtyRecord
    (∃ (b : Blk) (s : Nat) (a : Nat) (d : Dirty) (e : HostEntry), unitOn pgXLT b ∧ b.xlt.dirty.get? s = some d ∧ hostEntry b s a = some e ∧ e.logged = false ∧ ringRoom d = true) ∧
    -- dirtyRecord
    (∃ (b : Blk) (s : Nat) (a : Nat) (d : Dirty), unitOn pgXLT b ∧ b.xlt.dirty.get? s = some d ∧ d.pendingBits.contains a = true) ∧
    -- dirtyRingHeadAdvance
    (∃ (b : Blk) (s : Nat) (n : Nat) (d : Dirty), unitOn pgXLT b ∧ b.xlt.dirty.get? s = some d ∧ n < 2 ^ d.ringLog2 ∧ (n + 2 ^ d.ringLog2 - d.head) % 2 ^ d.ringLog2 ≤ (d.tail + 2 ^ d.ringLog2 - d.head) % 2 ^ d.ringLog2) ∧
    -- mapPeer
    (∃ (b : Blk) (who : Who) (w : W32) (ext : ExtRead) (t : Blk) (u : Blk) (d : Bytes), unitTakes who pgXLT b t ∧ t.xlt.xbusy = false ∧ bits w.toNat 0 4 = 0 ∧ (u = t.xltU fun x => { x with xbusy := true }) ∧ paRead u u.xlt.xcmd 64 ext = .data d ∧ xFieldsOk u 0 d = true ∧ u.xlt.areaEn = true ∧ (rangesOf u (field d 0 2)).length < 1024 ∧ paChip (field d 0x10 8) ≠ u.chip ∧ 0x10000 ≤ field d 8 8 ∧ overlapsRange u (field d 0 2) (field d 8 8) (field d 0x18 8) = false ∧ field d 8 8 + field d 0x18 8 ≤ 2 ^ 56) ∧
    -- unmapPeer
    (∃ (b : Blk) (who : Who) (w : W32) (ext : ExtRead) (t : Blk) (u : Blk) (d : Bytes) (n : Nat) (r : Range), unitTakes who pgXLT b t ∧ t.xlt.xbusy = false ∧ bits w.toNat 0 4 = 1 ∧ (u = t.xltU fun x => { x with xbusy := true }) ∧ paRead u u.xlt.xcmd 64 ext = .data d ∧ xFieldsOk u 1 d = true ∧ (((rangesOf u (field d 0 2)).find? fun x => x.2.start == field d 8 8 && x.2.peer && x.2.valid) = some (n, r))) ∧
    -- dirtyStart
    (∃ (b : Blk) (who : Who) (w : W32) (ext : ExtRead) (t : Blk) (u : Blk) (d : Bytes), unitTakes who pgXLT b t ∧ t.xlt.xbusy = false ∧ bits w.toNat 0 4 = 2 ∧ (u = t.xltU fun x => { x with xbusy := true }) ∧ paRead u u.xlt.xcmd 64 ext = .data d ∧ xFieldsOk u 2 d = true ∧ u.xlt.dirty.has (field d 0 2) = false) ∧
    -- dirtyStop
    (∃ (b : Blk) (who : Who) (w : W32) (ext : ExtRead) (t : Blk) (u : Blk) (d : Bytes), unitTakes who pgXLT b t ∧ t.xlt.xbusy = false ∧ bits w.toNat 0 4 = 3 ∧ (u = t.xltU fun x => { x with xbusy := true }) ∧ paRead u u.xlt.xcmd 64 ext = .data d ∧ xFieldsOk u 3 d = true ∧ u.xlt.dirty.has (field d 0 2) = true) ∧
    -- dirtyRearm
    (∃ (b : Blk) (who : Who) (w : W32) (ext : ExtRead) (t : Blk) (u : Blk) (d : Bytes), unitTakes who pgXLT b t ∧ t.xlt.xbusy = false ∧ bits w.toNat 0 4 = 4 ∧ (u = t.xltU fun x => { x with xbusy := true }) ∧ paRead u u.xlt.xcmd 64 ext = .data d ∧ xFieldsOk u 4 d = true ∧ u.xlt.dirty.has (field d 0 2) = true) ∧
    -- invalSlice
    (∃ (b : Blk) (who : Who) (w : W32) (ext : ExtRead) (t : Blk) (u : Blk) (d : Bytes), unitTakes who pgXLT b t ∧ t.xlt.xbusy = false ∧ bits w.toNat 0 4 = 5 ∧ (u = t.xltU fun x => { x with xbusy := true }) ∧ paRead u u.xlt.xcmd 64 ext = .data d ∧ xFieldsOk u 5 d = true) ∧
    -- xltAreaWrite
    (∃ (b : Blk) (who : Who) (w : W32) (t : Blk), unitTakes who pgXLT b t ∧ (t.hdr pgXLT).locked = false ∧ bit w.toNat 0 = true) ∧
    -- xltAreaWrite
    (∃ (b : Blk) (who : Who) (t : Blk), unitTakes who pgXLT b t ∧ (t.hdr pgXLT).locked = false ∧ t.xlt.areaEn = false) ∧
    -- xltAreaWrite
    (∃ (b : Blk) (who : Who) (t : Blk), unitTakes who pgXLT b t ∧ (t.hdr pgXLT).locked = false ∧ t.xlt.areaEn = false) :=
  ⟨⟨({ live with views := [(0, { fqTail := 5, fqHead := 2 })] }), man, 0, 5#32, _, 0, ⟨⟨rfl, by decide +kernel⟩, by decide +kernel⟩, by decide +kernel⟩,
   ⟨({ live with views := [(0, { fqBase := 2 ^ 56 })] }), man, 0, 1#32, _, 0, ⟨⟨rfl, by decide +kernel⟩, by decide +kernel⟩, by decide +kernel, by decide +kernel, by decide +kernel, by decide +kernel⟩,
   ⟨live, man, 0, 0#32, _, 0, ⟨⟨rfl, by decide +kernel⟩, by decide +kernel⟩, by decide +kernel, by decide +kernel⟩,
   ⟨({ live with views := [(0, { hotThresh := 4, fqEn := true })], xlt := { live.xlt with acc := [⟨0, 0x8000, 4, false, 0, false⟩] } }), 0, 0x8000, _, by decide +kernel, rfl, by decide +kernel, by decide +kernel, by decide +kernel, by decide +kernel, by decide +kernel⟩,
   ⟨live, man, 0, 1#32, _, 0, ⟨⟨rfl, by decide +kernel⟩, by decide +kernel⟩, by decide +kernel⟩,
   ⟨({ live with xlt := { live.xlt with dirty := [(0, dy0)], hostCache := [⟨0, 0, 5, 0x5000, 0x9000, 0, true, true, false⟩] } }), 0, 5, dy0, _, by decide +kernel, by decide +kernel, rfl, by decide +kernel, by decide +kernel⟩,
   ⟨({ live with xlt := { live.xlt with dirty := [(0, { dy0 with pendingBits := [0x8000] })] } }), 0, 0x8000, _, by decide +kernel, rfl, by decide +kernel⟩,
   ⟨({ live with xlt := { live.xlt with dirty := [(0, { dy0 with tail := 5 })] } }), 0, 5, ({ dy0 with tail := 5 }), by decide +kernel, by decide +kernel, by decide +kernel, by decide +kernel⟩,
   ⟨(xcmd (z 8 ++ leBytes 8 0x50000 ++ leBytes 8 (2 ^ 48) ++ leBytes 8 0x10000 ++ z 32)), man, 0#32, .poisoned, _, _, _, ⟨rfl, by decide +kernel⟩, by decide +kernel, by decide +kernel, rfl, rfl, by decide +kernel, by decide +kernel, by decide +kernel, by decide +kernel, by decide +kernel, by decide +kernel, by decide +kernel⟩,
   ⟨({ xcmd (z 8 ++ leBytes 8 0x50000 ++ z 48) with xlt := { live.xlt with xcmd := 0x80000000, ranges := [(0, [(0, rg0), (3, ⟨0x50000, 0x10000, 2 ^ 48, 0, false, true, true⟩)])] } }), man, 1#32, .poisoned, _, _, _, _, _, ⟨rfl, by decide +kernel⟩, by decide +kernel, by decide +kernel, rfl, rfl, by decide +kernel, rfl⟩,
   ⟨(xcmd (z 32 ++ leBytes 8 0x90000000 ++ leBytes 8 0x90100000 ++ leBytes 8 0x90200000 ++ [8] ++ z 7)), man, 2#32, .poisoned, _, _, _, ⟨rfl, by decide +kernel⟩, by decide +kernel, by decide +kernel, rfl, rfl, by decide +kernel, by decide +kernel⟩,
   ⟨({ xcmd (z 64) with xlt := { live.xlt with xcmd := 0x80000000, dirty := [(0, dy0)] } }), man, 3#32, .poisoned, _, _, _, ⟨rfl, by decide +kernel⟩, by decide +kernel, by decide +kernel, rfl, rfl, by decide +kernel, by decide +kernel⟩,
   ⟨({ xcmd (z 64) with xlt := { live.xlt with xcmd := 0x80000000, dirty := [(0, dy0)] } }), man, 4#32, .poisoned, _, _, _, ⟨rfl, by decide +kernel⟩, by decide +kernel, by decide +kernel, rfl, rfl, by decide +kernel, by decide +kernel⟩,
   ⟨(xcmd (z 64)), man, 5#32, .poisoned, _, _, _, ⟨rfl, by decide +kernel⟩, by decide +kernel, by decide +kernel, rfl, rfl, by decide +kernel⟩,
   ⟨up, man, 1#32, _, ⟨rfl, by decide +kernel⟩, by decide +kernel, by decide +kernel⟩,
   ⟨up, man, _, ⟨rfl, by decide +kernel⟩, by decide +kernel, by decide +kernel⟩,
   ⟨up, man, _, ⟨rfl, by decide +kernel⟩, by decide +kernel, by decide +kernel⟩⟩

theorem witness_PartitionCommandsComplete :
    -- createPartition
    (∃ (b : Blk) (who : Who) (w : W32) (ext : ExtRead) (t : Blk) (u : Blk) (d : Bytes), unitTakes who pgCTX b t ∧ t.ctx.busy = false ∧ t.ctx.tablesEn = true ∧ bits w.toNat 0 4 = 0 ∧ (u = t.ctxU fun x => { x with busy := true }) ∧ paRead u u.ctx.cmd 64 ext = .data d ∧ cFieldsOk 0 d = true ∧ zeroSpan d 0x30 16 = true ∧ field d 0x2C 2 ≤ 12288 ∧ field d 0x2E 2 ≤ 320 ∧ u.partitions.length < 64 ∧ shareSum u (·.hbmShare) + field d 0x28 4 ≤ hbmTotal ∧ shareSum u (·.spShare) + field d 0x2C 2 ≤ spTotal u ∧ shareSum u (·.storeBlocks) + field d 0x2E 2 ≤ blockTotal u ∧ u.partitions.has (cNumber u.partitions d) = false ∧ ((u.partitions.any fun e => e.2.mask &&& BitVec.ofNat 64 (field d 0x20 8) != 0) = false)) ∧
    -- destroyPartition
    (∃ (b : Blk) (who : Who) (w : W32) (ext : ExtRead) (t : Blk) (u : Blk) (d : Bytes), unitTakes who pgCTX b t ∧ t.ctx.busy = false ∧ t.ctx.tablesEn = true ∧ bits w.toNat 0 4 = 1 ∧ (u = t.ctxU fun x => { x with busy := true }) ∧ paRead u u.ctx.cmd 64 ext = .data d ∧ cFieldsOk 1 d = true ∧ u.partitions.has (field d 0 2) = true ∧ ((u.slices.any fun e => e.2.part == field d 0 2) = false)) ∧
    -- createSlice
    (∃ (b : Blk) (who : Who) (w : W32) (ext : ExtRead) (t : Blk) (u : Blk) (d : Bytes), unitTakes who pgCTX b t ∧ t.ctx.busy = false ∧ t.ctx.tablesEn = true ∧ bits w.toNat 0 4 = 2 ∧ (u = t.ctxU fun x => { x with busy := true }) ∧ paRead u u.ctx.cmd 64 ext = .data d ∧ cFieldsOk 2 d = true ∧ sliceImageOk u d = true ∧ u.slices.length < 4096 ∧ ((sliceOf d).fn = 0 ∨ (u.slices.count fun _ e => e.fn == (sliceOf d).fn) < 256) ∧ (u.slices.has 0 = true ∨ cNumber u.slices d = 0) ∧ u.slices.has (cNumber u.slices d) = false ∧ identityOk u (cNumber u.slices d) (sliceOf d) = true) ∧
    -- modifySlice
    (∃ (b : Blk) (who : Who) (w : W32) (ext : ExtRead) (t : Blk) (u : Blk) (d : Bytes) (sl : Slice), unitTakes who pgCTX b t ∧ t.ctx.busy = false ∧ t.ctx.tablesEn = true ∧ bits w.toNat 0 4 = 3 ∧ (u = t.ctxU fun x => { x with busy := true }) ∧ paRead u u.ctx.cmd 64 ext = .data d ∧ cFieldsOk 3 d = true ∧ sliceImageOk u d = true ∧ u.slices.get? (field d 0 2) = some sl ∧ sl.draining = false ∧ sl.fn = (sliceOf d).fn ∧ sl.pasid = (sliceOf d).pasid ∧ sl.localIdx = (sliceOf d).localIdx ∧ sl.part = (sliceOf d).part) ∧
    -- destroySlice
    (∃ (b : Blk) (who : Who) (w : W32) (ext : ExtRead) (t : Blk) (u : Blk) (d : Bytes) (sl : Slice), unitTakes who pgCTX b t ∧ t.ctx.busy = false ∧ t.ctx.tablesEn = true ∧ bits w.toNat 0 4 = 4 ∧ (u = t.ctxU fun x => { x with busy := true }) ∧ paRead u u.ctx.cmd 64 ext = .data d ∧ cFieldsOk 4 d = true ∧ u.slices.get? (field d 0 2) = some sl ∧ sl.draining = false ∧ (field d 0 2 ≠ 0 ∨ u.slices.length = 1)) ∧
    -- grant
    (∃ (b : Blk) (who : Who) (w : W32) (ext : ExtRead) (t : Blk) (u : Blk) (d : Bytes) (pt : Partition), unitTakes who pgCTX b t ∧ t.ctx.busy = false ∧ t.ctx.tablesEn = true ∧ bits w.toNat 0 4 = 5 ∧ (u = t.ctxU fun x => { x with busy := true }) ∧ paRead u u.ctx.cmd 64 ext = .data d ∧ cFieldsOk 5 d = true ∧ sliceActive u (field d 4 2) = true ∧ u.partitions.get? (slicePart u (field d 4 2)) = some pt ∧ (if field d 3 1 = 0 then pt.hbmGranted + field d 0x10 4 ≤ pt.hbmShare else pt.spGranted + field d 0x10 4 ≤ pt.spShare) ∧ pagesFree u (field d 3 1) (field d 8 8 / 65536) (field d 0x10 4) = true) ∧
    -- reclaim
    (∃ (b : Blk) (who : Who) (w : W32) (ext : ExtRead) (t : Blk) (u : Blk) (d : Bytes), unitTakes who pgCTX b t ∧ t.ctx.busy = false ∧ t.ctx.tablesEn = true ∧ bits w.toNat 0 4 = 6 ∧ (u = t.ctxU fun x => { x with busy := true }) ∧ paRead u u.ctx.cmd 64 ext = .data d ∧ cFieldsOk 6 d = true ∧ sliceActive u (field d 4 2) = true ∧ field d 0x10 4 ≤ u.own.owner.length ∧ (((pageSpan (field d 3 1) (field d 8 8 / 65536) (field d 0x10 4)).all fun g => u.own.owner.get? g == some (field d 4 2) && !coveredBy u (field d 4 2) g) = true)) :=
  ⟨⟨({ ccmd (leBytes 2 1 ++ z 30 ++ leBytes 8 2 ++ leBytes 4 100 ++ leBytes 2 100 ++ z 18) with partitions := [(0, { pt0 with storeBlocks := 0 })] }), man, 0#32, .poisoned, _, _, _, ⟨rfl, by decide +kernel⟩, by decide +kernel, by decide +kernel, by decide +kernel, rfl, rfl, by decide +kernel, by decide +kernel, by decide +kernel, by decide +kernel, by decide +kernel, by decide +kernel, by decide +kernel, by decide +kernel, by decide +kernel, by decide +kernel⟩,
   ⟨({ ccmd (leBytes 2 1 ++ z 62) with partitions := [(0, pt0), (1, { pt0 with mask := 2 })] }), man, 1#32, .poisoned, _, _, _, ⟨rfl, by decide +kernel⟩, by decide +kernel, by decide +kernel, by decide +kernel, rfl, rfl, by decide +kernel, by decide +kernel, by decide +kernel⟩,
   ⟨(ccmd (leBytes 2 1 ++ z 30 ++ image 6)), man, 2#32, .poisoned, _, _, _, ⟨rfl, by decide +kernel⟩, by decide +kernel, by decide +kernel, by decide +kernel, rfl, rfl, by decide +kernel, by decide +kernel, by decide +kernel, by decide +kernel, by decide +kernel, by decide +kernel, by decide +kernel⟩,
   ⟨(ccmd (z 32 ++ image 5)), man, 3#32, .poisoned, _, _, _, _, ⟨rfl, by decide +kernel⟩, by decide +kernel, by decide +kernel, by decide +kernel, rfl, rfl, by decide +kernel, by decide +kernel, rfl, by decide +kernel, by decide +kernel, by decide +kernel, by decide +kernel, by decide +kernel⟩,
   ⟨(ccmd (z 64)), man, 4#32, .poisoned, _, _, _, _, ⟨rfl, by decide +kernel⟩, by decide +kernel, by decide +kernel, by decide +kernel, rfl, rfl, by decide +kernel, rfl, by decide +kernel, by decide +kernel⟩,
   ⟨(ccmd (z 8 ++ leBytes 8 (2 ^ 36) ++ leBytes 4 1 ++ z 44)), man, 5#32, .poisoned, _, _, _, _, ⟨rfl, by decide +kernel⟩, by decide +kernel, by decide +kernel, by decide +kernel, rfl, rfl, by decide +kernel, by decide +kernel, rfl, by decide +kernel, by decide +kernel⟩,
   ⟨(ccmd (z 8 ++ leBytes 8 0x1F0000000 ++ leBytes 4 1 ++ z 44)), man, 6#32, .poisoned, _, _, _, ⟨rfl, by decide +kernel⟩, by decide +kernel, by decide +kernel, by decide +kernel, rfl, rfl, by decide +kernel, by decide +kernel, by decide +kernel, by decide +kernel⟩⟩

theorem witness_ContextCommandsComplete :
    -- createContext
    (∃ (b : Blk) (who : Who) (w : W32) (ext : ExtRead) (t : Blk) (u : Blk) (d : Bytes), unitTakes who pgCTX b t ∧ t.ctx.busy = false ∧ t.ctx.tablesEn = true ∧ bits w.toNat 0 4 = 7 ∧ (u = t.ctxU fun x => { x with busy := true }) ∧ paRead u u.ctx.cmd 64 ext = .data d ∧ cFieldsOk 7 d = true ∧ contextRefused u (field d 4 2) = none ∧ u.contexts.has (cNumber u.contexts d) = false ∧ saveAreaOk u (field d 4 2) (field d 8 8) = true) ∧
    -- destroyContext
    (∃ (b : Blk) (who : Who) (w : W32) (ext : ExtRead) (t : Blk) (u : Blk) (d : Bytes) (e : Context), unitTakes who pgCTX b t ∧ t.ctx.busy = false ∧ t.ctx.tablesEn = true ∧ bits w.toNat 0 4 = 8 ∧ (u = t.ctxU fun x => { x with busy := true }) ∧ paRead u u.ctx.cmd 64 ext = .data d ∧ cFieldsOk 8 d = true ∧ u.contexts.get? (field d 0 2) = some e ∧ e.state ≠ .destroying ∧ e.destroyNext = none) ∧
    -- pinContext
    (∃ (b : Blk) (who : Who) (w : W32) (ext : ExtRead) (t : Blk) (u : Blk) (d : Bytes) (e : Context), unitTakes who pgCTX b t ∧ t.ctx.busy = false ∧ t.ctx.tablesEn = true ∧ bits w.toNat 0 4 = 9 ∧ (u = t.ctxU fun x => { x with busy := true }) ∧ paRead u u.ctx.cmd 64 ext = .data d ∧ cFieldsOk 9 d = true ∧ u.contexts.get? (field d 0 2) = some e ∧ e.state ≠ .destroying ∧ (e.pinned = true ∨ pinnedCount u < 2048)) ∧
    -- unpinContext
    (∃ (b : Blk) (who : Who) (w : W32) (ext : ExtRead) (t : Blk) (u : Blk) (d : Bytes) (e : Context), unitTakes who pgCTX b t ∧ t.ctx.busy = false ∧ t.ctx.tablesEn = true ∧ bits w.toNat 0 4 = 10 ∧ (u = t.ctxU fun x => { x with busy := true }) ∧ paRead u u.ctx.cmd 64 ext = .data d ∧ cFieldsOk 10 d = true ∧ u.contexts.get? (field d 0 2) = some e ∧ e.state ≠ .destroying) ∧
    -- viewContextCreate
    (∃ (b : Blk) (who : Who) (page : Nat) (w : W32) (t : Blk) (s : Nat), viewTakes who page s b t ∧ (t.view s).vBusy = false ∧ bit w.toNat 0 = false ∧ contextRefused t s = none ∧ saveAreaOk t s (t.view s).save = true) ∧
    -- viewContextDestroy
    (∃ (b : Blk) (who : Who) (page : Nat) (w : W32) (t : Blk) (s : Nat) (e : Context), viewTakes who page s b t ∧ (t.view s).vBusy = false ∧ bit w.toNat 0 = true ∧ t.contexts.get? (bits w.toNat 16 16) = some e ∧ e.slice = s ∧ e.state ≠ .destroying ∧ e.destroyNext = none) ∧
    -- ctxTablesWrite
    (∃ (b : Blk) (who : Who) (w : W32) (t : Blk), unitTakes who pgCTX b t ∧ (t.hdr pgCTX).locked = false ∧ bit w.toNat 0 = true ∧ 6 ≤ t.ctx.tdLog2 ∧ t.ctx.tdLog2 ≤ 16) ∧
    -- ctxTablesWrite
    (∃ (b : Blk) (who : Who) (t : Blk), unitTakes who pgCTX b t ∧ (t.hdr pgCTX).locked = false ∧ t.ctx.tablesEn = false) ∧
    -- ctxTablesWrite
    (∃ (b : Blk) (who : Who) (t : Blk), unitTakes who pgCTX b t ∧ (t.hdr pgCTX).locked = false ∧ t.ctx.tablesEn = false) ∧
    -- tdHeadWrite
    (∃ (b : Blk) (who : Who) (w : W32) (t : Blk) (u : Blk), unitTakes who pgCTX b t ∧ bits w.toNat 0 16 < 2 ^ t.ctx.tdLog2 ∧ (bits w.toNat 0 16 + 2 ^ t.ctx.tdLog2 - t.ctx.tdHead % 2 ^ t.ctx.tdLog2) % 2 ^ t.ctx.tdLog2 ≤ (t.ctx.tdTail + 2 ^ t.ctx.tdLog2 - t.ctx.tdHead % 2 ^ t.ctx.tdLog2) % 2 ^ t.ctx.tdLog2 ∧ (u = t.ctxU fun x => { x with tdHead := bits w.toNat 0 16 })) ∧
    -- spillDone
    (∃ (b : Blk) (n : Nat) (e : Context) (k : Nat) (a : Nat) (a2 : Nat) (u : Blk), unitOn pgCTX b ∧ b.contexts.get? n = some e ∧ e.state = .spilling ∧ e.slot = some k ∧ (u = putSpill n (b.updContext n fun x => { x with state := .defined, slot := none })) ∧ ((u.ctx.pairs.find? fun x => x.2 == n + 1) = some (a, a2))) ∧
    -- restoreDone
    (∃ (b : Blk) (n : Nat) (e : Context), unitOn pgCTX b ∧ b.contexts.get? n = some e ∧ e.state = .restoring) ∧
    -- admissionServe
    (∃ (b : Blk) (n : Nat) (rest : Nats), unitOn pgCTX b ∧ b.ctx.admitQ = n :: rest ∧ ((freeSlot b).isSome = true ∨ (victim b).isSome = true)) :=
  ⟨⟨(ccmd (leBytes 2 1 ++ z 6 ++ leBytes 8 (2 ^ 56) ++ z 48)), man, 7#32, .poisoned, _, _, _, ⟨rfl, by decide +kernel⟩, by decide +kernel, by decide +kernel, by decide +kernel, rfl, rfl, by decide +kernel, by decide +kernel, by decide +kernel, by decide +kernel⟩,
   ⟨(ccmd (z 64)), man, 8#32, .poisoned, _, _, _, _, ⟨rfl, by decide +kernel⟩, by decide +kernel, by decide +kernel, by decide +kernel, rfl, rfl, by decide +kernel, rfl, by decide +kernel, by decide +kernel⟩,
   ⟨(ccmd (z 64)), man, 9#32, .poisoned, _, _, _, _, ⟨rfl, by decide +kernel⟩, by decide +kernel, by decide +kernel, by decide +kernel, rfl, rfl, by decide +kernel, rfl, by decide +kernel, by decide +kernel⟩,
   ⟨(ccmd (z 64)), man, 10#32, .poisoned, _, _, _, _, ⟨rfl, by decide +kernel⟩, by decide +kernel, by decide +kernel, by decide +kernel, rfl, rfl, by decide +kernel, rfl, by decide +kernel⟩,
   ⟨({ live with views := [(0, { save := 2 ^ 56 })] }), man, 0, 0#32, _, 0, ⟨⟨rfl, by decide +kernel⟩, by decide +kernel⟩, by decide +kernel, by decide +kernel, by decide +kernel, by decide +kernel⟩,
   ⟨live, man, 0, 1#32, _, 0, _, ⟨⟨rfl, by decide +kernel⟩, by decide +kernel⟩, by decide +kernel, by decide +kernel, rfl, by decide +kernel, by decide +kernel, by decide +kernel⟩,
   ⟨({ up with ctx := { tdLog2 := 6 } }), man, 1#32, _, ⟨rfl, by decide +kernel⟩, by decide +kernel, by decide +kernel, by decide +kernel, by decide +kernel⟩,
   ⟨up, man, _, ⟨rfl, by decide +kernel⟩, by decide +kernel, by decide +kernel⟩,
   ⟨up, man, _, ⟨rfl, by decide +kernel⟩, by decide +kernel, by decide +kernel⟩,
   ⟨up, man, 0#32, _, _, ⟨rfl, by decide +kernel⟩, by decide +kernel, by decide +kernel, rfl⟩,
   ⟨({ live with ctx := { live.ctx with pairs := [(9, 1)] }, contexts := [(0, { cx0 with state := .spilling })] }), 0, _, _, _, _, _, by decide +kernel, rfl, by decide +kernel, rfl, rfl, rfl⟩,
   ⟨({ live with contexts := [(0, { cx0 with state := .restoring })] }), 0, _, by decide +kernel, rfl, by decide +kernel⟩,
   ⟨({ live with ctx := { live.ctx with admitQ := [0] } }), 0, _, by decide +kernel, rfl, by decide +kernel⟩⟩

theorem witness_EngineEventsComplete :
    -- treItemAssign
    (∃ (b : Blk) (n : Nat) (wk : Work) (k : Nat), unitOn pgTRE b ∧ intakeNext b = some n ∧ b.tre.works.get? n = some wk ∧ engineFor b wk = some k) ∧
    -- treChunkDone
    (∃ (b : Blk) (n : Nat), unitOn pgTRE b ∧ n < 32 ∧ b.tre.up.getLsbD n = true) ∧
    -- treFailure
    (∃ (b : Blk) (n : Nat), unitOn pgTRE b ∧ n < 32 ∧ b.tre.up.getLsbD n = true) ∧
    -- stageChunkExpiry
    (∃ (b : Blk), unitOn pgTRE b ∧ ((b.tre.staging.any fun c => decide (c.atFt + 20000 ≤ b.ft)) = true)) ∧
    -- collPeerTimeout
    (∃ (b : Blk) (n : Nat) (c : Coll) (k : Nat), unitOn pgTRE b ∧ b.tre.colls.get? n = some c ∧ c.ended = false ∧ lateRank b c = some k) ∧
    -- gcreate
    (∃ (b : Blk) (who : Who) (w : W32) (ext : ExtRead) (t : Blk) (u : Blk) (d : Bytes) (bytes : Bytes), unitTakes who pgTRE b t ∧ t.tre.gbusy = false ∧ bits w.toNat 0 2 = 0 ∧ (u = t.treU fun x => { x with gbusy := true }) ∧ paRead u u.tre.gcmd 64 ext = .data d ∧ groupFieldsOk u d = true ∧ u.tre.groups.has (field d 0 2) = false ∧ paRead u (field d 0x10 8) (2 * field d 4 2) (.data []) = .data bytes ∧ (membersOk u d ((List.range (field d 4 2)).map fun i => field bytes (2 * i) 2) = true)) ∧
    -- gdestroy
    (∃ (b : Blk) (who : Who) (w : W32) (ext : ExtRead) (t : Blk) (u : Blk) (d : Bytes), unitTakes who pgTRE b t ∧ t.tre.gbusy = false ∧ bits w.toNat 0 2 = 1 ∧ (u = t.treU fun x => { x with gbusy := true }) ∧ paRead u u.tre.gcmd 64 ext = .data d ∧ u.tre.groups.has (field d 0 2) = true ∧ groupInUse u (field d 0 2) = false) :=
  ⟨⟨({ withItem (entry 2 []) with tre := { works := [(0, wk0)], intake := [0] } }), 0, wk0, 0, by decide +kernel, by decide +kernel, by decide +kernel, by decide +kernel⟩,
   ⟨up, 0, by decide +kernel, by decide +kernel, by decide +kernel⟩,
   ⟨up, 0, by decide +kernel, by decide +kernel, by decide +kernel⟩,
   ⟨({ up with ft := 20000, tre := { staging := [⟨pk 0x20 2 64, 0⟩] } }), by decide +kernel, by decide +kernel⟩,
   ⟨({ withItem (entry 4 []) with tre := { colls := [(0, { itemColl 0 (item (entry 4 [])) gp0 with timers := [(1, 0)] })] } }), 0, _, 1, by decide +kernel, rfl, by decide +kernel, by decide +kernel⟩,
   ⟨({ withMem (leBytes 2 1 ++ z 2 ++ leBytes 2 2 ++ z 10 ++ leBytes 8 0x80000040 ++ z 40 ++ [0, 0, 1, 0]) live with tre := { gcmd := 0x80000000 } }), man, 0#32, .poisoned, _, _, _, _, ⟨rfl, by decide +kernel⟩, by decide +kernel, by decide +kernel, rfl, rfl, by decide +kernel, by decide +kernel, rfl, by decide +kernel⟩,
   ⟨({ withMem (z 64) live with tre := { gcmd := 0x80000000, groups := [(0, gp0)] } }), man, 1#32, .poisoned, _, _, _, ⟨rfl, by decide +kernel⟩, by decide +kernel, by decide +kernel, rfl, rfl, by decide +kernel, by decide +kernel⟩⟩

theorem witness_ModelStoreComplete :
    -- modelBlockLoaded
    (∃ (b : Blk) (n : Nat) (wk : Work) (k : Nat) (m : Model), unitOn pgMDL b ∧ b.tre.works.get? n = some wk ∧ wk.owner = .load k ∧ b.mdl.models.get? k = some m ∧ m.state = .loading ∧ m.loaded < wk.next / 2097152) ∧
    -- modelStoreError
    (∃ (b : Blk), unitOn pgMDL b ∧ b.mdl.storeEn = true) ∧
    -- modelStoreError
    (∃ (b : Blk), unitOn pgMDL b ∧ b.mdl.storeEn = true) ∧
    -- modelPieceReloaded
    (∃ (b : Blk) (n : Nat) (k : Nat) (a : Nat) (m : Model), unitOn pgMDL b ∧ repairedWork b n k = some a ∧ b.mdl.models.get? n = some m) ∧
    -- storeConfigWrite
    (∃ (b : Blk) (who : Who) (w : W32) (t : Blk), unitTakes who pgMDL b t ∧ (t.hdr pgMDL).locked = false ∧ t.mdl.storeEn = false ∧ bits w.toNat 0 6 ≤ 54 ∧ bits w.toNat 16 9 ≤ 320) ∧
    -- storeConfigWrite
    (∃ (b : Blk) (who : Who) (w : W32) (t : Blk), unitTakes who pgMDL b t ∧ (t.hdr pgMDL).locked = false ∧ t.mdl.storeEn = false ∧ bit w.toNat 0 = true ∧ storeFits t = true) :=
  ⟨⟨({ live with tre := { works := [(0, { wk0 with owner := .load 0, next := 2097152 })] }, mdl := { models := [(0, { md0 with state := .loading })] } }), 0, _, _, _, by decide +kernel, rfl, rfl, rfl, by decide +kernel, by decide +kernel⟩,
   ⟨({ up with mdl := { storeEn := true } }), by decide +kernel, by decide +kernel⟩,
   ⟨({ up with mdl := { storeEn := true } }), by decide +kernel, by decide +kernel⟩,
   ⟨({ live with tre := { works := [(0, { wk0 with owner := .repair 0 5, next := 64 })] }, mdl := { models := [(0, { md0 with state := .repairing, lost := [5] })] } }), 0, 5, _, _, by decide +kernel, rfl, rfl⟩,
   ⟨up, man, 0#32, _, ⟨rfl, by decide +kernel⟩, by decide +kernel, by decide +kernel, by decide +kernel, by decide +kernel⟩,
   ⟨up, man, 1#32, _, ⟨rfl, by decide +kernel⟩, by decide +kernel, by decide +kernel, by decide +kernel, by decide +kernel⟩⟩

theorem witness_RequestPacketsComplete :
    -- remoteWrReceive
    (∃ (b : Blk) (n : Nat) (pk : Pkt) (u : Blk) (v : Blk), pk.typ = 0x01 ∧ requestArrives n pk b u v) ∧
    -- remoteRdReceive
    (∃ (b : Blk) (n : Nat) (pk : Pkt) (u : Blk) (v : Blk), pk.typ = 0x02 ∧ requestArrives n pk b u v) ∧
    -- remoteAtReceive
    (∃ (b : Blk) (n : Nat) (pk : Pkt) (u : Blk) (v : Blk), pk.typ = 0x03 ∧ requestArrives n pk b u v) ∧
    -- fsigReceive
    (∃ (b : Blk) (n : Nat) (pk : Pkt) (u : Blk) (v : Blk), pk.typ = 0x04 ∧ requestArrives n pk b u v) ∧
    -- planReceive
    (∃ (b : Blk) (n : Nat) (pk : Pkt) (u : Blk) (v : Blk), pk.typ = 0x05 ∧ requestArrives n pk b u v) ∧
    -- readyReceive
    (∃ (b : Blk) (n : Nat) (pk : Pkt) (u : Blk) (v : Blk), pk.typ = 0x06 ∧ requestArrives n pk b u v) ∧
    -- leaveReceive
    (∃ (b : Blk) (n : Nat) (pk : Pkt) (u : Blk) (v : Blk), pk.typ = 0x07 ∧ requestArrives n pk b u v) ∧
    -- sessionReceive
    (∃ (b : Blk) (n : Nat) (pk : Pkt) (u : Blk), pk.typ = 0x08 ∧ dataArrives n pk b u) :=
  ⟨⟨link, 0, (pk 1 0 4), _, _, by decide +kernel, ⟨⟨by decide +kernel, by decide +kernel, by decide +kernel, by decide +kernel, by decide +kernel, rfl⟩, by decide +kernel, rfl⟩⟩,
   ⟨link, 0, ({ pk 2 0 16 with payload := leBytes 4 8 ++ z 12 }), _, _, by decide +kernel, ⟨⟨by decide +kernel, by decide +kernel, by decide +kernel, by decide +kernel, by decide +kernel, rfl⟩, by decide +kernel, rfl⟩⟩,
   ⟨link, 0, ({ pk 3 0 32 with payload := [0, 8] ++ z 30 }), _, _, by decide +kernel, ⟨⟨by decide +kernel, by decide +kernel, by decide +kernel, by decide +kernel, by decide +kernel, rfl⟩, by decide +kernel, rfl⟩⟩,
   ⟨link, 0, (pk 4 0 48), _, _, by decide +kernel, ⟨⟨by decide +kernel, by decide +kernel, by decide +kernel, by decide +kernel, by decide +kernel, rfl⟩, by decide +kernel, rfl⟩⟩,
   ⟨link, 0, (pk 5 0 8), _, _, by decide +kernel, ⟨⟨by decide +kernel, by decide +kernel, by decide +kernel, by decide +kernel, by decide +kernel, rfl⟩, by decide +kernel, rfl⟩⟩,
   ⟨link, 0, (pk 6 0 0), _, _, by decide +kernel, ⟨⟨by decide +kernel, by decide +kernel, by decide +kernel, by decide +kernel, by decide +kernel, rfl⟩, by decide +kernel, rfl⟩⟩,
   ⟨link, 0, (pk 7 0 0), _, _, by decide +kernel, ⟨⟨by decide +kernel, by decide +kernel, by decide +kernel, by decide +kernel, by decide +kernel, rfl⟩, by decide +kernel, rfl⟩⟩,
   ⟨link, 0, (pk 8 0 16), _, by decide +kernel, ⟨by decide +kernel, by decide +kernel, by decide +kernel, by decide +kernel, by decide +kernel, rfl⟩⟩⟩

theorem witness_ResponsePacketsComplete :
    -- remoteWriteAck
    (∃ (b : Blk) (n : Nat) (pk : Pkt) (u : Blk), pk.typ = 0x10 ∧ dataArrives n pk b u) ∧
    -- responseReceive
    (∃ (b : Blk) (n : Nat) (pk : Pkt) (u : Blk), pk.typ = 0x11 ∧ dataArrives n pk b u) ∧
    -- responseReceive
    (∃ (b : Blk) (n : Nat) (pk : Pkt) (u : Blk), pk.typ = 0x12 ∧ dataArrives n pk b u) ∧
    -- fackReceive
    (∃ (b : Blk) (n : Nat) (pk : Pkt) (u : Blk), pk.typ = 0x13 ∧ dataArrives n pk b u) ∧
    -- collChunkReceive
    (∃ (b : Blk) (n : Nat) (pk : Pkt) (u : Blk), pk.typ = 0x20 ∧ bit (field pk.spec 0xF 1) 6 = false ∧ dataArrives n pk b u) ∧
    -- collRreqReceive
    (∃ (b : Blk) (n : Nat) (pk : Pkt) (u : Blk), pk.typ = 0x20 ∧ bit (field pk.spec 0xF 1) 6 = true ∧ dataArrives n pk b u) ∧
    -- txnGapTimeout
    (∃ (b : Blk), linkOn b) :=
  ⟨⟨link, 0, (pk 0x10 1 0), _, by decide +kernel, ⟨by decide +kernel, by decide +kernel, by decide +kernel, by decide +kernel, by decide +kernel, rfl⟩⟩,
   ⟨link, 0, (pk 0x11 1 4), _, by decide +kernel, ⟨by decide +kernel, by decide +kernel, by decide +kernel, by decide +kernel, by decide +kernel, rfl⟩⟩,
   ⟨link, 0, (pk 0x12 1 8), _, by decide +kernel, ⟨by decide +kernel, by decide +kernel, by decide +kernel, by decide +kernel, by decide +kernel, rfl⟩⟩,
   ⟨link, 0, (pk 0x13 1 32), _, by decide +kernel, ⟨by decide +kernel, by decide +kernel, by decide +kernel, by decide +kernel, by decide +kernel, rfl⟩⟩,
   ⟨link, 0, (pk 0x20 2 64), _, by decide +kernel, by decide +kernel, ⟨by decide +kernel, by decide +kernel, by decide +kernel, by decide +kernel, by decide +kernel, rfl⟩⟩,
   ⟨link, 0, ({ pk 0x20 2 64 with spec := z 15 ++ [0x40] }), _, by decide +kernel, by decide +kernel, ⟨by decide +kernel, by decide +kernel, by decide +kernel, by decide +kernel, by decide +kernel, rfl⟩⟩,
   ⟨up, by decide +kernel⟩⟩

theorem witness_LinkPacketsComplete :
    -- kiteReceive
    (∃ (b : Blk) (n : Nat) (pk : Pkt) (u : Blk), pk.typ = 0x30 ∧ controlArrives n pk b u) ∧
    -- creditReceive
    (∃ (b : Blk) (n : Nat) (pk : Pkt) (u : Blk), pk.typ = 0x31 ∧ controlArrives n pk b u ∧ portActive u n = true) ∧
    -- lackReceive
    (∃ (b : Blk) (n : Nat) (pk : Pkt) (u : Blk), pk.typ = 0x32 ∧ controlArrives n pk b u) ∧
    -- retryReceive
    (∃ (b : Blk) (n : Nat) (pk : Pkt) (u : Blk), pk.typ = 0x33 ∧ controlArrives n pk b u) ∧
    -- laneReceive
    (∃ (b : Blk) (n : Nat) (pk : Pkt) (u : Blk), pk.typ = 0x34 ∧ controlArrives n pk b u) ∧
    -- codewordReceive
    (∃ (b : Blk) (n : Nat) (cw : Codeword), linkOn b ∧ kitePort (b.port n) = true ∧ cw.badSymbols ≤ 15 ∧ cw.marker = none ∧ cw.seq = (b.port n).rxSeq) ∧
    -- codewordReceive
    (∃ (b : Blk) (n : Nat) (cw : Codeword) (mk : Marker), linkOn b ∧ kitePort (b.port n) = true ∧ cw.badSymbols ≤ 15 ∧ cw.marker = some mk) ∧
    -- keychkReceive
    (∃ (b : Blk) (n : Nat) (cipher : Bytes) (tag : Bytes), linkOn b ∧ (b.port n).state = .key ∧ keychkPasses b n cipher tag = true) ∧
    -- keychkReceive
    (∃ (b : Blk) (n : Nat) (cipher : Bytes) (tag : Bytes), linkOn b ∧ (b.port n).state = .key ∧ keychkPasses b n cipher tag = false) :=
  ⟨⟨link, 0, (pk 0x30 3 32), _, by decide +kernel, ⟨by decide +kernel, by decide +kernel, by decide +kernel, by decide +kernel, rfl⟩⟩,
   ⟨link, 0, (pk 0x31 3 16), _, by decide +kernel, ⟨by decide +kernel, by decide +kernel, by decide +kernel, by decide +kernel, rfl⟩, by decide +kernel⟩,
   ⟨link, 0, (pk 0x32 3 0), _, by decide +kernel, ⟨by decide +kernel, by decide +kernel, by decide +kernel, by decide +kernel, rfl⟩⟩,
   ⟨link, 0, (pk 0x33 3 0), _, by decide +kernel, ⟨by decide +kernel, by decide +kernel, by decide +kernel, by decide +kernel, rfl⟩⟩,
   ⟨link, 0, (pk 0x34 3 0), _, by decide +kernel, ⟨by decide +kernel, by decide +kernel, by decide +kernel, by decide +kernel, rfl⟩⟩,
   ⟨link, 0, (⟨15, 0, 0, z 640, none⟩), by decide +kernel, by decide +kernel, by decide +kernel, by decide +kernel, by decide +kernel⟩,
   ⟨link, 0, (⟨15, 0, 63, [], some ⟨0xFF, 1, false, 1⟩⟩), _, by decide +kernel, by decide +kernel, by decide +kernel, rfl⟩,
   ⟨(port { state := .key, encOff := true }), 0, ([0x35, 3, 0, 0, 0, 0, 16, 0] ++ z 40), (leBytes 4 (crc32 ([0x35, 3, 0, 0, 0, 0, 16, 0] ++ z 40)).toNat ++ z 12), by decide +kernel, by decide +kernel, by decide +kernel⟩,
   ⟨(port { state := .key, encOff := true }), 0, ([]), ([]), by decide +kernel, by decide +kernel, by decide +kernel⟩⟩

theorem witness_RunEventsComplete :
    -- marionetteAssign
    (∃ (b : Blk) (n : Nat) (r : Run) (k : Nat) (sl : Nat), unitOn pgMAR b ∧ assignNext b = some (n, r) ∧ r.mar = none ∧ freeMarionette b = some k ∧ freeRunSlot b = some sl) ∧
    -- planTimeout
    (∃ (b : Blk) (n : Nat) (r : Run) (a : Nat), unitOn pgMAR b ∧ b.mar.runs.get? n = some r ∧ r.planWaitFt = some a ∧ isLead b r = false ∧ (feedPlan r.heldPlans r).planDone = false ∧ a + r.timeout ≤ b.ft) ∧
    -- admittedJoinTimeout
    (∃ (b : Blk) (n : Nat) (k : Nat) (r : Run) (x : Run), unitOn pgMAR b ∧ b.mar.runs.get? n = some r ∧ x = feedPlan r.heldPlans r ∧ isLead b x = false ∧ x.planDone = true ∧ ((x.plan.any fun c => c.seqId == k && !c.depart) = true) ∧ ((x.waiting.all fun w => w.seqId != k) = true) ∧ x.planRecv + x.timeout ≤ b.ft) ∧
    -- stepStart
    (∃ (b : Blk) (n : Nat) (r : Run) (x : Run) (u : Blk), unitOn pgMAR b ∧ b.mar.runs.get? n = some r ∧ r.phase = .planned ∧ r.startFt ≤ b.ft ∧ runIdle b r = true ∧ (r.steps = 0 ∨ r.committed < r.steps) ∧ x = { r with phase := .running, startedOps := 1, doneOps := [], liveOps := [], staged := [], attempt := 0, planWaitFt := none } ∧ (u = runWrite x (batchDesc ((dropOldColls n r b).updRun n fun _ => x) x) (batchBytes ((dropOldColls n r b).updRun n fun _ => x) x) ((dropOldColls n r b).updRun n fun _ => x))) ∧
    -- operationStart
    (∃ (b : Blk) (n : Nat) (r : Run) (o : Bytes), unitOn pgMAR b ∧ b.mar.runs.get? n = some r ∧ r.program[r.startedOps]? = some o ∧ r.phase = .running ∧ 1 ≤ r.startedOps ∧ runIdle b r = true ∧ r.opFail = [] ∧ opReady b n r r.startedOps o = true) ∧
    -- operationComplete
    (∃ (b : Blk) (n : Nat) (k : Nat) (r : Run) (a : Result), unitOn pgMAR b ∧ b.mar.runs.get? n = some r ∧ r.phase = .running ∧ r.liveOps.contains k = true ∧ r.opFail = [] ∧ opOver b n k r (r.program.getD k []) = some a ∧ a.status = 0) ∧
    -- stepCommit
    (∃ (b : Blk) (n : Nat) (r : Run), unitOn pgMAR b ∧ b.mar.runs.get? n = some r ∧ r.phase = .running ∧ stepDone r = true ∧ r.opFail = [] ∧ (((runSeqs b n).all fun e => !readPending b e.2.item) = true)) ∧
    -- stepRollback
    (∃ (b : Blk) (n : Nat) (k : Nat) (fault : StepFault) (r : Run), unitOn pgMAR b ∧ b.mar.runs.get? n = some r ∧ r.phase = .running ∧ 1 ≤ k ∧ k < r.startedOps ∧ stepFaultReplayable fault = true ∧ nokeepAt b n k r = false) ∧
    -- stepRollback
    (∃ (b : Blk) (n : Nat) (k : Nat) (r : Run), unitOn pgMAR b ∧ b.mar.runs.get? n = some r ∧ r.phase = .running ∧ 1 ≤ k ∧ k < r.startedOps) ∧
    -- marionetteFailure
    (∃ (b : Blk) (n : Nat), unitOn pgMAR b ∧ n < 16 ∧ b.mar.up.getLsbD n = true) ∧
    -- runEnd
    (∃ (b : Blk) (n : Nat) (r : Run), unitOn pgMAR b ∧ b.mar.runs.get? n = some r ∧ runOver b n r = true) :=
  ⟨⟨({ withItem (entry 0xB []) with mar := { runs := [(0, run0)] } }), 0, run0, 0, 0, by decide +kernel, by decide +kernel, by decide +kernel, by decide +kernel, by decide +kernel⟩,
   ⟨({ withItem (entry 0xB []) with mar := { runs := [(0, { run0 with planWaitFt := some 0, group := some 0, lead := 1 })] }, tre := { groups := [(0, gp0)] } }), 0, _, _, by decide +kernel, rfl, rfl, by decide +kernel, by decide +kernel, by decide +kernel⟩,
   ⟨({ withItem (entry 0xB []) with mar := { runs := [(0, { run0 with planDone := true, plan := [⟨9, false⟩], group := some 0, lead := 1 })] }, tre := { groups := [(0, gp0)] } }), 0, 9, _, _, by decide +kernel, rfl, rfl, by decide +kernel, by decide +kernel, by decide +kernel, by decide +kernel, by decide +kernel⟩,
   ⟨({ withItem (entry 0xB []) with mar := { runs := [(0, { run0 with phase := .planned })] } }), 0, _, _, _, by decide +kernel, rfl, by decide +kernel, by decide +kernel, by decide +kernel, by decide +kernel, rfl, rfl⟩,
   ⟨({ withItem (entry 0xB []) with mar := { runs := [(0, { run0 with phase := .running, startedOps := 1, program := [z 64, z 64] })] } }), 0, _, _, by decide +kernel, rfl, rfl, by decide +kernel, by decide +kernel, by decide +kernel, by decide +kernel, by decide +kernel⟩,
   ⟨({ withItem (entry 0xB []) with mar := { runs := [(0, { run0 with phase := .running, startedOps := 2, liveOps := [1], program := [z 64, [1] ++ z 63] })] } }), 0, 1, _, _, by decide +kernel, rfl, by decide +kernel, by decide +kernel, by decide +kernel, rfl, by decide +kernel⟩,
   ⟨({ withItem (entry 0xB []) with mar := { runs := [(0, { run0 with phase := .running, startedOps := 1, program := [z 64] })] } }), 0, _, by decide +kernel, rfl, by decide +kernel, by decide +kernel, by decide +kernel, by decide +kernel⟩,
   ⟨({ withItem (entry 0xB []) with mar := { runs := [(0, { run0 with phase := .running, startedOps := 2, program := [z 64, z 64] })] } }), 0, 1, .engine, _, by decide +kernel, rfl, by decide +kernel, by decide +kernel, by decide +kernel, by decide +kernel, by decide +kernel⟩,
   ⟨({ withItem (entry 0xB []) with mar := { runs := [(0, { run0 with phase := .running, startedOps := 2, program := [z 64, z 64] })] } }), 0, 1, _, by decide +kernel, rfl, by decide +kernel, by decide +kernel, by decide +kernel⟩,
   ⟨up, 15, by decide +kernel, by decide +kernel, by decide +kernel⟩,
   ⟨({ withItem (entry 0xB []) with mar := { runs := [(0, { run0 with phase := .boundary, steps := 3, committed := 3 })] } }), 0, _, by decide +kernel, rfl, by decide +kernel⟩⟩

theorem witness_PortEventsComplete :
    -- laneRemove
    (∃ (b : Blk) (n : Nat) (k : Nat), linkOn b ∧ portActive b n = true ∧ k < 8 ∧ (laneMap (b.port n)).getLsbD k = true) ∧
    -- markersMissed
    (∃ (b : Blk) (n : Nat), linkOn b ∧ portActive b n = true) ∧
    -- lackSendTimer
    (∃ (b : Blk) (n : Nat), linkOn b ∧ portActive b n = true ∧ 0 < (b.port n).lackCount ∧ ((b.port n).lackFt + 200 ≤ b.ft ∨ 64 ≤ (b.port n).lackCount)) ∧
    -- portDown
    (∃ (b : Blk) (n : Nat) (k : Nat), linkOn b ∧ n < 32 ∧ 2 ≤ k ∧ k ≤ 9 ∧ (b.port n).state ≠ .off ∧ (b.port n).state ≠ .down) ∧
    -- portRetryTimer
    (∃ (b : Blk) (n : Nat), linkOn b ∧ (b.port n).state = .down ∧ portEnabled b n = true ∧ (b.port n).downFt + 10000000 ≤ b.ft) ∧
    -- calDone
    (∃ (b : Blk) (n : Nat), linkOn b ∧ (b.port n).state = .cal ∧ portEnabled b n = true) ∧
    -- calDone
    (∃ (b : Blk) (n : Nat), linkOn b ∧ (b.port n).state = .cal) ∧
    -- trainDone
    (∃ (b : Blk) (n : Nat) (lanes : Lanes), linkOn b ∧ (b.port n).state = .train ∧ 4 ≤ laneCount lanes) ∧
    -- alignDone
    (∃ (b : Blk) (n : Nat) (chip : Nat), linkOn b ∧ (b.port n).state = .align ∧ chip ≠ b.chip) ∧
    -- measureDone
    (∃ (b : Blk) (n : Nat) (delays : Nats), linkOn b ∧ (b.port n).state = .measure ∧ delays.length = 64 ∧ portEnabled b n = true) ∧
    -- measureDone
    (∃ (b : Blk) (n : Nat) (delays : Nats), linkOn b ∧ portActive b n = true ∧ delays.length = 16) ∧
    -- portOffDrainEnd
    (∃ (b : Blk) (n : Nat), linkOn b ∧ (b.port n).state = .active ∧ (b.port n).draining = true ∧ ((b.port n).replay = [] ∨ (b.port n).offFt + 10000 ≤ b.ft) ∧ portEnabled b n = false ∧ (portEnabled (portEvent n 1 ((portOff n (leaveService n .off b)).updPort n fun q => { q with downCause := 1 })) n = false)) ∧
    -- portEnWrite
    (∃ (b : Blk) (who : Who) (t : Blk), unitTakes who pgLMF b t ∧ (t.hdr pgLMF).locked = false) ∧
    -- retrain
    (∃ (b : Blk) (who : Who) (n : Nat) (w : W32) (t : Blk), unitTakes who pgLMF b t ∧ n < 32 ∧ (t.hdr pgLMF).locked = false ∧ portActive t n = true ∧ w.getLsbD 0 = true) ∧
    -- routingCommit
    (∃ (b : Blk) (who : Who) (n : Nat) (t : Blk) (x : Route), unitTakes who pgLMF b t ∧ t.lmf.staged.get? n = some x) :=
  ⟨⟨(port { state := .active, lanes := 0xFF }), 0, 7, by decide +kernel, by decide +kernel, by decide +kernel, by decide +kernel⟩,
   ⟨link, 0, by decide +kernel, by decide +kernel⟩,
   ⟨(port { state := .active, lackCount := 64 }), 0, by decide +kernel, by decide +kernel, by decide +kernel, by decide +kernel⟩,
   ⟨link, 0, 2, by decide +kernel, by decide +kernel, by decide +kernel, by decide +kernel, by decide +kernel, by decide +kernel⟩,
   ⟨({ up with ft := 10000000, lmf := { portEn := 1, ports := [(0, { state := .down })] } }), 0, by decide +kernel, by decide +kernel, by decide +kernel, by decide +kernel⟩,
   ⟨({ up with lmf := { portEn := 1, ports := [(0, { state := .cal })] } }), 0, by decide +kernel, by decide +kernel, by decide +kernel⟩,
   ⟨({ up with lmf := { ports := [(0, { state := .cal })] } }), 0, by decide +kernel, by decide +kernel⟩,
   ⟨(port { state := .train }), 0, 0x0F#8, by decide +kernel, by decide +kernel, by decide +kernel⟩,
   ⟨(port { state := .align }), 0, 1, by decide +kernel, by decide +kernel, by decide +kernel⟩,
   ⟨({ up with lmf := { portEn := 1, ports := [(0, { state := .measure })] } }), 0, (List.replicate 64 0), by decide +kernel, by decide +kernel, by decide +kernel, by decide +kernel⟩,
   ⟨link, 0, (List.replicate 16 0), by decide +kernel, by decide +kernel, by decide +kernel⟩,
   ⟨(port { state := .active, draining := true }), 0, by decide +kernel, by decide +kernel, by decide +kernel, by decide +kernel, by decide +kernel, by decide +kernel⟩,
   ⟨up, man, _, ⟨rfl, by decide +kernel⟩, by decide +kernel⟩,
   ⟨link, man, 0, 1#32, _, ⟨rfl, by decide +kernel⟩, by decide +kernel, by decide +kernel, by decide +kernel, by decide +kernel⟩,
   ⟨({ up with lmf := { staged := [(0, {})] } }), man, 0, _, _, ⟨rfl, by decide +kernel⟩, rfl⟩⟩

theorem witness_TimeAndKeysComplete :
    -- kiteSend
    (∃ (b : Blk) (n : Nat), linkOn b ∧ kitePort (b.port n) = true ∧ (b.port n).kiteTx ≠ b.ft / 1000) ∧
    -- holdoverTimeout
    (∃ (b : Blk), linkOn b ∧ b.lmf.ftState = .locked ∧ 0 < b.lmf.stratum ∧ b.lmf.lastRootKite + 16000 ≤ b.ft) ∧
    -- keySwitch
    (∃ (b : Blk) (n : Nat), linkOn b ∧ portActive b n = true ∧ (b.port n).keyTx = true ∧ (b.port n).keyRx = true) ∧
    -- rekeyThreshold
    (∃ (b : Blk) (n : Nat), linkOn b ∧ portActive b n = true ∧ (b.port n).rekeyed = false) ∧
    -- rekeyThreshold
    (∃ (b : Blk) (n : Nat), linkOn b ∧ portActive b n = true ∧ (b.port n).rekeyed = true) ∧
    -- transactionTimeout
    (∃ (b : Blk) (dest : Nat) (txn : Nat) (rq : Request') (i : Nat), unitOn pgLMF b ∧ answered b dest txn = some rq ∧ rq.limitFt ≤ b.ft ∧ rq.why = .fsig i) ∧
    -- transactionTimeout
    (∃ (b : Blk) (dest : Nat) (txn : Nat) (rq : Request'), unitOn pgLMF b ∧ answered b dest txn = some rq ∧ rq.limitFt ≤ b.ft ∧ rq.why.isWrite = true) :=
  ⟨⟨({ link with ft := 1000 }), 0, by decide +kernel, by decide +kernel, by decide +kernel⟩,
   ⟨({ up with ft := 16000, lmf := { ftState := .locked } }), by decide +kernel, by decide +kernel, by decide +kernel, by decide +kernel⟩,
   ⟨(port { state := .active, keyTx := true, keyRx := true }), 0, by decide +kernel, by decide +kernel, by decide +kernel, by decide +kernel⟩,
   ⟨link, 0, by decide +kernel, by decide +kernel, by decide +kernel⟩,
   ⟨(port { state := .active, rekeyed := true }), 0, by decide +kernel, by decide +kernel, by decide +kernel⟩,
   ⟨({ withItem (entry 6 []) with lmf := { outstanding := [{ rq0 with why := .fsig 0 }] } }), 1, 7, _, 0, by decide +kernel, rfl, by decide +kernel, by decide +kernel⟩,
   ⟨({ withItem (entry 6 []) with lmf := { outstanding := [rq0] } }), 1, 7, _, by decide +kernel, rfl, by decide +kernel, by decide +kernel⟩⟩

theorem witness_RegulatorsComplete :
    -- regulatorWindow
    (∃ (b : Blk) (n : Nat), unitOn pgBWR b ∧ n < 120) ∧
    -- regulatorIssue
    (∃ (b : Blk) (n : Nat) (arrivals : Requests) (u : Blk) (i : Nat) (wt : Waiting), unitOn pgBWR b ∧ n < 120 ∧ (u = b.updReg n (fun g => notePauses b { g.roll b.ft with waiting := (g.roll b.ft).waiting ++ arrivals.map (arriveReq b.ft) })) ∧ ((serviceOrder (u.reg n)).find? (fun e => isEligible u (u.reg n) e.2) = some (i, wt))) ∧
    -- feedbackLevelChange
    (∃ (b : Blk) (n : Nat) (level : Nat), unitOn pgBWR b ∧ n < 16 ∧ ctrlLevel b (some n) = 0 ∧ level % 4 = 1) ∧
    -- feedbackLevelChange
    (∃ (b : Blk) (n : Nat) (level : Nat), unitOn pgBWR b ∧ n < 16 ∧ ctrlLevel b (some n) = 1 ∧ level % 4 = 2) ∧
    -- feedbackLevelChange
    (∃ (b : Blk) (n : Nat) (level : Nat), unitOn pgBWR b ∧ n < 16 ∧ level % 4 = 0) ∧
    -- regulatorCtrlCommit
    (∃ (b : Blk) (who : Who) (n : Nat) (w : W32) (t : Blk), unitTakes who pgBWR b t ∧ n < 120 ∧ (t.hdr pgBWR).locked = false ∧ bits w.toNat 0 4 ≤ 10) :=
  ⟨⟨up, 119, by decide +kernel, by decide +kernel⟩,
   ⟨up, 0, ([{ slice := 0, cls := 3, deadline := 0xFFFFFF, addr := 0, bytes := 64, kind := .read, ctrl := none, saving := false }]), _, _, _, by decide +kernel, by decide +kernel, rfl, rfl⟩,
   ⟨up, 15, 1, by decide +kernel, by decide +kernel, by decide +kernel, by decide +kernel⟩,
   ⟨({ up with bwr := { levels := 1 } }), 0, 2, by decide +kernel, by decide +kernel, by decide +kernel, by decide +kernel⟩,
   ⟨up, 0, 0, by decide +kernel, by decide +kernel, by decide +kernel⟩,
   ⟨up, man, 119, 10#32, _, ⟨rfl, by decide +kernel⟩, by decide +kernel, by decide +kernel, by decide +kernel⟩⟩

theorem witness_SourcesComplete :
    -- wiredLineChange
    (∃ (b : Blk) (n : Nat) (lbool : Bool), n < 64 ∧ b.pwr.supplies = true ∧ b.pwr.pstate < 2 ∧ frozenUnit b pgEVC = false ∧ b.evc.mode = 0 ∧ b.evc.lines.getLsbD n = (b.source n).activeLow ∧ lbool = !(b.source n).activeLow) ∧
    -- pendingWrite
    (∃ (b : Blk) (who : Who) (page : Nat) (bytes : Bytes) (t : Blk) (n : Nat) (u : Blk), pageTakes who (pgView page) page n b t ∧ portWriter t who n = true ∧ (bytes.length = 4 ∨ bytes.length = 8) ∧ pendingFire n (portCtx who) (field bytes 0 4 % 8192) (BitVec.ofNat 32 (field bytes 4 4)) t = some u) ∧
    -- evcDoorbell
    (∃ (b : Blk) (who : Who) (w : W32) (t : Blk), unitTakes who pgEVC b t ∧ bits w.toNat 0 13 ≤ 8175 ∧ t.evc.mode ≠ 0) ∧
    -- evcModeWrite
    (∃ (b : Blk) (who : Who) (w : W32) (t : Blk), unitTakes who pgEVC b t ∧ (bits w.toNat 0 2 = 0 ∨ bits w.toNat 0 2 = 2)) ∧
    -- pendSet
    (∃ (b : Blk) (who : Who) (t : Blk), unitTakes who pgEVC b t) ∧
    -- pendClr
    (∃ (b : Blk) (who : Who) (t : Blk), unitTakes who pgEVC b t) ∧
    -- sourceConfigWrite
    (∃ (b : Blk) (who : Who) (t : Blk), unitTakes who pgEVC b t ∧ (t.hdr pgEVC).locked = false ∧ t.evc.srcSel ≤ 8175 ∧ (t.source t.evc.srcSel).enabled = false ∧ (t.source t.evc.srcSel).pending = false) ∧
    -- pnEnWrite
    (∃ (b : Blk) (who : Who) (page : Nat) (w : W32) (t : Blk) (n : Nat), viewTakes who page n b t ∧ (t.view n).pnEn = false ∧ bits w.toNat 0 4 = 4 ∧ bit w.toNat 4 = true ∧ pnBaseOk (t.view n).pnBase 4 = true) ∧
    -- pnHeadWrite
    (∃ (b : Blk) (who : Who) (page : Nat) (w : W32) (t : Blk) (n : Nat), viewTakes who page n b t ∧ bits w.toNat 0 10 < (t.view n).pnSize ∧ (bits w.toNat 0 10 + (t.view n).pnSize - (t.view n).pnHead) % (t.view n).pnSize ≤ ((t.view n).pnTail + (t.view n).pnSize - (t.view n).pnHead) % (t.view n).pnSize) ∧
    -- pennantRecordIssue
    (∃ (b : Blk) (n : Nat) (i : Nat) (src : Source'), unitOn pgEVC b ∧ nextPennant b = some n ∧ owedRecord b n = none ∧ (competing b n).head? = some (i, src) ∧ (needsShadow src && shadowFull b) = false) :=
  ⟨⟨({ up with evc := { mode := 0 } }), 63, true, by decide +kernel, by decide +kernel, by decide +kernel, by decide +kernel, by decide +kernel, by decide +kernel, by decide +kernel⟩,
   ⟨live, man, 0, (leBytes 4 8190), _, 0, _, ⟨rfl, by decide +kernel⟩, by decide +kernel, by decide +kernel, rfl⟩,
   ⟨up, man, 8175#32, _, ⟨rfl, by decide +kernel⟩, by decide +kernel, by decide +kernel⟩,
   ⟨up, man, 2#32, _, ⟨rfl, by decide +kernel⟩, by decide +kernel⟩,
   ⟨up, man, _, ⟨rfl, by decide +kernel⟩⟩,
   ⟨up, man, _, ⟨rfl, by decide +kernel⟩⟩,
   ⟨({ up with evc := { srcSel := 8175 } }), man, _, ⟨rfl, by decide +kernel⟩, by decide +kernel, by decide +kernel, by decide +kernel, by decide +kernel⟩,
   ⟨({ live with views := [(0, { pnBase := 2 ^ 56 })] }), man, 0, 20#32, _, 0, ⟨⟨rfl, by decide +kernel⟩, by decide +kernel⟩, by decide +kernel, by decide +kernel, by decide +kernel, by decide +kernel⟩,
   ⟨({ live with views := [(0, { pnLog2 := 4, pnTail := 3 })] }), man, 0, 3#32, _, 0, ⟨⟨rfl, by decide +kernel⟩, by decide +kernel⟩, by decide +kernel, by decide +kernel⟩,
   ⟨({ live with views := [(0, { pnLog2 := 4, pnEn := true })], evc := { sources := [(300, { assigned := true, owner := 0, enabled := true, pending := true, ctx := 0xFFFF })] } }), 0, _, _, by decide +kernel, by decide +kernel, by decide +kernel, rfl, by decide +kernel⟩⟩

theorem witness_HangsAndRungsComplete :
    -- monitorFire
    (∃ (b : Blk) (mon : Monitor) (x : Hang), unitOn pgRCV b ∧ hangOf b mon = some x ∧ b.rcv.fired.contains x.key = false ∧ hangMuted b x = false) ∧
    -- coreFaultLine
    (∃ (b : Blk) (k : Nat) (u : Blk) (x : Hang), k < 192 ∧ unitsRun b = true ∧ (b.core k).faultLine = false ∧ (u = b.updCore k (fun y => { y with faultLine := true })) ∧ (x = { heldHang b 6 0x20 k pgSCH ((launchesOn (b.core k)).filterMap fun l => (b.sch.launches.get? l).bind fun y => launchItem b y.owner) with ctx := ((b.core k).ctx).getD noOne, key := (6, k, b.rcv.hangs.val.toNat) }) ∧ hangMuted u x = false) ∧
    -- contextReset
    (∃ (b : Blk) (who : Who) (w : W32) (t : Blk), unitTakes who pgRCV b t ∧ bits w.toNat 0 4 = 0 ∧ t.rcv.busy = none ∧ rungRefused t 0 (bits w.toNat 16 16) = none) ∧
    -- engineReset
    (∃ (b : Blk) (who : Who) (w : W32) (t : Blk), unitTakes who pgRCV b t ∧ bits w.toNat 0 4 = 1 ∧ t.rcv.busy = none ∧ rungRefused t 1 (bits w.toNat 16 16) = none) ∧
    -- partitionReset
    (∃ (b : Blk) (who : Who) (w : W32) (t : Blk), unitTakes who pgRCV b t ∧ bits w.toNat 0 4 = 2 ∧ t.rcv.busy = none ∧ rungRefused t 2 (bits w.toNat 16 16) = none) ∧
    -- blockReset
    (∃ (b : Blk) (who : Who) (w : W32) (t : Blk), unitTakes who pgRCV b t ∧ bits w.toNat 0 4 = 3) ∧
    -- blockReset
    (∃ (b : Blk), b.pwr.pstate < 2 ∧ b.pwr.supplies = true) ∧
    -- dump
    (∃ (b : Blk) (who : Who) (w : W32) (t : Blk), unitTakes who pgRCV b t ∧ bits w.toNat 0 4 = 4 ∧ t.rcv.busy = none ∧ t.rcv.dumpBase ≠ 0 ∧ t.rcv.dump = none) :=
  ⟨⟨({ live with rcv := { stallMs := 0 }, items := [(0, { item (entry 2 []) with stall := some .record })] }), (.faultStall 0), _, by decide +kernel, rfl, by decide +kernel, by decide +kernel⟩,
   ⟨up, 191, _, _, by decide +kernel, by decide +kernel, by decide +kernel, rfl, rfl, by decide +kernel⟩,
   ⟨live, man, 0#32, _, ⟨rfl, by decide +kernel⟩, by decide +kernel, by decide +kernel, by decide +kernel⟩,
   ⟨up, man, 0x24030001#32, _, ⟨rfl, by decide +kernel⟩, by decide +kernel, by decide +kernel, by decide +kernel⟩,
   ⟨live, man, 2#32, _, ⟨rfl, by decide +kernel⟩, by decide +kernel, by decide +kernel, by decide +kernel⟩,
   ⟨up, man, 3#32, _, ⟨rfl, by decide +kernel⟩, by decide +kernel⟩,
   ⟨up, by decide +kernel, by decide +kernel⟩,
   ⟨({ up with rcv := { dumpBase := 0x10000 } }), man, 4#32, _, ⟨rfl, by decide +kernel⟩, by decide +kernel, by decide +kernel, by decide +kernel, by decide +kernel⟩⟩

theorem witness_DumpAndTestsComplete :
    -- dumpReadTimeout
    (∃ (b : Blk) (n : Nat) (k : Nat), n < 18 ∧ k < 8192 ∧ b.pwr.pstate < 2 ∧ b.pwr.supplies = true) ∧
    -- dumpComplete
    (∃ (b : Blk) (x : Dump), b.rcv.dump = some x ∧ x.reason ≠ 4 ∧ b.pwr.pstate < 2 ∧ b.pwr.supplies = true) ∧
    -- dumpComplete
    (∃ (b : Blk) (x : Dump), b.rcv.dump = some x ∧ x.reason = 4 ∧ b.pwr.pstate < 2 ∧ b.pwr.supplies = true ∧ b.rcv.blockPhase = 1) ∧
    -- selfTestDone
    (∃ (b : Blk) (n : Nat), b.pwr.pstate < 2 ∧ b.pwr.supplies = true ∧ n < 32 ∧ b.tre.up.getLsbD n = false) ∧
    -- selfTestDone
    (∃ (b : Blk) (n : Nat), b.pwr.pstate < 2 ∧ b.pwr.supplies = true ∧ n < 16 ∧ b.mar.up.getLsbD n = false) ∧
    -- selfTestDone
    (∃ (b : Blk) (n : Nat), b.pwr.pstate < 2 ∧ b.pwr.supplies = true ∧ n < 4 ∧ b.sch.portsUp.getLsbD n = false) ∧
    -- selfTestDone
    (∃ (b : Blk), b.pwr.pstate < 2 ∧ b.pwr.supplies = true ∧ b.rcv.blockPhase = 3) ∧
    -- selfTestDone
    (∃ (b : Blk), b.pwr.pstate < 2 ∧ b.pwr.supplies = true ∧ b.rcv.blockPhase = 0 ∧ b.pwr.starting = true ∧ b.pwr.selfTestDone = false) :=
  ⟨⟨up, 17, 8191, by decide +kernel, by decide +kernel, by decide +kernel, by decide +kernel⟩,
   ⟨({ up with rcv := { dump := some ⟨1, 0, 0, 0, 0, [], [], 0⟩ } }), _, rfl, by decide +kernel, by decide +kernel, by decide +kernel⟩,
   ⟨({ up with rcv := { dump := some ⟨4, 0, 0, 0, 0, [], [], 0⟩, blockPhase := 1 } }), _, rfl, by decide +kernel, by decide +kernel, by decide +kernel, by decide +kernel⟩,
   ⟨({ up with tre := { up := 0 } }), 31, by decide +kernel, by decide +kernel, by decide +kernel, by decide +kernel⟩,
   ⟨({ up with mar := { up := 0 } }), 15, by decide +kernel, by decide +kernel, by decide +kernel, by decide +kernel⟩,
   ⟨({ up with sch := { portsUp := 0 } }), 3, by decide +kernel, by decide +kernel, by decide +kernel, by decide +kernel⟩,
   ⟨({ up with rcv := { blockPhase := 3 } }), by decide +kernel, by decide +kernel, by decide +kernel⟩,
   ⟨({ up with pwr := { supplies := true, starting := true } }), by decide +kernel, by decide +kernel, by decide +kernel, by decide +kernel, by decide +kernel⟩⟩

theorem witness_SecurityCommandsComplete :
    -- identity
    (∃ (b : Blk) (rec : Bytes), recordTakes 1 rec b ∧ bits (field rec 8 4) 0 2 ≠ 3 ∧ field rec 8 4 < 2 ^ 12 ∧ field rec 12 4 < 2 ^ 20 ∧ b.pwr.startKind ≠ 1) ∧
    -- sliceKey
    (∃ (b : Blk) (rec : Bytes) (x : SliceKey), recordTakes 2 rec b ∧ field rec 2 2 < 4096 ∧ (b.slices.get? (field rec 2 2)).all (·.draining) = false ∧ b.sec.sliceKeys.get? (field rec 2 2) = some x ∧ x.gen < field rec 4 1) ∧
    -- linkKey
    (∃ (b : Blk) (rec : Bytes), recordTakes 3 rec b ∧ field rec 2 2 < 32 ∧ field rec 1 1 = 0 ∧ portActive b (field rec 2 2) = false ∧ b.sec.linkKeys.get? (field rec 2 2) = none ∧ (b.port (field rec 2 2)).keyBank = 0) ∧
    -- erase
    (∃ (b : Blk) (rec : Bytes), recordTakes 4 rec b ∧ field rec 2 2 < 4096) ∧
    -- dbgGrant
    (∃ (b : Blk) (rec : Bytes), recordTakes 5 rec b ∧ (field rec 5 1 = 2 ∨ field rec 5 1 = 3) ∧ b.sec.lifecycle ≠ 1 ∧ challengeMet b rec (some (field rec 5 1)) = true) ∧
    -- dbgDeny
    (∃ (b : Blk) (rec : Bytes), recordTakes 6 rec b ∧ challengeMet b rec none = true ∧ (b.sec.dbgFails + 1) % 8 ≠ 0) ∧
    -- dbgReq
    (∃ (b : Blk) (w : W32) (t : Blk), gatePower .debug pgSEC true b = (t, true) ∧ bits w.toNat 2 2 = 3 ∧ bit w.toNat 4 = false ∧ (t.sec.lifecycle = 0 ∨ t.sec.lifecycle = 2) ∧ t.sec.lockoutFt = none) ∧
    -- dbgReq
    (∃ (b : Blk) (w : W32) (t : Blk), gatePower .debug pgSEC true b = (t, true) ∧ bits w.toNat 2 2 = 2 ∧ bit w.toNat 4 = false ∧ t.sec.lifecycle = 0) ∧
    -- dbgDrop
    (∃ (b : Blk) (who : Who) (w : W32) (t : Blk), gatePower who pgSEC true b = (t, true) ∧ (isDebug who = true ∨ secureWorld t who = true) ∧ bits w.toNat 2 2 = 0 ∧ bit w.toNat 4 = true) ∧
    -- challengeExpiry
    (∃ (b : Blk) (x : Challenge), b.pwr.supplies = true ∧ b.sec.chal = some x ∧ x.expireFt ≤ b.ft) ∧
    -- challengeExpiry
    (∃ (b : Blk) (n : Nat) (x : Challenge), b.pwr.supplies = true ∧ (b.view n).niChal = some x ∧ x.expireFt ≤ b.ft) ∧
    -- debugLockoutExpiry
    (∃ (b : Blk) (a : Nat), b.pwr.supplies = true ∧ b.sec.lockoutFt = some a ∧ a ≤ b.ft) ∧
    -- alarmTrip
    (∃ (b : Blk) (n : Nat), n ≤ 10 ∧ n ≠ 7 ∧ n ≠ 9 ∧ b.pwr.supplies = true ∧ b.pwr.pstate < 3 ∧ b.pwr.armedFt ≤ b.ft) ∧
    -- niSelfWrite
    (∃ (b : Blk) (who : Who) (page : Nat) (w : W32) (t : Blk) (n : Nat), viewTakes who page n b t ∧ ownAccess t who n = true ∧ bit w.toNat 2 = false ∧ bit w.toNat 3 = false) ∧
    -- niMgrReq
    (∃ (b : Blk) (who : Who) (page : Nat) (w : W32) (t : Blk) (n : Nat), viewTakes who page n b t ∧ ownAccess t who n = false ∧ isManager t who = true ∧ bit w.toNat 2 = true ∧ bit w.toNat 3 = false) ∧
    -- niMgrDrop
    (∃ (b : Blk) (who : Who) (page : Nat) (w : W32) (t : Blk) (n : Nat), viewTakes who page n b t ∧ ownAccess t who n = false ∧ bit w.toNat 2 = false ∧ bit w.toNat 3 = true) ∧
    -- niRespSubmit
    (∃ (b : Blk) (who : Who) (page : Nat) (w : W32) (t : Blk) (n : Nat) (u : Blk) (x : Challenge) (y : SliceKey) (z : Bytes), viewTakes who page n b t ∧ (u = t.updView n (fun v => { v with niResp := v.niResp.set 3 w })) ∧ (u.view n).niChal = some x ∧ u.sec.sliceKeys.get? n = some y ∧ u.ft < x.expireFt ∧ y.key = some z ∧ (responseOf z x = (u.view n).niResp.foldr (fun d m => d.toNat + m * 2 ^ 32) 0)) :=
  ⟨⟨up, ([1] ++ z 63), by decide +kernel, by decide +kernel, by decide +kernel, by decide +kernel, by decide +kernel⟩,
   ⟨({ live with sec := { identOk := true, sliceKeys := [(0, {})] } }), ([2, 0, 0, 0, 1] ++ z 59), _, by decide +kernel, by decide +kernel, by decide +kernel, rfl, by decide +kernel⟩,
   ⟨({ up with sec := { identOk := true } }), ([3] ++ z 63), by decide +kernel, by decide +kernel, by decide +kernel, by decide +kernel, by decide +kernel, by decide +kernel⟩,
   ⟨({ up with sec := { identOk := true } }), ([4] ++ z 63), by decide +kernel, by decide +kernel⟩,
   ⟨({ up with sec := { identOk := true, chal := some ⟨0, 2, 100⟩ } }), ([5, 0, 0, 0, 0, 2] ++ z 58), by decide +kernel, by decide +kernel, by decide +kernel, by decide +kernel⟩,
   ⟨({ up with sec := { identOk := true, chal := some ⟨0, 2, 100⟩ } }), ([6] ++ z 63), by decide +kernel, by decide +kernel, by decide +kernel⟩,
   ⟨({ up with sec := { lifecycle := 2 } }), 12#32, _, rfl, by decide +kernel, by decide +kernel, by decide +kernel, by decide +kernel⟩,
   ⟨({ up with sec := { lifecycle := 0 } }), 8#32, _, rfl, by decide +kernel, by decide +kernel, by decide +kernel⟩,
   ⟨up, .debug, 16#32, _, rfl, by decide +kernel, by decide +kernel, by decide +kernel⟩,
   ⟨({ up with sec := { chal := some ⟨0, 2, 0⟩ } }), _, by decide +kernel, rfl, by decide +kernel⟩,
   ⟨({ live with views := [(0, { niChal := some ⟨0, 1, 0⟩ })] }), 0, _, by decide +kernel, rfl, by decide +kernel⟩,
   ⟨({ up with sec := { lockoutFt := some 0 } }), _, by decide +kernel, rfl, by decide +kernel⟩,
   ⟨up, 10, by decide +kernel, by decide +kernel, by decide +kernel, by decide +kernel, by decide +kernel, by decide +kernel⟩,
   ⟨live, man, 0, 0#32, _, 0, ⟨⟨rfl, by decide +kernel⟩, by decide +kernel⟩, by decide +kernel, by decide +kernel, by decide +kernel⟩,
   ⟨({ live with slices := [(0, sl0), (1, { sl0 with pasid := 6 })] }), (.pf (some 5) true), 1, 4#32, _, 1, ⟨⟨rfl, by decide +kernel⟩, by decide +kernel⟩, by decide +kernel, by decide +kernel, by decide +kernel, by decide +kernel⟩,
   ⟨({ live with slices := [(0, sl0), (1, { sl0 with pasid := 6 })] }), (.pf (some 5) true), 1, 8#32, _, 1, ⟨⟨rfl, by decide +kernel⟩, by decide +kernel⟩, by decide +kernel, by decide +kernel, by decide +kernel⟩,
   ⟨({ live with views := [(0, { niChal := some ⟨7, 1, 100⟩, niResp := [resp 0, resp 1, resp 2, 0] })], sec := { sliceKeys := [(0, { key := some (z 16) })] } }), man, 0, (resp 3), _, 0, _, _, _, _, ⟨⟨rfl, by decide +kernel⟩, by decide +kernel⟩, rfl, rfl, rfl, by decide +kernel, rfl, by decide +kernel⟩⟩

theorem witness_PowerStatesComplete :
    -- b1Entry
    (∃ (b : Blk), b.pwr.supplies = true ∧ b.pwr.pstate = 0 ∧ b.pwr.ready = true ∧ b.pwr.graceFt = none ∧ 0 < b.pwr.idleB1Us ∧ blockIdle b = true ∧ b.pwr.idleFt + b.pwr.idleB1Us * 1000 ≤ b.ft) ∧
    -- b1Exit
    (∃ (b : Blk), b.pwr.pstate = 1) ∧
    -- b1Exit
    (∃ (b : Blk) (k : Nat), b.pwr.pstate = 1 ∧ packetWakes k = true) ∧
    -- b1Exit
    (∃ (b : Blk), b.pwr.pstate = 1) ∧
    -- b1Exit
    (∃ (b : Blk), b.pwr.pstate = 1) ∧
    -- enterB2
    (∃ (b : Blk) (who : Who) (w : W32) (t : Blk), unitTakes who pgPWR b t ∧ bits w.toNat 0 2 = 1 ∧ t.pwr.pbusy = false ∧ t.pwr.pstate < 2 ∧ t.pwr.ready = true ∧ refuseBits t = 0) ∧
    -- enterB3
    (∃ (b : Blk) (who : Who) (w : W32) (t : Blk), unitTakes who pgPWR b t ∧ bits w.toNat 0 2 = 2 ∧ t.pwr.pbusy = false ∧ t.pwr.pstate < 2 ∧ t.pwr.ready = true ∧ refuseBits t = 0) ∧
    -- b2GraceEnd
    (∃ (b : Blk) (a : Nat), b.pwr.supplies = true ∧ b.pwr.graceFt = some a ∧ a ≤ b.ft) ∧
    -- wake
    (∃ (b : Blk), b.pwr.pstate = 2) ∧
    -- wake
    (∃ (b : Blk), b.pwr.pstate = 2) ∧
    -- wake
    (∃ (b : Blk) (n : Nat), b.pwr.pstate = 2 ∧ b.pwr.wakePending = some (2, n)) ∧
    -- wake
    (∃ (b : Blk), b.pwr.pstate = 2 ∧ b.pwr.wakeAt ≠ 0 ∧ b.pwr.wakeAt ≤ b.ft) ∧
    -- wake
    (∃ (b : Blk) (w : W32), b.pwr.pstate = 2 ∧ b.pwr.supplies = true ∧ bits w.toNat 0 2 = 3) :=
  ⟨⟨({ up with ft := 100000 }), by decide +kernel, by decide +kernel, by decide +kernel, by decide +kernel, by decide +kernel, by decide +kernel, by decide +kernel⟩,
   ⟨(pst 1), by decide +kernel⟩,
   ⟨(pst 1), 1, by decide +kernel, by decide +kernel⟩,
   ⟨(pst 1), by decide +kernel⟩,
   ⟨(pst 1), by decide +kernel⟩,
   ⟨up, man, 1#32, _, ⟨rfl, by decide +kernel⟩, by decide +kernel, by decide +kernel, by decide +kernel, by decide +kernel, by decide +kernel⟩,
   ⟨up, man, 2#32, _, ⟨rfl, by decide +kernel⟩, by decide +kernel, by decide +kernel, by decide +kernel, by decide +kernel, by decide +kernel⟩,
   ⟨({ up with pwr := { up.pwr with graceFt := some 0 } }), _, by decide +kernel, rfl, by decide +kernel⟩,
   ⟨(pst 2), by decide +kernel⟩,
   ⟨(pst 2), by decide +kernel⟩,
   ⟨({ up with pwr := { up.pwr with pstate := 2, wakePending := some (2, 5) } }), 5, by decide +kernel, by decide +kernel⟩,
   ⟨({ up with ft := 1, pwr := { up.pwr with pstate := 2, wakeAt := 1 } }), by decide +kernel, by decide +kernel, by decide +kernel⟩,
   ⟨(pst 2), 3#32, by decide +kernel, by decide +kernel, by decide +kernel⟩⟩

theorem witness_StartsComplete :
    -- coreSupplyLoss
    (∃ (b : Blk), b.pwr.supplies = true ∧ b.pwr.pstate < 3) ∧
    -- suppliesValid
    (∃ (b : Blk), b.pwr.supplies = false ∧ b.pwr.retained.sealed' = false) ∧
    -- suppliesValid
    (∃ (b : Blk), b.pwr.supplies = false ∧ b.pwr.retained.sealed' = true ∧ b.pwr.retained.crcOk = true) ∧
    -- startGo
    (∃ (b : Blk) (who : Who) (w : W32) (t : Blk), unitTakes who pgPWR b t ∧ w.getLsbD 2 = true ∧ t.pwr.starting = true ∧ t.pwr.coldStart = true) ∧
    -- readyReport
    (∃ (b : Blk), b.pwr.supplies = true ∧ b.pwr.starting = true ∧ readyNow b = true ∧ b.pwr.startKind ≠ 2) ∧
    -- readyReport
    (∃ (b : Blk), b.pwr.supplies = true ∧ b.pwr.starting = true ∧ readyNow b = true ∧ b.pwr.startKind = 2) ∧
    -- rsSealWrite
    (∃ (b : Blk) (who : Who) (t : Blk), unitTakes who pgPWR b t ∧ (t.hdr pgPWR).locked = false) ∧
    -- genChipWrite
    (∃ (b : Blk) (who : Who) (t : Blk), unitTakes who pgGEN b t ∧ (t.hdr pgGEN).locked = false ∧ (((List.range 32).any fun i => portActive t i) = false) ∧ 255 ≤ t.lmf.rootPrio) :=
  ⟨⟨up, by decide +kernel, by decide +kernel⟩,
   ⟨Blk.reset, by decide +kernel, by decide +kernel⟩,
   ⟨({ pwr := { retained := { sealed' := true } } }), by decide +kernel, by decide +kernel, by decide +kernel⟩,
   ⟨({ pwr := { supplies := true, starting := true, coldStart := true } }), (.mp false), 4#32, _, ⟨rfl, by decide +kernel⟩, by decide +kernel, by decide +kernel, by decide +kernel⟩,
   ⟨({ pwr := { supplies := true, starting := true, selfTestDone := true }, sec := { identOk := true } }), by decide +kernel, by decide +kernel, by decide +kernel, by decide +kernel⟩,
   ⟨({ pwr := { supplies := true, starting := true, selfTestDone := true, startKind := 2 }, sec := { identOk := true } }), by decide +kernel, by decide +kernel, by decide +kernel, by decide +kernel⟩,
   ⟨up, man, _, ⟨rfl, by decide +kernel⟩, by decide +kernel⟩,
   ⟨up, man, _, ⟨rfl, by decide +kernel⟩, by decide +kernel, by decide +kernel, by decide +kernel⟩⟩

theorem witness_TraceComplete :
    -- trgNow
    (∃ (b : Blk) (who : Who) (w : W32) (t : Blk), unitTakes who pgTRC b t ∧ w.getLsbD 1 = true ∧ w.getLsbD 0 = false) ∧
    -- arm
    (∃ (b : Blk) (who : Who) (w : W32) (t : Blk), unitTakes who pgTRC b t ∧ w.getLsbD 0 = true ∧ w.getLsbD 1 = false ∧ t.trc.postPhase = false) ∧
    -- mark
    (∃ (b : Blk) (who : Who) (t : Blk), unitTakes who pgTRC b t) ∧
    -- tbHeadWrite
    (∃ (b : Blk) (who : Who) (t : Blk), unitTakes who pgTRC b t ∧ t.trc.mode ≠ 1) ∧
    -- tbModeWrite
    (∃ (b : Blk) (who : Who) (w : W32) (t : Blk), unitTakes who pgTRC b t ∧ (t.hdr pgTRC).locked = false ∧ (bits w.toNat 0 2 = 0 ∨ t.trc.mode = 0)) ∧
    -- stHeadWrite
    (∃ (b : Blk) (who : Who) (page : Nat) (w : W32) (t : Blk) (n : Nat), viewTakes who page n b t ∧ bits w.toNat 0 16 < (t.view n).stSize ∧ (bits w.toNat 0 16 + (t.view n).stSize - (t.view n).stHead % (t.view n).stSize) % (t.view n).stSize ≤ ((t.view n).stTail + (t.view n).stSize - (t.view n).stHead % (t.view n).stSize) % (t.view n).stSize) ∧
    -- stEnWrite
    (∃ (b : Blk) (who : Who) (page : Nat) (w : W32) (t : Blk) (n : Nat), viewTakes who page n b t ∧ (t.view n).stEn = false ∧ bits w.toNat 0 4 ≤ 10 ∧ bit w.toNat 4 = true ∧ stPlaced t n (t.view n).stBase (bits w.toNat 0 4) = true) :=
  ⟨⟨up, man, 2#32, _, ⟨rfl, by decide +kernel⟩, by decide +kernel, by decide +kernel⟩,
   ⟨up, man, 1#32, _, ⟨rfl, by decide +kernel⟩, by decide +kernel, by decide +kernel, by decide +kernel⟩,
   ⟨up, man, _, ⟨rfl, by decide +kernel⟩⟩,
   ⟨up, man, _, ⟨rfl, by decide +kernel⟩, by decide +kernel⟩,
   ⟨up, man, 0#32, _, ⟨rfl, by decide +kernel⟩, by decide +kernel, by decide +kernel⟩,
   ⟨live, man, 0, 0#32, _, 0, ⟨⟨rfl, by decide +kernel⟩, by decide +kernel⟩, by decide +kernel, by decide +kernel⟩,
   ⟨({ live with views := [(0, { stBase := 2 ^ 56 })] }), man, 0, 16#32, _, 0, ⟨⟨rfl, by decide +kernel⟩, by decide +kernel⟩, by decide +kernel, by decide +kernel, by decide +kernel, by decide +kernel⟩⟩

theorem witness_RegistersComplete :
    -- latchedPairRead
    (∃ (b : Blk) (who : Who) (n : Nat) (t : Blk) (k : Nat) (i : PageInfo) (a : Nat), isDebug who = false ∧ gatePower who (gatePage who n) false b = (t, true) ∧ n % 4 = 0 ∧ viewAt who n = none ∧ pageAt n = some (k, i, a)) ∧
    -- counterSatClear
    (∃ (b : Blk) (who : Who) (n : Nat) (w : W32) (t : Blk) (k : Nat) (i : PageInfo) (a : Nat), viewAt who n = none ∧ pageAt n = some (k, i, a) ∧ unitTakes who k b t ∧ w.getLsbD 31 = true) ∧
    -- pageLockWrite
    (∃ (b : Blk) (who : Who) (n : Nat) (w : W32) (t : Blk) (k : Nat) (i : PageInfo) (a : Nat), viewAt who n = none ∧ pageAt n = some (k, i, a) ∧ unitTakes who k b t ∧ w.getLsbD 0 = true) ∧
    -- pageFreezeWrite
    (∃ (b : Blk) (n : Nat) (t : Blk) (k : Nat) (i : PageInfo) (a : Nat), pageAt n = some (k, i, a) ∧ viewAt .debug n = none ∧ gatePower .debug k true b = (t, true) ∧ freezeLevel k ≤ t.sec.dbgLevel) ∧
    -- pageErrorClear
    (∃ (b : Blk) (who : Who) (n : Nat) (w : W32) (t : Blk) (k : Nat) (i : PageInfo) (a : Nat), viewAt who n = none ∧ pageAt n = some (k, i, a) ∧ unitTakes who k b t ∧ w.getLsbD 31 = true) ∧
    -- registerWrite
    (∃ (b : Blk) (who : Who) (n : Nat) (w : W32) (t : Blk) (k : Nat) (i : PageInfo) (a : Nat), debugBars who n b = false ∧ n % 4 = 0 ∧ viewAt who n = none ∧ pageAt n = some (k, i, a) ∧ 0x40 ≤ a ∧ k ≠ pgMBX + 1 ∧ k ≠ pgMBX + 2 ∧ ownLow who k a w .timedOut = none ∧ ownHigh who k a w .timedOut = none ∧ unitTakes who k b t) ∧
    -- coreMemoryRequest
    (∃ (b : Blk) (k : Nat) (n : Nat) (dva : Nat) (size : Nat) (l : Launch) (segs : List Seg), unitOn pgXLT b ∧ coreRuns b k n = true ∧ b.sch.launches.get? n = some l ∧ planSpan b l.slice dva size false = .ok segs) ∧
    -- coreMemoryRequest
    (∃ (b : Blk) (k : Nat) (n : Nat) (dva : Nat) (bytes : Bytes) (l : Launch) (segs : List Seg), unitOn pgXLT b ∧ coreRuns b k n = true ∧ b.sch.launches.get? n = some l ∧ planSpan b l.slice dva bytes.length true = .ok segs) ∧
    -- coreMemoryRequest
    (∃ (b : Blk) (k : Nat) (n : Nat) (dva : Nat) (size : Nat) (l : Launch) (s : Seg) (segs : List Seg), unitOn pgXLT b ∧ coreRuns b k n = true ∧ b.sch.launches.get? n = some l ∧ dva < 2 ^ 56 ∧ planSpan b l.slice dva size true = .ok (s :: segs)) ∧
    -- coreMemoryRequest
    (∃ (b : Blk) (k : Nat) (n : Nat) (l : Launch), unitOn pgXLT b ∧ coreRuns b k n = true ∧ b.sch.launches.get? n = some l) :=
  ⟨⟨up, man, 0x48, _, _, _, _, by decide +kernel, rfl, by decide +kernel, by decide +kernel, rfl⟩,
   ⟨up, man, 0x200070, 0x80000000#32, _, _, _, _, by decide +kernel, rfl, ⟨rfl, by decide +kernel⟩, by decide +kernel⟩,
   ⟨up, man, 0x80010, 1#32, _, _, _, _, by decide +kernel, rfl, ⟨rfl, by decide +kernel⟩, by decide +kernel⟩,
   ⟨({ up with sec := { dbgLevel := 2 } }), 0x80010, _, _, _, _, rfl, by decide +kernel, rfl, by decide +kernel⟩,
   ⟨up, man, 0x80010, 0x80000000#32, _, _, _, _, by decide +kernel, rfl, ⟨rfl, by decide +kernel⟩, by decide +kernel⟩,
   ⟨up, man, 0x40, 0#32, _, _, _, _, by decide +kernel, by decide +kernel, by decide +kernel, rfl, by decide +kernel, by decide +kernel, by decide +kernel, by decide +kernel, by decide +kernel, ⟨rfl, by decide +kernel⟩⟩,
   ⟨(onCore { groups := [wg0] }), 0, 0, 0x10000, 64, _, _, by decide +kernel, by decide +kernel, rfl, rfl⟩,
   ⟨(onCore { groups := [wg0] }), 0, 0, 0x10000, (z 64), _, _, by decide +kernel, by decide +kernel, rfl, rfl⟩,
   ⟨(onCore { groups := [wg0] }), 0, 0, 0x10000, 8, _, _, _, by decide +kernel, by decide +kernel, rfl, by decide +kernel, rfl⟩,
   ⟨(onCore { groups := [wg0] }), 0, 0, _, by decide +kernel, by decide +kernel, rfl⟩⟩

end Sys2Proof.Tests
end

/-! The 31-bit saturating counters (R9): what one event and what `n` units do to a counter's value and to its sticky bit, and
the obligation about them. -/

namespace Sys2Proof

namespace Ctr

/-- Below all-ones is exactly where another unit still fits. -/
theorem val_ne_allOnes_iff {c : Ctr} : c.val ≠ BitVec.allOnes 31 ↔ c.val.toNat < 2 ^ 31 - 1 := by
  have hmax : c.val.toNat < 2 ^ 31 := c.val.isLt
  rw [ne_eq, BitVec.toNat_eq, BitVec.toNat_allOnes]
  omega

/-! ## One event -/

theorem bump_of_eq_allOnes {c : Ctr} (full : c.val = BitVec.allOnes 31) : c.bump = c := if_pos full

theorem bump_of_ne_allOnes {c : Ctr} (room : c.val ≠ BitVec.allOnes 31) :
    c.bump = ⟨c.val + 1, c.sat || decide (c.val + 1 = BitVec.allOnes 31)⟩ := if_neg room

theorem bump_toNat {c : Ctr} (room : c.val ≠ BitVec.allOnes 31) : c.bump.val.toNat = c.val.toNat + 1 := by
  have below : c.val.toNat < 2 ^ 31 - 1 := val_ne_allOnes_iff.mp room
  rw [bump_of_ne_allOnes room]
  exact BitVec.toNat_add_of_lt (Nat.add_lt_of_lt_sub below)

theorem bump_sat_iff {c : Ctr} (room : c.val ≠ BitVec.allOnes 31) :
    c.bump.sat = true ↔ c.sat = true ∨ c.bump.val = BitVec.allOnes 31 := by
  simp [bump_of_ne_allOnes room]

theorem bump_sat_of_sat {c : Ctr} (set : c.sat = true) : c.bump.sat = true := by
  by_cases full : c.val = BitVec.allOnes 31
  · rwa [bump_of_eq_allOnes full]
  · exact (bump_sat_iff full).mpr (.inl set)

theorem le_bump (c : Ctr) : c.val.toNat ≤ c.bump.val.toNat := by
  by_cases full : c.val = BitVec.allOnes 31
  · rw [bump_of_eq_allOnes full]
  · rw [bump_toNat full]
    exact Nat.le_succ _

/-! ## Several units at once -/

theorem add_of_reaches {c : Ctr} {n : Nat} (pos : 0 < n) (reach : 2 ^ 31 - 1 ≤ c.val.toNat + n) :
    c.add n = ⟨BitVec.allOnes 31, true⟩ := by
  rw [add, if_neg reach.not_gt, if_neg pos.ne']

/-- The value is a plain sum cut off at all-ones: the bounds on `add` follow from this equation. -/
theorem add_toNat (c : Ctr) (n : Nat) : (c.add n).val.toNat = min (c.val.toNat + n) (2 ^ 31 - 1) := by
  have hmax : c.val.toNat < 2 ^ 31 := c.val.isLt
  by_cases below : c.val.toNat + n < 2 ^ 31 - 1
  · rw [add, if_pos below, BitVec.toNat_ofNat]
    omega
  · rcases Nat.eq_zero_or_pos n with rfl | pos
    · rw [add, if_neg below, if_pos rfl]
      omega
    · rw [add_of_reaches pos (not_lt.mp below), BitVec.toNat_allOnes]
      omega

theorem le_add (c : Ctr) (n : Nat) : c.val.toNat ≤ (c.add n).val.toNat := by
  have hmax : c.val.toNat < 2 ^ 31 := c.val.isLt
  rw [add_toNat]
  omega

theorem add_le (c : Ctr) (n : Nat) : (c.add n).val.toNat ≤ c.val.toNat + n :=
  (add_toNat c n).trans_le (min_le_left _ _)

end Ctr

/-- Settles O6: one event by whether the value is at all-ones, `n` units by the truncated sum. -/
theorem countersSaturate : Obligations.CountersSaturate := fun c =>
  ⟨Ctr.bump_of_eq_allOnes, Ctr.bump_toNat, Ctr.bump_sat_iff, Ctr.bump_sat_of_sat, c.le_bump,
    fun n => ⟨c.le_add n, c.add_le n⟩, fun _ => Ctr.add_of_reaches⟩

end Sys2Proof

/-! Steps of the machine and fabric time (R46 to R51): every command is a change of the block alone, and what one tick does. -/

namespace Sys2Proof.Machine

open Sys2Proof.Safety

theorem step_cons (c : Instr) (p : List Instr) (b : Blk) : step ⟨c :: p, b⟩ = exec c ⟨p, b⟩ := rfl

theorem step_nil (b : Blk) : step ⟨[], b⟩ = .next ⟨[], b.tick⟩ := rfl

/-- No command touches the queue, faults or is refused. -/
theorem exec_eq_next (c : Instr) (p : List Instr) (b : Blk) : ∃ u, exec c ⟨p, b⟩ = .next ⟨p, u⟩ := by
  cases c <;> exact ⟨_, rfl⟩

theorem exec_pending {c : Instr} {p : List Instr} {b : Blk} {t : State} (h : exec c ⟨p, b⟩ = .next t) : t.pending = p := by
  obtain ⟨u, hu⟩ := exec_eq_next c p b
  cases hu.symm.trans h
  rfl

/-- A step only takes commands away. -/
theorem step_pending_subset {s t : State} (h : step s = .next t) : t.pending ⊆ s.pending := by
  obtain ⟨_ | ⟨c, p⟩, b⟩ := s
  · cases h
    exact List.Subset.refl _
  · rw [step_cons] at h
    rw [exec_pending h]
    exact List.subset_cons_self c p

/-! ## A tick -/

section Tick

variable {b : Blk}

theorem tick_of_off (off : b.pwr.supplies = false) (awake : b.pwr.pstate ≠ 3) : b.tick = b := by
  simp [Blk.tick, off, awake]

theorem tick_of_no_slew (on : b.pwr.supplies = true) (still : b.lmf.slew = 0) : b.tick = { b with ft := b.ft + 1 } := by
  simp [Blk.tick, on, still]

/-- A tick touches fabric time and the slew that bends it, and fabric time never falls. -/
theorem tick_cases (b : Blk) : ∃ ft lmf, b.tick = { b with ft := ft, lmf := lmf } ∧ b.ft ≤ ft ∧ ft ≤ b.ft + 2 := by
  unfold Blk.tick
  split
  · split
    · exact ⟨_, _, rfl, by split <;> omega, by split <;> omega⟩
    · exact ⟨_, b.lmf, rfl, by omega, by omega⟩
  · exact ⟨b.ft, b.lmf, rfl, by omega, by omega⟩

theorem le_tick_ft (b : Blk) : b.ft ≤ b.tick.ft := by
  obtain ⟨ft, lmf, htick, hle, -⟩ := tick_cases b
  rwa [htick]

theorem tick_ft_le (b : Blk) : b.tick.ft ≤ b.ft + 2 := by
  obtain ⟨ft, lmf, htick, -, hle⟩ := tick_cases b
  rwa [htick]

end Tick

end Sys2Proof.Machine

namespace Sys2Proof

open Sys2Proof.Machine Sys2Proof.Safety

/-- Settles O1: both clauses are the equations of `step`. -/
theorem stepTakesTheFront : Obligations.StepTakesTheFront := ⟨step_cons, step_nil⟩

/-- Settles O2: no command touches the queue, so a step only takes its front away. -/
theorem everyCommandAnswers : Obligations.EveryCommandAnswers :=
  ⟨exec_eq_next, fun _ _ wellFormed hstep c hc => wellFormed c (step_pending_subset hstep hc)⟩

/-- Settles O3, from what a tick writes in each branch. -/
theorem tickNeverGoesBack : Obligations.TickNeverGoesBack := fun b =>
  ⟨le_tick_ft b, tick_ft_le b, tick_of_no_slew, tick_of_off⟩

end Sys2Proof

/-! The Burgee's fields and its DEADLINE (R22, R24). -/

namespace Sys2Proof.Machine

/-! ## Fields of a Burgee -/

/-- The Burgee of fields that are in range is their plain sum at the places of Table 01.3. -/
theorem burgee_of_lt {slice ctx cls dl scope : Nat} (hslice : slice < 4096) (hctx : ctx < 65536) (hcls : cls < 8) (hdl : dl < 2 ^ 24)
    (hscope : scope < 6) :
    burgee slice ctx cls dl scope = slice + ctx * 2 ^ 12 + cls * 2 ^ 28 + dl * 2 ^ 32 + scope * 2 ^ 56 := by
  unfold burgee
  rw [Nat.mod_eq_of_lt hslice, Nat.mod_eq_of_lt hctx, Nat.mod_eq_of_lt hcls, Nat.mod_eq_of_lt hdl,
    Nat.mod_eq_of_lt (hscope.trans (by decide))]

theorem burgeeOk_of_bits {g : Nat} (bit31 : bits g 31 1 = 0) (high : bits g 59 5 = 0) (scope : bits g 56 3 < 6) : burgeeOk g = true := by
  simp [burgeeOk, bit31, high, scope]

/-! ## DEADLINE -/

theorem deadlineField_none (ft : Nat) : deadlineField ft none = 0xFFFFFF := rfl

theorem deadlineField_of_le {ft t : Nat} (fits : (t - ft) / 16 ≤ 0xFFFFFE) : deadlineField ft (some t) = (t - ft) / 16 :=
  if_neg fits.not_gt

theorem deadlineField_of_lt {ft t : Nat} (far : 0xFFFFFE < (t - ft) / 16) : deadlineField ft (some t) = 0xFFFFFF := if_pos far

end Sys2Proof.Machine

namespace Sys2Proof

open Sys2Proof.Machine

/-- Settles O4: each field is a digit of the plain sum. -/
theorem burgeeFieldsReadBack : Obligations.BurgeeFieldsReadBack := by
  intro slice ctx cls dl scope hslice hctx hcls hdl hscope
  generalize hg : burgee slice ctx cls dl scope = g
  rw [burgee_of_lt hslice hctx hcls hdl hscope] at hg
  have scopeBits : bits g 56 3 = scope := by unfold bits; omega
  have bit31 : bits g 31 1 = 0 := by unfold bits; omega
  have high : bits g 59 5 = 0 := by unfold bits; omega
  refine ⟨?slice, ?ctx, ?cls, bit31, ?dl, scopeBits, high, burgeeOk_of_bits bit31 high (scopeBits.trans_lt hscope)⟩
  all_goals
    unfold bits
    omega

/-- Settles O5: a deadline of at most 268,435,424 ns is at most 0xFFFFFE units of 16 ns. -/
theorem deadlineIsTimeRemaining : Obligations.DeadlineIsTimeRemaining := by
  intro ft t _
  refine ⟨deadlineField_of_le, deadlineField_of_lt, deadlineField_none ft, fun near => ?_⟩
  have fits : (t - ft) / 16 ≤ 0xFFFFFE := by omega
  rwa [deadlineField_of_le fits]

/-- Settles O22: a store at its home is `memWrite`, whose laws are proved byte by byte. -/
theorem storedBytesReadBack : Obligations.StoredBytesReadBack := by
  intro b k bs wf
  refine ⟨storeLocal_wf b k bs wf, fun i hi => ?_, fun a outside => ?_, stored_back b k bs wf⟩
  · rw [storeLocal_mem, memGet_memWrite_at bs b.mem k i wf hi, List.getD_eq_getElem bs 0 hi]
  · rw [storeLocal_mem, memGet_memWrite_other bs b.mem k a outside]

end Sys2Proof

/-! Starts, the loss of supply and the chip number (R33, R48, R425, R455, R458 to R463). -/

namespace Sys2Proof.Machine

open Sys2Proof.Safety

section

variable {b t : Blk} {p : List Instr} {who : Who} {w : W32}

theorem unlessLocked_of_not {pg : Nat} {k : Blk → Blk} (unlocked : (b.hdr pg).locked = false) : unlessLocked pg b k = k b :=
  if_neg (by simp [unlocked])

/-- An election of the time root writes LMF alone (R365). -/
theorem elect_lmf_only (b : Blk) : ∃ l, elect b = { b with lmf := l } := by
  unfold elect
  extract_lets own keys
  clear_value keys own
  split
  · exact ⟨_, rfl⟩
  · dsimp only
    split
    · exact ⟨_, rfl⟩
    · split
      · exact ⟨_, rfl⟩
      · exact ⟨b.lmf, rfl⟩

/-- The block with another chip number, in GEN and in the retained store (R33). -/
def withChip (n : Nat) (b : Blk) : Blk := { b with chip := n, pwr := { b.pwr with retained := { b.pwr.retained with chip := n } } }

/-- A write of GEN_CHIP that is admitted to an unlocked page. -/
theorem exec_genChipWrite_takes (takes : unitTakes who pgGEN b t) (unlocked : (t.hdr pgGEN).locked = false) :
    exec (.genChipWrite who w) ⟨p, b⟩ = .next ⟨p,
      if ((List.range 32).any fun n => portActive t n) = true then pageErr pgGEN 0x06 t
      else if t.lmf.rootPrio < 255 then elect (withChip (bits w.toNat 0 10) t) else withChip (bits w.toNat 0 10) t⟩ := by
  rw [exec_genChipWrite, execGenChipWrite, act_on, onUnit_takes takes, unlessLocked_of_not unlocked]
  rfl

/-- The block at the end of its start: it is ready from now on (R459). -/
def nowReady (b : Blk) : Blk := b.pwrU fun x => { x with ready := true, readyFt := b.ft, idleFt := b.ft, starting := false }

theorem exec_readyReport_now (on : b.pwr.supplies = true) (starting : b.pwr.starting = true) (ready : readyNow b = true) :
    exec .readyReport ⟨p, b⟩ = .next ⟨p, if b.pwr.startKind = 2 then endWake (nowReady b) else nowReady b⟩ := by
  rw [exec_readyReport, execReadyReport, act_on, if_pos ⟨on, starting, ready⟩]
  rfl

theorem exec_suppliesValid_off (off : b.pwr.supplies = false) : exec .suppliesValid ⟨p, b⟩ = .next ⟨p, startUp b⟩ := by
  rw [exec_suppliesValid, execSuppliesValid, act_on, if_neg (by simp [off])]

theorem startUp_unsealed (h : b.pwr.retained.sealed' = false) :
    startUp b = coldStart { b with ft := 0, pwr := { b.pwr with armedFt := if b.pwr.pstate = 3 then 0 else 10000 } } :=
  if_neg (by simp [h])

theorem startUp_sealed (h : b.pwr.retained.sealed' = true) (whole : b.pwr.retained.crcOk = true) :
    startUp b = warmStart { b with ft := 0, pwr := { b.pwr with armedFt := if b.pwr.pstate = 3 then 0 else 10000 } } :=
  if_pos ⟨h, whole⟩

theorem exec_coreSupplyLoss_on (on : b.pwr.supplies = true) (below : b.pwr.pstate < 3) :
    exec .coreSupplyLoss ⟨p, b⟩ = .next ⟨p, goB3 b⟩ := by
  rw [exec_coreSupplyLoss, execCoreSupplyLoss, act_on, if_pos ⟨on, below⟩]

theorem exec_startGo_cold (takes : unitTakes who pgPWR b t) (go : w.getLsbD 2 = true) (starting : t.pwr.starting = true)
    (cold : t.pwr.coldStart = true) : exec (.startGo who w) ⟨p, b⟩ = .next ⟨p, t.pwrU fun x => { x with startGo := true }⟩ := by
  rw [exec_startGo, execStartGo, act_on, onUnit_takes takes, if_pos ⟨go, starting, cold⟩]

theorem exec_rsSealWrite_takes (takes : unitTakes who pgPWR b t) (unlocked : (t.hdr pgPWR).locked = false) :
    exec (.rsSealWrite who w) ⟨p, b⟩ =
      .next ⟨p, t.pwrU fun x => { x with retained := { x.retained with sealed' := w.getLsbD 0 } }⟩ := by
  rw [exec_rsSealWrite, execRsSealWrite, act_on, onUnit_takes takes, unlessLocked_of_not unlocked]

end

end Sys2Proof.Machine

namespace Sys2Proof

open Sys2Proof.Machine Sys2Proof.Safety

/-- Settles O15: a port in service makes the write an error of GEN; else only the election can write more, and it writes LMF. -/
theorem chipNumberHoldsWhilePortsServe : Obligations.ChipNumberHoldsWhilePortsServe := by
  intro p b t who w takes unlocked
  have exec_eq := exec_genChipWrite_takes (p := p) (w := w) takes unlocked
  refine ⟨fun serving => ?_, fun idle => ⟨_, exec_eq, ?_⟩⟩
  · rw [exec_eq, if_pos serving, pageErr]
  · rw [if_neg (by simp [idle])]
    split
    · obtain ⟨l, hl⟩ := elect_lmf_only (withChip (bits w.toNat 0 10) t)
      rw [hl, withChip]
    · rfl

/-- Settles O58, a clause at a time from the rules of the commands. -/
theorem startsComplete : Obligations.StartsComplete := by
  unfold Obligations.StartsComplete
  refine ⟨fun p b => exec_coreSupplyLoss_on, ?cold, ?warm, fun p b who w t => exec_startGo_cold, ?ready, ?woken,
    fun p b who w t => exec_rsSealWrite_takes, ?chip, fun p b => rfl⟩
  case cold =>
    intro p b off unsealed
    rw [exec_suppliesValid_off off, startUp_unsealed unsealed]
  case warm =>
    intro p b off sealed whole
    rw [exec_suppliesValid_off off, startUp_sealed sealed whole]
  case ready =>
    intro p b on starting now other
    rw [exec_readyReport_now on starting now]
    rw [if_neg other, nowReady]
  case woken =>
    intro p b on starting now woken
    rw [exec_readyReport_now on starting now]
    rw [if_pos woken, nowReady]
  case chip =>
    intro p b who w t takes unlocked idle noRoot
    rw [exec_genChipWrite_takes takes unlocked, if_neg (by simp [idle]), if_neg noRoot.not_gt, withChip]

end Sys2Proof

/-! The dark block (R48, R450, R453 to R456, R460): without supplies, in B3 or never started, a command either leaves the block as it is,
or is one of the few that SEC's always-on logic, a read or a power cycle serves; none of these starts the block or gives it a key or
work. -/

namespace Sys2Proof.Machine

open Sys2Proof.Safety

/-- No supply of the core is valid, and the block is in B3 or has never started. -/
def Asleep (b : Blk) : Prop := b.pwr.supplies = false ∧ (b.pwr.pstate = 0 ∨ b.pwr.pstate = 3)

/-- A command's answer leaves the whole block as it is. -/
def Rests (b : Blk) (f : State → Host.Outcome State Fault Refusal) : Prop := ∀ p, f ⟨p, b⟩ = .next ⟨p, b⟩

theorem next_of_eq {p : List Instr} {u b : Blk} (h : u = b) : (.next ⟨p, u⟩ : Host.Outcome State Fault Refusal) = .next ⟨p, b⟩ := by
  rw [h]

theorem cmdOn_of_rests {b : Blk} {f : State → Host.Outcome State Fault Refusal} (h : Rests b f) : cmdOn f b = b := by
  rw [cmdOn, h]

/-! ## Commands and accesses that an asleep block leaves unanswered -/

section Asleep

variable {b : Blk} (asleep : Asleep b)

include asleep

theorem pstate_ne_of_asleep {n : Nat} (low : n = 1 ∨ n = 2) : b.pwr.pstate ≠ n := by
  obtain ⟨-, h | h⟩ := asleep <;> omega

theorem unitsRun_asleep : unitsRun b = false := by simp [unitsRun, asleep.1]

theorem leaveB1_asleep : leaveB1 b = b := if_neg (pstate_ne_of_asleep asleep (.inl rfl))

/-- No access of any agent reaches a page. -/
theorem gatePower_asleep (who : Who) (pg : Nat) (write : Bool) : gatePower who pg write b = (b, false) := by
  obtain ⟨off, never | b3⟩ := asleep
  · exact if_pos ⟨off, by omega⟩
  · cases who <;> simp [gatePower, b3, requestWake]

theorem onUnit_asleep (who : Who) (pg : Nat) (k : Blk → Blk) : onUnit who pg b k = b := by
  simp [onUnit, gatePower_asleep asleep]

theorem onView_asleep (who : Who) (page pg : Nat) (k : Nat → Blk → Blk) : onView who page pg b k = b := by
  simp [onView, gatePower_asleep asleep]

theorem onRead_asleep (who : Who) (pg size : Nat) (k : Blk → Blk) : onRead who pg size b k = readWord 0 b := by
  simp [onRead, gatePower_asleep asleep]

theorem onSide_asleep (side : MbxSide) (c : Nat) (k : Blk → Blk) : onSide side c b k = b := by
  cases side with
  | host who => simp [onSide, onUnit_asleep asleep]
  | mp => simp [onSide, asleep.1]

theorem onRecord_asleep (kind : Nat) (r : Bytes) (k : Blk → Blk × Nat) : onRecord kind r b k = b := if_pos (.inl asleep.1)

theorem onDoorbell_asleep (who : Who) (page off size : Nat) (w : W32) : onDoorbell who page off size w b = b := by
  simp [onDoorbell, gatePower_asleep asleep]

theorem debugWord_asleep (who : Who) (w : W32) : debugWord who w b = b := by simp [debugWord, gatePower_asleep asleep]

theorem pcmdWord_asleep (who : Who) (w : W32) (hbmLost : Bool) : pcmdWord who w hbmLost b = b := by
  simp [pcmdWord, gatePower_asleep asleep]

theorem rungRequest_asleep (req : RungReq) (block : Bool) : rungRequest req block b = b := by
  cases req with
  | cmd who w => exact onUnit_asleep asleep who pgRCV _
  | mp => simp [rungRequest, asleep.1]

/-- Only a block in B2 wakes. -/
theorem wake_asleep (cause line : Nat) (hbmLost : Bool) : wake cause line hbmLost b = b :=
  if_pos (pstate_ne_of_asleep asleep (.inr rfl))

theorem freezeWrite_asleep (who : Who) (off : Nat) (w : W32) : freezeWrite who off w b = b := by
  unfold freezeWrite
  split
  · exact onView_asleep asleep _ _ _ _
  · split <;> simp [gatePower_asleep asleep]

theorem errorClear_asleep (who : Who) (off : Nat) (w : W32) : errorClear who off w b = b := by
  unfold errorClear
  split
  · exact onView_asleep asleep _ _ _ _
  · split <;> simp [onUnit_asleep asleep]

theorem lockPageWrite_asleep (who : Who) (off : Nat) (w : W32) : lockPageWrite who off w b = b := by
  unfold lockPageWrite
  split
  · exact onView_asleep asleep _ _ _ _
  · split <;> simp [onUnit_asleep asleep]

theorem satClear_asleep (who : Who) (off : Nat) (w : W32) : satClear who off w b = b := by
  unfold satClear
  split
  · exact onView_asleep asleep _ _ _ _
  · split <;> simp [onUnit_asleep asleep]

end Asleep

/-! ## Which commands an asleep block answers at all -/

/-- An event of a unit's own waits for the unit (R48, R489). -/
theorem exec_unit_event {c : Instr} {pg : Nat} (event : eventPage c = some pg) (p : List Instr) (b : Blk) :
    ∃ u, exec c ⟨p, b⟩ = .next ⟨p, if unitsRun b && !frozenUnit b pg then u else b⟩ := by
  unfold eventPage at event
  split at event <;> cases event <;> exact ⟨_, rfl⟩

/-- An event of the link layer waits for Lemdy (R48, R360). -/
theorem exec_link_event {c : Instr} (event : linkEvent c = true) (p : List Instr) (b : Blk) :
    ∃ u, exec c ⟨p, b⟩ = .next ⟨p, if b.pwr.supplies ∧ b.pwr.pstate < 2 ∧ frozenUnit b pgLMF = false then u else b⟩ := by
  unfold linkEvent at event
  split at event <;> cases event <;> exact ⟨_, rfl⟩

/-- The commands that are looked at one by one: those an asleep block serves (the supplies, a power cycle, the always-on logic of SEC,
and reads), and REGISTER_WRITE, which acts as another command. -/
def singledOut : Instr → Bool
  | .suppliesValid | .powerCycle | .alarmTrip _ _ | .challengeExpiry _ | .debugLockoutExpiry | .fenceQueryRead _ _ _
    | .managerFenceQueryRead _ _ | .lockRead _ _ | .latchedPairRead _ _ _ | .registerWrite _ _ _ _ _ => true
  | _ => false

theorem exec_event_asleep {b : Blk} (asleep : Asleep b) {c : Instr} (event : ((eventPage c).isSome || linkEvent c) = true) :
    Rests b (exec c) := by
  intro p
  rcases Bool.or_eq_true_iff.mp event with unit | link
  · obtain ⟨pg, hpg⟩ := Option.isSome_iff_exists.mp unit
    obtain ⟨u, hu⟩ := exec_unit_event hpg p b
    rw [hu, if_neg (by simp [unitsRun_asleep asleep])]
  · obtain ⟨u, hu⟩ := exec_link_event link p b
    rw [hu, if_neg (by simp [asleep.1])]

/-- Every other command leaves an asleep block as it is. -/
theorem exec_rests_asleep {b : Blk} (asleep : Asleep b) {c : Instr} (other : singledOut c = false) : Rests b (exec c) := by
  cases event : (eventPage c).isSome || linkEvent c with
  | true => exact exec_event_asleep asleep event
  | false =>
    have off : b.pwr.supplies = false := asleep.1
    intro p
    cases c with
    | schLwaWrite | xltAreaWrite | ctxTablesWrite | tdHeadWrite | storeConfigWrite | portEnWrite | retrain | routingCommit
    | regulatorCtrlCommit | evcDoorbell | evcModeWrite | pendSet | pendClr | sourceConfigWrite | lockFreeWrite | lockBreak | startGo
    | rsSealWrite | genChipWrite | trgNow | arm | mark | tbHeadWrite | tbModeWrite | preempt | resume
    | mapPeer | unmapPeer | dirtyStart | dirtyStop | dirtyRearm | invalSlice
    | createPartition | destroyPartition | createSlice | modifySlice | destroySlice | grant | reclaim | createContext
    | destroyContext | pinContext | unpinContext | gcreate | gdestroy => exact next_of_eq (onUnit_asleep asleep _ _ _)
    | queueCreate | queueDestroy | viewContextCreate | viewContextDestroy | fenceStaleClear | fqHeadWrite | fqEnWrite | accClear
    | pnEnWrite | pnHeadWrite | niSelfWrite | niMgrReq | niRespSubmit | niMgrDrop | stHeadWrite | stEnWrite =>
      exact next_of_eq (onView_asleep asleep _ _ _ _)
    | mbxSend | mbxWithdraw | mbxRelease | mbxTake | mbxAck => exact next_of_eq (onSide_asleep asleep _ _ _)
    | identity | sliceKey | linkKey | erase | dbgGrant | dbgDeny => exact next_of_eq (onRecord_asleep asleep _ _ _)
    | sqDoorbellWrite | cqDoorbellWrite => exact next_of_eq (onDoorbell_asleep asleep _ _ _ _ _)
    | contextReset | engineReset | partitionReset | blockReset | dump => exact next_of_eq (rungRequest_asleep asleep _ _)
    | dbgReq | dbgDrop => exact next_of_eq (debugWord_asleep asleep _ _)
    | enterB2 | enterB3 => exact next_of_eq (pcmdWord_asleep asleep _ _ _)
    | counterSatClear => exact next_of_eq (satClear_asleep asleep _ _ _)
    | pageLockWrite => exact next_of_eq (lockPageWrite_asleep asleep _ _ _)
    | pageFreezeWrite => exact next_of_eq (freezeWrite_asleep asleep _ _ _)
    | pageErrorClear => exact next_of_eq (errorClear_asleep asleep _ _ _)
    | deviceDoorbell | signalPortWrite | pendingWrite => exact next_of_eq (by simp only [gatePower_asleep asleep])
    | arbitrationTurn => exact next_of_eq (if_pos (.inl (unitsRun_asleep asleep)))
    | wiredLineChange => exact next_of_eq (if_pos (.inr (.inr (.inl off))))
    | coreFaultLine | dumpComplete => exact next_of_eq (if_pos (.inr (.inr off)))
    | selfTestDone => exact next_of_eq (if_pos (.inr off))
    | ownershipPushAck | dumpReadTimeout | b1Entry | b2GraceEnd | coreSupplyLoss | readyReport => exact next_of_eq (if_neg (by simp [off]))
    | b1Exit cause => cases cause <;> exact next_of_eq (by simp only [leaveB1_asleep asleep, ite_self])
    | wake cause => cases cause <;> exact next_of_eq (by simp only [wake_asleep asleep, pcmdWord_asleep asleep, ite_self])
    | suppliesValid | powerCycle | alarmTrip | challengeExpiry | debugLockoutExpiry | fenceQueryRead | managerFenceQueryRead | lockRead
    | latchedPairRead | registerWrite => cases other
    | _ => cases event

/-! ## REGISTER_WRITE acts as the command of its word -/

/-- What a word of the window is taken for is a command that is not singled out. -/
def ActsAsCommand (o : Option (State → Host.Outcome State Fault Refusal)) : Prop :=
  ∀ f ∈ o, ∃ c, singledOut c = false ∧ f = exec c

theorem actsAsCommand_none : ActsAsCommand none := fun _ h => by cases h

theorem actsAsCommand_some (c : Instr) (other : singledOut c = false) : ActsAsCommand (some (exec c)) := fun _ h => by
  cases h
  exact ⟨c, other, rfl⟩

theorem cmdOn_asleep {b : Blk} (asleep : Asleep b) {o : Option (State → Host.Outcome State Fault Refusal)} (hcmd : ActsAsCommand o)
    {f : State → Host.Outcome State Fault Refusal} (hf : o = some f) : cmdOn f b = b := by
  obtain ⟨c, other, rfl⟩ := hcmd f hf
  exact cmdOn_of_rests (exec_rests_asleep asleep other)

theorem actsAsCommand_ownLow (who : Who) (pg rel : Nat) (w : W32) (ext : ExtRead) : ActsAsCommand (ownLow who pg rel w ext) := by
  unfold ownLow
  repeat' split
  any_goals exact actsAsCommand_none
  exacts [actsAsCommand_some (.genChipWrite who w) rfl,
    actsAsCommand_some (.enterB2 who w) rfl, actsAsCommand_some (.rsSealWrite who w) rfl, actsAsCommand_some (.startGo who w) rfl,
    actsAsCommand_some (.dbgReq who w) rfl,
    actsAsCommand_some (.ctxTablesWrite who 0x40 w) rfl, actsAsCommand_some (.ctxTablesWrite who 0x44 w) rfl,
    actsAsCommand_some (.ctxTablesWrite who 0x48 w) rfl, actsAsCommand_some (.createPartition who w ext) rfl,
    actsAsCommand_some (.tdHeadWrite who w) rfl,
    actsAsCommand_some (.evcModeWrite who w) rfl, actsAsCommand_some (.evcDoorbell who w) rfl,
    actsAsCommand_some (.sourceConfigWrite who w) rfl, actsAsCommand_some (.pendSet who _ w) rfl,
    actsAsCommand_some (.pendClr who _ w) rfl,
    actsAsCommand_some (.lockFreeWrite who _ w) rfl, actsAsCommand_some (.lockBreak who _ w) rfl]

theorem actsAsCommand_ownHigh (who : Who) (pg rel : Nat) (w : W32) (ext : ExtRead) : ActsAsCommand (ownHigh who pg rel w ext) := by
  unfold ownHigh
  repeat' split
  any_goals exact actsAsCommand_none
  exacts [actsAsCommand_some (.schLwaWrite who w) rfl, actsAsCommand_some (.preempt who w) rfl,
    actsAsCommand_some (.storeConfigWrite who 0x40 w) rfl, actsAsCommand_some (.storeConfigWrite who 0x44 w) rfl,
    actsAsCommand_some (.xltAreaWrite who 0x40 w) rfl, actsAsCommand_some (.xltAreaWrite who 0x44 w) rfl,
    actsAsCommand_some (.xltAreaWrite who 0x48 w) rfl, actsAsCommand_some (.mapPeer who w ext) rfl,
    actsAsCommand_some (.gcreate who w ext) rfl, actsAsCommand_some (.regulatorCtrlCommit who _ w) rfl,
    actsAsCommand_some (.portEnWrite who w) rfl, actsAsCommand_some (.retrain who _ w) rfl, actsAsCommand_some (.routingCommit who _ w) rfl,
    actsAsCommand_some (.contextReset (.cmd who w)) rfl,
    actsAsCommand_some (.tbModeWrite who w) rfl, actsAsCommand_some (.tbHeadWrite who w) rfl, actsAsCommand_some (.arm who w) rfl,
    actsAsCommand_some (.mark who w) rfl]

theorem actsAsCommand_ownView (who : Who) (page rel : Nat) (w : W32) : ActsAsCommand (ownView who page rel w) := by
  unfold ownView
  split
  any_goals exact actsAsCommand_none
  exacts [actsAsCommand_some (.queueCreate who page w) rfl, actsAsCommand_some (.deviceDoorbell who page 4 w) rfl,
    actsAsCommand_some (.viewContextCreate who page w) rfl, actsAsCommand_some (.signalPortWrite who page _ _) rfl,
    actsAsCommand_some (.signalPortWrite who page _ _) rfl, actsAsCommand_some (.signalPortWrite who page _ _) rfl,
    actsAsCommand_some (.signalPortWrite who page _ _) rfl, actsAsCommand_some (.fenceStaleClear who page w) rfl,
    actsAsCommand_some (.fqEnWrite who page w) rfl, actsAsCommand_some (.fqHeadWrite who page w) rfl,
    actsAsCommand_some (.accClear who page w) rfl, actsAsCommand_some (.pnEnWrite who page w) rfl,
    actsAsCommand_some (.pnHeadWrite who page w) rfl, actsAsCommand_some (.pendingWrite who page _ _) rfl,
    actsAsCommand_some (.pendingWrite who page _ _) rfl, actsAsCommand_some (.niSelfWrite who page w) rfl,
    actsAsCommand_some (.niRespSubmit who page w) rfl, actsAsCommand_some (.stEnWrite who page w) rfl,
    actsAsCommand_some (.stHeadWrite who page w) rfl]

section RegisterWrite

variable {b : Blk} (asleep : Asleep b)

include asleep

theorem headerWrite_asleep (who : Who) (off rel : Nat) (w : W32) : headerWrite who off rel w b = b := by
  unfold headerWrite
  split
  · exact freezeWrite_asleep asleep who off w
  · exact errorClear_asleep asleep who off w
  · exact lockPageWrite_asleep asleep who off w
  · rfl

theorem unitWrite_asleep (who : Who) (off pg rel : Nat) (w : W32) (ext : ExtRead) : unitWrite who off pg rel w ext b = b := by
  unfold unitWrite
  split
  · exact headerWrite_asleep asleep who off rel w
  · split
    · exact onUnit_asleep asleep who pg _
    · split
      next hf => exact cmdOn_asleep asleep (actsAsCommand_ownLow who pg rel w ext) hf
      · split
        next hf => exact cmdOn_asleep asleep (actsAsCommand_ownHigh who pg rel w ext) hf
        · exact onUnit_asleep asleep who pg _

theorem viewWrite_asleep (who : Who) (off page rel : Nat) (w : W32) : viewWrite who off page rel w b = b := by
  unfold viewWrite
  split
  · exact headerWrite_asleep asleep who off rel w
  · split
    next hf => exact cmdOn_asleep asleep (actsAsCommand_ownView who page rel w) hf
    · split
      · exact satClear_asleep asleep who off w
      · exact onView_asleep asleep who page _ _

theorem writeWord_asleep (who : Who) (off : Nat) (w : W32) (ext : ExtRead) : writeWord who off w ext b = b := by
  unfold writeWord
  split
  · exact viewWrite_asleep asleep who off _ _ w
  · split
    · exact unitWrite_asleep asleep who off _ _ w ext
    · simp [gatePower_asleep asleep]

theorem badSize_asleep (who : Who) (off : Nat) : badSize who off b = b := by simp [badSize, gatePower_asleep asleep]

/-- The debug port is barred from words in B2 alone. -/
theorem debugBars_asleep (who : Who) (off : Nat) : debugBars who off b = false := by
  simp [debugBars, pstate_ne_of_asleep asleep (.inr rfl)]

theorem writeAt_asleep (who : Who) (off size : Nat) (w hi : W32) (ext : ExtRead) : writeAt who off size w hi ext b = b := by
  unfold writeAt
  rw [badSize_asleep asleep, debugBars_asleep asleep, writeWord_asleep asleep, writeWord_asleep asleep]
  split
  · rfl
  · rw [if_neg Bool.false_ne_true]
    split
    · rfl
    · split
      · exact cmdOn_of_rests (exec_rests_asleep asleep (c := .pendingWrite who _ 0x310 _) rfl)
      · rfl

theorem exec_registerWrite_asleep (who : Who) (off size : Nat) (w hi : W32) : Rests b (exec (.registerWrite who off size w hi)) :=
  fun _ => next_of_eq (writeAt_asleep asleep who off size w hi .timedOut)

end RegisterWrite

/-! ## What the dark asks about -/

/-- The state that `dark` speaks of: PWR, the objects, the work and the keys. -/
def darkPart (b : Blk) :=
  (b.pwr, b.slices, b.contexts, b.queues, b.items, b.mar.runs, b.tre.works, b.sec.sliceKeys, b.sec.linkKeys)

/-- The block of a dark state. -/
structure DarkBlk (b : Blk) : Prop where
  asleep : Asleep b
  slices : b.slices = []
  contexts : b.contexts = []
  queues : b.queues = []
  items : b.items = []
  runs : b.mar.runs = []
  works : b.tre.works = []
  sliceKeys : b.sec.sliceKeys = []
  linkKeys : b.sec.linkKeys = []

theorem dark_iff {s : State} : dark s ↔ DarkBlk s.blk ∧ Instr.suppliesValid ∉ s.pending := by
  constructor
  · rintro ⟨off, low, noStart, slices, contexts, queues, items, runs, works, sliceKeys, linkKeys⟩
    exact ⟨⟨⟨off, low⟩, slices, contexts, queues, items, runs, works, sliceKeys, linkKeys⟩, noStart⟩
  · rintro ⟨⟨⟨off, low⟩, slices, contexts, queues, items, runs, works, sliceKeys, linkKeys⟩, noStart⟩
    exact ⟨off, low, noStart, slices, contexts, queues, items, runs, works, sliceKeys, linkKeys⟩

theorem DarkBlk.of_darkPart_eq {b u : Blk} (dark : DarkBlk b) (same : darkPart u = darkPart b) : DarkBlk u := by
  simp only [darkPart, Prod.mk.injEq] at same
  obtain ⟨pwr, slices, contexts, queues, items, runs, works, sliceKeys, linkKeys⟩ := same
  exact ⟨by rw [Asleep, pwr]; exact dark.asleep, slices.trans dark.slices, contexts.trans dark.contexts, queues.trans dark.queues,
    items.trans dark.items, runs.trans dark.runs, works.trans dark.works, sliceKeys.trans dark.sliceKeys, linkKeys.trans dark.linkKeys⟩

/-! ## Reads, the always-on logic of SEC, and time leave it -/

section DarkPart

variable (b : Blk)

@[simp] theorem readWord_darkPart (v : Nat) : darkPart (readWord v b) = darkPart b := rfl

@[simp] theorem latchWord_darkPart (who : Who) (off : Nat) (w : W32) : darkPart (latchWord who off w b) = darkPart b := by
  unfold latchWord
  split <;> rfl

theorem readLock_darkPart (who : Who) (l : Nat) : darkPart (readLock who l b) = darkPart b := by
  unfold readLock
  repeat' split
  all_goals rfl

theorem readUnit_darkPart (who : Who) (off pg : Nat) (i : PageInfo) (rel : Nat) :
    darkPart (readUnit who off pg i rel b).1 = darkPart b := by
  unfold readUnit
  split
  · exact readLock_darkPart b who _
  · split
    · rfl
    · split
      · rfl
      · split
        · dsimp only
          split <;> simp
        · split <;> rfl

theorem readView_darkPart (who : Who) (slice rel : Nat) : darkPart (readView who slice rel b).1 = darkPart b := by
  unfold readView
  dsimp only
  split
  · rfl
  · split
    · simp
    · split <;> rfl

theorem readOne_darkPart (who : Who) (off : Nat) : darkPart (readOne who off b).1 = darkPart b := by
  unfold readOne
  split
  · split
    · exact readView_darkPart b who _ _
    · rfl
  · split
    · exact readUnit_darkPart b who off _ _ _
    · rfl

@[simp] theorem seeOne_darkPart (who : Who) (off : Nat) : darkPart (seeOne who off b).1 = darkPart b := by
  unfold seeOne
  split
  · rfl
  · exact readOne_darkPart b who off

theorem tick_darkPart : darkPart b.tick = darkPart b := by
  obtain ⟨ft, lmf, htick, -⟩ := tick_cases b
  rw [htick]
  rfl

variable {b}

/-- Whether a read of an asleep block passes or not, it finds the block as it is. -/
theorem readPass_asleep (asleep : Asleep b) (who : Who) (off : Nat) :
    ∃ ok, (if isDebug who then
        (if b.pwr.pstate < 2 ∧ alwaysOn (gatePage who off) = false then leaveB1 b else b, b.pwr.supplies || b.pwr.pstate == 3)
      else gatePower who (gatePage who off) false b) = (b, ok) := by
  rw [leaveB1_asleep asleep, gatePower_asleep asleep, ite_self]
  split
  · exact ⟨_, rfl⟩
  · exact ⟨_, rfl⟩

theorem readAt_darkPart (asleep : Asleep b) (who : Who) (off size : Nat) : darkPart (readAt who off size b) = darkPart b := by
  obtain ⟨ok, pass⟩ := readPass_asleep asleep who off
  unfold readAt
  simp only [pass]
  cases ok with
  | false => exact readWord_darkPart b 0
  | true =>
    dsimp only
    split
    · exact readWord_darkPart b 0
    · split
      · rw [readWord_darkPart, seeOne_darkPart]
      · rw [readWord_darkPart, seeOne_darkPart, seeOne_darkPart]

/-- In B3 an alarm writes SEC's record of it, and no trace (R444, R468). -/
theorem logAlarm_b3 (b3 : b.pwr.pstate = 3) (n slice : Nat) :
    ∃ f : Sec → Sec, logAlarm n slice b = b.secU f ∧
      (f b.sec).sliceKeys = b.sec.sliceKeys ∧ (f b.sec).linkKeys = b.sec.linkKeys := by
  have asleepLogic : ¬ b.pwr.pstate < 2 := by omega
  exact ⟨_, if_neg asleepLogic, rfl, rfl⟩

/-- In B3 a sensor's trip is only logged (R443). -/
theorem tripSensor_darkPart (b3 : b.pwr.pstate = 3) (n slice : Nat) : darkPart (tripSensor n slice b) = darkPart b := by
  obtain ⟨f, logged, sliceKeys, linkKeys⟩ := logAlarm_b3 b3 n slice
  unfold tripSensor
  split
  · rfl
  · rw [logged]
    have still : 3 ≤ (b.secU f).pwr.pstate := b3.ge
    rw [if_pos still]
    simp [darkPart, sliceKeys, linkKeys]

end DarkPart

/-- Of all the commands only SUPPLIES_VALID can end the dark. -/
theorem exec_keeps_darkBlk {b : Blk} (dark : DarkBlk b) {c : Instr} (hc : c ≠ .suppliesValid) {p : List Instr} {t : State}
    (hexec : exec c ⟨p, b⟩ = .next t) : DarkBlk t.blk := by
  have asleep := dark.asleep
  cases single : singledOut c with
  | false =>
    cases (exec_rests_asleep asleep single p).symm.trans hexec
    exact dark
  | true =>
    cases c with
    | suppliesValid => exact absurd rfl hc
    | powerCycle =>
      cases hexec
      exact ⟨⟨rfl, .inl rfl⟩, rfl, rfl, rfl, rfl, rfl, rfl, rfl, rfl⟩
    | alarmTrip sensor slice =>
      cases hexec
      refine dark.of_darkPart_eq ?_
      dsimp only
      split
      next trips =>
        obtain ⟨-, b3, -⟩ := trips
        exact tripSensor_darkPart (b3.resolve_left (by simp [asleep.1])) sensor slice
      · rfl
    | challengeExpiry slice =>
      cases hexec
      refine dark.of_darkPart_eq ?_
      dsimp only
      repeat' split
      all_goals rfl
    | debugLockoutExpiry =>
      cases hexec
      refine dark.of_darkPart_eq ?_
      dsimp only
      split <;> rfl
    | fenceQueryRead | managerFenceQueryRead | lockRead =>
      cases hexec
      exact dark.of_darkPart_eq (by simp only [onRead_asleep asleep, readWord_darkPart])
    | latchedPairRead who off size =>
      cases hexec
      exact dark.of_darkPart_eq (readAt_darkPart asleep who off size)
    | registerWrite who off size w hi =>
      cases (exec_registerWrite_asleep asleep who off size w hi p).symm.trans hexec
      exact dark
    | _ => cases single

end Sys2Proof.Machine

namespace Sys2Proof

open Sys2Proof.Machine Sys2Proof.Safety

/-- Settles O30: every table of the reset state is empty. -/
theorem resetIsDark : Obligations.ResetIsDark :=
  dark_iff.mpr ⟨⟨⟨rfl, .inl rfl⟩, rfl, rfl, rfl, rfl, rfl, rfl, rfl, rfl⟩, List.not_mem_nil⟩

/-- Settles O32: the front command is not SUPPLIES_VALID, so it leaves the block dark; a tick writes fabric time and its slew alone. -/
theorem darkIsKept : Obligations.DarkIsKept := by
  intro s t hdark hstep
  obtain ⟨dark, noStart⟩ := dark_iff.mp hdark
  refine dark_iff.mpr ⟨?_, fun hmem => noStart (step_pending_subset hstep hmem)⟩
  obtain ⟨_ | ⟨c, p⟩, b⟩ := s
  · cases hstep
    exact dark.of_darkPart_eq (tick_darkPart b)
  · exact exec_keeps_darkBlk dark (fun hc => noStart (hc ▸ List.mem_cons_self)) hstep

end Sys2Proof

/-! Work items in a unit's turn (R75, R79): what a unit's event and a command of the submission entry come to for an item that may run. -/

namespace Sys2Proof.Machine

open Sys2Proof.Safety

section

variable {b : Blk} {p : List Instr} {i op pg : Nat} {it : Item}

/-- The command of an item that may run is its effect, and then all that may go on goes on. -/
theorem actUnit_command {k : Item → Blk → Blk} (on : unitOn pg b) (runs : itemRuns i op pg b it) :
    actUnit pg (fun b => command i op pg b k) ⟨p, b⟩ = .next ⟨p, settle (k it b)⟩ := by
  obtain ⟨found, may⟩ := runs
  rw [actUnit_on on, command, found]
  simp only [may, if_true]

end

end Sys2Proof.Machine

/-! Queues (R56 to R64, R77, R79, R102, R106, R227, R503): doorbells, Q_CMD, the end of a drain, and the turns of queues and items. -/

namespace Sys2Proof.Machine

open Sys2Proof.Safety

/-! ## Doorbells -/

section Doorbell

variable {b t : Blk} {who : Who} {page off size s slot index : Nat} {w : W32} {q : Queue}

/-- A doorbell write that reaches its page and is made by the slice itself rings the slot of its offset. -/
theorem onDoorbell_takes (takes : pageTakes who pgQFE page s b t) (sized : size = 4 ∨ size = 8) (aligned : off % 8 = 0) (inside : off < 4096)
    (own : ownAccess t who s = true) : onDoorbell who page off size w b = ringDoorbell who s (off / 8) (w.toNat % 65536) t := by
  obtain ⟨gate, slice⟩ := takes
  have good : ((size == 4 || size == 8) && off % 8 == 0 && decide (off < 4096)) = true := by simp [sized, aligned, inside]
  simp [onDoorbell, gate, slice, good, own]

theorem ringDoorbell_of_get (found : b.queues.get? (qkey s slot) = some q) :
    ringDoorbell who s slot index b = ringSlot who s slot index q b := by
  simp [ringDoorbell, found]

/-- A new tail may give its context something to run. -/
theorem ringSlot_sq (sq : q.isSq = true) (noReset : b.rcv.blockPhase = 0) (live : ctxDestroying b q.ctx = false) (fits : index < 2 ^ q.log2) :
    ringSlot who s slot index q b = wakeContext q.ctx (b.updQueue (qkey s slot) fun x => { x with tail := index }) := by
  simp [ringSlot, sq, noReset, live, fits]

/-- A new head of a CQ lies within what is filled; it may make room for the contexts of the SQs paired with it. -/
theorem ringSlot_cq (cq : q.isSq = false) (noReset : b.rcv.blockPhase = 0) (fits : index < 2 ^ q.log2)
    (filled : (index + 2 ^ q.log2 - q.head) % 2 ^ q.log2 ≤ (q.tail + 2 ^ q.log2 - q.head) % 2 ^ q.log2) :
    ringSlot who s slot index q b = wakePaired s slot (b.updQueue (qkey s slot) fun x => { x with head := index }) := by
  simp [ringSlot, cq, noReset, fits, filled]

/-- A device doorbell with the Burgee of the page's own slice rings the slot that its word names. -/
theorem exec_deviceDoorbell_takes {p : List Instr} {ctx : Nat} (takes : pageTakes (.core s ctx) (pgView page) page s b t)
    (sized : size = 4 ∨ size = 8) :
    exec (.deviceDoorbell (.core s ctx) page size w) ⟨p, b⟩ =
      .next ⟨p, ringDoorbell (.core s ctx) s (bits w.toNat 0 9) (bits w.toNat 16 16) t⟩ := by
  obtain ⟨gate, slice⟩ := takes
  have good : sizeIs size = true := by simp [sizeIs, sized]
  simp [exec_deviceDoorbell, execDeviceDoorbell, act_on, gate, slice, good]

end Doorbell

/-! ## Q_CMD -/

section QueueCommand

variable {b t : Blk} {who : Who} {page s slot : Nat} {w : W32} {q : Queue}

theorem qCmd_create (takes : viewTakes who page s b t) (idle : (t.view s).qOp = none) (op : bits w.toNat 0 2 = 0)
    (aligned : (t.view s).qDesc % 64 = 0) :
    qCmd who page w b = createGo s (t.updView s fun v => { v with qOp := some (.create v.qDesc) }) := by
  rw [qCmd, onView_takes takes]
  simp [idle, op, aligned]

theorem qCmd_destroy (takes : viewTakes who page s b t) (idle : (t.view s).qOp = none) (op : bits w.toNat 0 2 = 1) :
    qCmd who page w b = destroyQueue s (bits w.toNat 16 9) t := by
  rw [qCmd, onView_takes takes]
  simp [idle, op]

/-- A descriptor in this chip's memory that the slice's range names and Swedikin may read comes at once. -/
theorem createGo_here {dva k n : Nat} (creating : (b.view s).qOp = some (.create dva))
    (seg : segOf b s false dva 32 = .ok ⟨dva, 32, .here k (.range s n)⟩) (admitted : admits b .swedikin s false k 32 = true)
    (readable : uncorrectable b k 32 = false) : createGo s b = createFrom s (loadLocal b k 32) b := by
  simp [createGo, creating, seg, admitted, readable, createGot]

/-- The queue that a descriptor describes (Table 02.1). -/
def describedQueue (d : Bytes) : Queue :=
  { isSq := field d 8 1 == 0, ring := field d 0 8, log2 := field d 9 1, cq := field d 0x0C 2, prio := field d 0x0E 1,
    pennantAll := bit (field d 0x0F 1) 0, ctx := field d 0x10 4 }

theorem createFrom_good {d : Bytes} (good : queueFault b s d = none) :
    createFrom s d b = qDone s 0 { b with queues := b.queues.set (qkey s (field d 0x0A 2)) (describedQueue d) } := by
  simp [createFrom, good, describedQueue]

/-- An SQ drains before its slot is free. -/
theorem destroyQueue_sq (found : t.queues.get? (qkey s slot) = some q) (sq : q.isSq = true) :
    destroyQueue s slot t = (t.updQueue (qkey s slot) fun x => { x with draining := true }).updView s fun v =>
      { v with qOp := some (.drain slot) } := by
  simp [destroyQueue, found, sq]

/-- A CQ that no SQ of its slice names is free at once. -/
theorem destroyQueue_cq (found : t.queues.get? (qkey s slot) = some q) (cq : q.isSq = false)
    (unpaired : (t.queues.any fun e => e.2.isSq && e.1 / 512 == s && e.2.cq == slot) = false) :
    destroyQueue s slot t = qDone s 0 (freeQueue (qkey s slot) t) := by
  simp only [destroyQueue, found, cq, unpaired, Bool.false_eq_true, if_false]

theorem drainEnd_drained (found : b.queues.get? (qkey s slot) = some q) (sq : q.isSq = true) (draining : q.draining = true)
    (op : (b.view s).qOp = some (.drain slot)) (noItems : sqItems b s slot = []) (noFetch : q.fetch = none) :
    drainEnd s slot b = (freeQueue (qkey s slot) b).updView s fun v => { v with qOp := none, qResult := 0 } := by
  simp [drainEnd, found, sq, draining, op, noItems, noFetch]

end QueueCommand

/-! ## Turns of queues and items -/

section Turns

variable {b u : Blk} {p : List Instr} {s slot i : Nat} {q : Queue} {it : Item}

/-- The slices with a deficit that counts: one that has nothing ready loses its own (R102). -/
def dropIdleDeficits (b : Blk) : Blk :=
  { b with slices := b.slices.mapVals fun k x => if (readySlices b).contains k then x else { x with deficit := 0 } }

/-- The turn of the SQ in a slot: it pays for `n` entries, reserves their CQ slots, and fetches them (R67, R102, R103). -/
def serveTurn (s slot n : Nat) (q : Queue) (b : Blk) : Blk :=
  fetchGo 9 s slot (((b.updSlice s fun x => { x with deficit := x.deficit - n, lastSlot := x.lastSlot.set q.prio slot }).updQueue (qkey s q.cq)
    fun y => { y with reserved := y.reserved + n }).updQueue (qkey s slot) fun y => { y with fetch := some ⟨y.head, n, .issued⟩ })

theorem exec_arbitrationTurn_serves {x : Slice} (on : unitOn pgQFE b) (ready : b.pwr.ready = true) (noGrace : b.pwr.graceFt = none)
    (picked : drrPick (readySlices b) (9 * (readySlices b).length + 1) (dropIdleDeficits b) = (u, some s))
    (slice : u.slices.get? s = some x) (slotPicked : pickSlot x (readySlots u s) = some (slot, q)) :
    exec .arbitrationTurn ⟨p, b⟩ = .next ⟨p, serveTurn s slot (readySize u (qkey s slot) q) q u⟩ := by
  obtain ⟨runs, notFrozen⟩ := on
  rw [dropIdleDeficits] at picked
  rw [exec_arbitrationTurn, execArbitrationTurn, act_on, if_neg (by simp [runs, notFrozen, ready, noGrace])]
  simp only [picked, slice, slotPicked, serveTurn]

theorem fetchArrived_data {bytes : Bytes} {ft : Fetch} (found : b.queues.get? (qkey s slot) = some q) (fetching : q.fetch = some ft)
    (issued : ft.state = .issued) :
    fetchArrived s slot (.data bytes) b = settle (takeEntries ft.count s slot 0 (.data bytes) (dropFetchReads s slot b)) := by
  simp [fetchArrived, found, fetching, issued]

/-- An item whose DEPEND is clear starts without a look at the failure flag of its SQ. -/
theorem startItem_independent (inTime : pastDeadline b.ft it.deadline = false) (noDepend : bit it.flags 2 = false) :
    startItem i it b = b.updItem i fun x => { x with started := true, startFt := b.ft, st := .running } := by
  simp [startItem, inTime, noDepend]

end Turns

end Sys2Proof.Machine

namespace Sys2Proof

open Sys2Proof.Machine Sys2Proof.Safety

/-- Settles O33, a clause at a time from the branch of its function that the clause's hypotheses select. What a turn
costs, how a destroyed SQ ends and when the head of a fetched queue moves are the model's choices (log 18, 20, 21). -/
theorem queueCommandsComplete : Obligations.QueueCommandsComplete := by
  unfold Obligations.QueueCommandsComplete
  refine ⟨?sqDoorbell, ?cqDoorbell, ?deviceDoorbell, ?create, ?destroySq, ?destroyCq, ?drainEnd, ?turn, ?entries, ?start, ?retry, ?expiry⟩
  case sqDoorbell =>
    intro p b who page off size w t s q takes sized aligned inside own found sq noReset live fits
    rw [exec_sqDoorbellWrite, execSqDoorbellWrite, act_on, onDoorbell_takes takes sized aligned inside own, ringDoorbell_of_get found,
      ringSlot_sq sq noReset live fits]
  case cqDoorbell =>
    intro p b who page off size w t s q takes sized aligned inside own found cq noReset fits filled
    rw [exec_cqDoorbellWrite, execCqDoorbellWrite, act_on, onDoorbell_takes takes sized aligned inside own, ringDoorbell_of_get found,
      ringSlot_cq cq noReset fits filled]
  case deviceDoorbell =>
    intro p b page size w t s ctx q takes sized found sq noReset live fits
    rw [exec_deviceDoorbell_takes takes sized, ringDoorbell_of_get found, ringSlot_sq sq noReset live fits]
  case create =>
    intro p b who page w t u s k n d takes idle op aligned hu seg admitted readable bytes good
    have creating : (u.view s).qOp = some (.create (t.view s).qDesc) := by simp [hu]
    rw [exec_queueCreate, execQueueCreate, act_on, qCmd_create takes idle op aligned, ← hu, createGo_here creating seg admitted readable,
      bytes, createFrom_good good, describedQueue]
  case destroySq =>
    intro p b who page w t s q takes idle op found sq
    rw [exec_queueDestroy, execQueueDestroy, act_on, qCmd_destroy takes idle op, destroyQueue_sq found sq]
  case destroyCq =>
    intro p b who page w t s q takes idle op found cq unpaired
    rw [exec_queueDestroy, execQueueDestroy, act_on, qCmd_destroy takes idle op, destroyQueue_cq found cq unpaired, qDone, freeQueue]
  case drainEnd =>
    intro p b s slot q on found sq draining op noItems noFetch
    rw [exec_queueDrainEnd, execQueueDrainEnd, actUnit_on on, drainEnd_drained found sq draining op noItems noFetch, freeQueue]
  case turn =>
    intro p b u s x slot q on ready noGrace picked slice slotPicked
    rw [exec_arbitrationTurn_serves on ready noGrace picked slice slotPicked, serveTurn]
  case entries =>
    intro p b s slot bytes q ft on found fetching issued
    rw [exec_entryReceived, execEntryReceived, actUnit_on on, fetchArrived_data found fetching issued]
  case start =>
    intro p b i it on found fresh running may inTime noDepend
    rw [exec_itemStart, execItemStart, actUnit_on on, ← startItem_independent inTime noDepend]
    simp [found, fresh, running, may]
  case retry =>
    intro p b i it r on found waits ended stall visible
    rw [exec_completionWriteRetry, execCompletionWriteRetry, actUnit_on on]
    simp [found, waits, ended, stall, visible]
  case expiry =>
    intro p b i it on found running fresh past
    rw [exec_itemDeadlineExpiry, execItemDeadlineExpiry, actUnit_on on, ← deadlineResult]
    simp [found, running, fresh, past]

end Sys2Proof

/-! Items of fences, of memory and of model slices (R86, R90 to R97, R122, R143, R155): what each command comes to once its checks
have passed. -/

namespace Sys2Proof.Machine

/-! ## FENCE_WAIT -/

section FenceWait

variable {b : Blk} {i f : Nat} {it : Item} {v : BitVec 64} {e : Fence}

/-- A value that the fence has reached ends the wait at once. -/
theorem armWait_reached (found : b.fen.fences.get? f = some e) (owned : e.owner = it.slice) (kept : e.abandoning = false) (reached : v ≤ e.value) :
    armWait i it f v b = endItem i okResult b := by
  simp [armWait, found, owned, kept, reached]

/-- A wait of a value still to come takes an entry of the waiter table while the table has room. -/
theorem armWait_arms (found : b.fen.fences.get? f = some e) (owned : e.owner = it.slice) (kept : e.abandoning = false) (ahead : e.value < v)
    (room : b.fen.table.length < 16384) :
    armWait i it f v b = ((traceRec 0x01 it.slice it.ctx v.toNat (f + it.sq * 2 ^ 16 + it.tag * 2 ^ 32) false b).fenU fun x =>
      { x with table := x.table ++ [{ item := i, value := v, deadline := it.deadline, fence := f, armedFt := b.ft }] }).updItem i fun x =>
        { x with st := .waiting, issued := true } := by
  simp [armWait, found, owned, kept, BitVec.not_le.mpr ahead, room.not_ge]

end FenceWait

/-! ## ALLOC -/

section Alloc

variable {b b' t : Blk} {i n f g a : Nat} {it : Item}

/-- A RESULT written on this chip publishes the choice in the same command. -/
theorem writeResult_done (written : itemWrite i it (field it.entry 0x20 8) (leBytes 8 a) b' = .done t)
    (performed : (t.lmf.outstanding.any fun q => q.why == .itemWrite i) = false) :
    writeResult i it n a b b' = publishAlloc i it n t := by
  rw [writeResult, written, withWrite, if_neg (by simp [performed])]

theorem publishAlloc_fence (fence : field it.entry 0x10 1 = 2) :
    publishAlloc i it f b = endItem i ⟨0, 5, fenceDetail b.chip f⟩ (b.fenU fun x => { x with
      fences := x.fences.set f { value := BitVec.ofNat 64 (field it.entry 0x28 8), owner := it.slice, creator := it.ctx } }) :=
  if_pos fence

/-- The range of an index becomes usable. -/
def validateRange (slice n : Nat) (b : Blk) : Blk :=
  match (rangesOf b slice).get? n with
  | some r => setRange slice n (some { r with valid := true }) b
  | none => b

theorem publishAlloc_range (memory : field it.entry 0x10 1 ≠ 2) :
    publishAlloc i it n b = endItem i ⟨0, 1, n⟩ (validateRange it.slice n b) := if_neg memory

/-- A slice below its share of fences takes the next free number. -/
theorem allocFence_takes (share : (b.slices.get? it.slice).all (fun s => decide (sliceFences b it.slice < s.maxFences)) = true)
    (taken : takeFenceNumber b = some (f, b')) : allocFence i it b = writeResult i it f f b b' := by
  have below : ¬ ((b.slices.get? it.slice).any fun s => decide (s.maxFences ≤ sliceFences b it.slice)) = true := by
    cases hs : b.slices.get? it.slice with
    | none => simp
    | some s => simpa [hs] using share
  rw [allocFence, if_neg below, taken]

/-- The range that an ALLOC makes at place `a` on the pages from granule `g` on, not usable before its RESULT is written. -/
def newRange (b : Blk) (it : Item) (a g : Nat) : Range :=
  { start := a, len := field it.entry 0x18 8, pa := mkPa b (field it.entry 0x10 1) (g % 2 ^ 30 * 65536), creator := it.ctx, valid := false }

/-- A range without a hint goes where pages and addresses are found for it. -/
theorem allocRange_places (noHint : field it.entry 0x28 8 = 0) (area : b.xlt.areaEn = true) (room : (rangesOf b it.slice).length < 1024)
    (pages : firstFit (freePages b it.slice (field it.entry 0x10 1)) (field it.entry 0x18 8 / 65536) = some g)
    (place : placeRange b it.slice (field it.entry 0x18 8) = some a) :
    allocRange i it b = writeResult i it (rangesOf b it.slice).fresh a b
      (setRange it.slice (rangesOf b it.slice).fresh (some (newRange b it a g)) b) := by
  simp [allocRange, noHint, area, room.not_ge, pages, place, newRange]

end Alloc

/-! ## SEQ_JOIN -/

/-- An item's read whose bytes have come goes on with them. -/
theorem withRead_data {b u : Blk} {i source : Nat} {off : Option Nat} {d : Bytes} {k : Bytes → Blk → Blk} :
    withRead i source off (.data d u) b k = k d u := rfl

end Sys2Proof.Machine

namespace Sys2Proof

open Sys2Proof.Machine Sys2Proof.Safety

/-- Settles O35: each item may run, and its clause's hypotheses select one branch of its command. -/
theorem objectItemsComplete : Obligations.ObjectItemsComplete := by
  unfold Obligations.ObjectItemsComplete
  refine ⟨?signalHere, ?signalAway, ?waitReached, ?waitArms, ?allocFence, ?allocRange, ?freeFence, ?freeRange⟩
  case signalHere =>
    intro p b i it u n on runs inTime visible here signalled
    rw [exec_fenceSignal, execFenceSignal, actUnit_command on runs]
    simp only [inTime, visible, here, signalled, Bool.false_eq_true, Bool.true_eq_false, if_false, if_true]
  case signalAway =>
    intro p b i it on runs inTime visible away
    rw [exec_fenceSignal, execFenceSignal, actUnit_command on runs]
    simp only [inTime, visible, away, Bool.false_eq_true, Bool.true_eq_false, if_false]
  case waitReached =>
    intro p b i it f on runs found owned kept reached
    rw [exec_fenceWait, execFenceWait, actUnit_command on runs, armWait_reached found owned kept reached, okResult]
  case waitArms =>
    intro p b i it f on runs found owned kept ahead room
    rw [exec_fenceWait, execFenceWait, actUnit_command on runs, armWait_arms found owned kept ahead room]
  case allocFence =>
    intro p b i it f u t on runs chooses fence share taken written performed
    rw [exec_alloc, execAlloc, actUnit_command on runs, ← publishAlloc_fence fence, ← writeResult_done written performed,
      ← allocFence_takes share taken]
    simp only [chooses, fence, if_true]
  case allocRange =>
    intro p b i it g a t on runs chooses kind noHint area room pages place written performed
    have memory : field it.entry 0x10 1 ≠ 2 := kind.ne
    have effect : allocRange i it b = endItem i ⟨0, 1, (rangesOf b it.slice).fresh⟩ (validateRange it.slice (rangesOf b it.slice).fresh t) := by
      rw [allocRange_places noHint area room pages place, newRange, writeResult_done written performed, publishAlloc_range memory]
    rw [exec_alloc, execAlloc, actUnit_command on runs]
    simp only [chooses, memory, if_false, effect]
    rfl
  case freeFence =>
    intro p b i it on runs fence owned
    rw [exec_free, execFree, actUnit_command on runs]
    simp only [fence, owned, if_true]
  case freeRange =>
    intro p b i it n r on runs kind found unnamed
    have memory : field it.entry 0x10 1 ≠ 2 := kind.ne
    rw [exec_free, execFree, actUnit_command on runs]
    simp only [memory, found, unnamed, Bool.false_eq_true, if_false]

/-- Settles O36: each item may run, and its clause's hypotheses select one branch of its command. A new model slice has the lowest free
index (log 11). -/
theorem modelItemsComplete : Obligations.ModelItemsComplete := by
  unfold Obligations.ModelItemsComplete
  refine ⟨?loadResident, ?loadNew, ?unpin, ?pin, ?join, ?leaveWaiting, ?leaveAdmitted⟩
  case loadResident =>
    intro p b i it n m on runs found src len staying resident
    rw [exec_modelLoad, execModelLoad, actUnit_command on runs]
    simp only [found, src, len, staying, resident, ne_eq, not_true, or_self, Bool.false_eq_true, if_false, if_true]
  case loadNew =>
    intro p b i it on runs unknown room
    rw [exec_modelLoad, execModelLoad, actUnit_command on runs]
    simp only [unknown, room.not_ge, if_false]
  case unpin =>
    intro p b i it n m on runs found off
    rw [exec_modelPin, execModelPin, actUnit_command on runs]
    simp only [found, off, if_true, okResult]
  case pin =>
    intro p b i it n m on runs found set unpinned share staying resident
    rw [exec_modelPin, execModelPin, actUnit_command on runs]
    simp only [found, set, unpinned, share.not_gt, staying, resident, Bool.false_eq_true, if_false, if_true, okResult]
  case join =>
    intro p b i it n r d u on runs found absent image good
    rw [exec_seqJoin, execSeqJoin, actUnit_command on runs]
    simp only [found, absent, image, withRead_data, good, Bool.not_true, Bool.false_eq_true, if_false]
  case leaveWaiting =>
    intro p b i it n r on runs found present waiting
    rw [exec_seqLeave, execSeqLeave, actUnit_command on runs]
    simp only [found, present, waiting, Bool.not_true, Bool.false_eq_true, if_false, if_true, okResult]
  case leaveAdmitted =>
    intro p b i it n r on runs found present admitted
    rw [exec_seqLeave, execSeqLeave, actUnit_command on runs]
    simp only [found, present, admitted, Bool.not_true, Bool.false_eq_true, if_false]

end Sys2Proof

/-! CTX (R110 to R140): a manager command that reaches its effect, the view page's commands, the registers, and what residency events do
to a context. -/

namespace Sys2Proof.Machine

open Sys2Proof.Safety

/-! ## Commands of the manager -/

section ManagerCommand

variable {b t u : Blk} {who : Who} {w : W32} {ext : ExtRead} {d : Bytes} {op : Nat}

/-- A known OP, with the tables in service and no command in progress, runs on the descriptor that CMD names. -/
theorem ccmd_data (takes : unitTakes who pgCTX b t) (idle : t.ctx.busy = false) (tables : t.ctx.tablesEn = true)
    (names : bits w.toNat 0 4 = op) (known : op < 11) (hu : u = t.ctxU fun x => { x with busy := true })
    (read : paRead u u.ctx.cmd 64 ext = .data d) : ccmd who w ext b = settle (cRun op d u) := by
  subst names hu
  rw [ccmd, onUnit_takes takes]
  simp only [idle, tables, known.not_ge, read, Bool.false_eq_true, Bool.true_eq_false, or_self, if_false]

theorem cRun_createPartition (good : cFieldsOk 0 d = true) : cRun 0 d b = createPartition d b := if_neg (by simp [good])
theorem cRun_createContext (good : cFieldsOk 7 d = true) : cRun 7 d b = createContext d b := if_neg (by simp [good])
theorem cRun_destroyContext (good : cFieldsOk 8 d = true) : cRun 8 d b = destroyContext d b := if_neg (by simp [good])
theorem cRun_pinContext (good : cFieldsOk 9 d = true) : cRun 9 d b = pinContext d b := if_neg (by simp [good])
theorem cRun_unpinContext (good : cFieldsOk 10 d = true) : cRun 10 d b = unpinContext d b := if_neg (by simp [good])

/-- A partition table that is not full has no entry for a TARGET beyond it (R111, R113). -/
theorem createPartition_targetOut (room : b.partitions.length < 64) (out : targetOk d 64 = false) : createPartition d b = cDone 0x17 0 b :=
  if_pos (.inr (.inr (.inr ⟨room, out⟩)))

/-- So a CREATE_PARTITION of such a TARGET ends with 0x17. -/
theorem exec_createPartition_targetOut {p : List Instr} (takes : unitTakes who pgCTX b t) (idle : t.ctx.busy = false)
    (tables : t.ctx.tablesEn = true) (names : bits w.toNat 0 4 = 0) (hu : u = t.ctxU fun x => { x with busy := true })
    (read : paRead u u.ctx.cmd 64 ext = .data d) (good : cFieldsOk 0 d = true) (room : u.partitions.length < 64)
    (out : targetOk d 64 = false) : exec (.createPartition who w ext) ⟨p, b⟩ = .next ⟨p, settle (cDone 0x17 0 u)⟩ := by
  rw [exec_createPartition, execCreatePartition, act_on, ccmd_data takes idle tables names (by decide) hu read, cRun_createPartition good,
    createPartition_targetOut room out]

end ManagerCommand

/-! ## Contexts -/

section Context

variable {b : Blk} {d : Bytes} {e : Context} {s c : Nat}

theorem createContext_good (allowed : contextRefused b (field d 4 2) = none) (free : b.contexts.has (cNumber b.contexts d) = false)
    (area : saveAreaOk b (field d 4 2) (field d 8 8) = true) :
    createContext d b = cDone 0 (cNumber b.contexts d) (newContext (cNumber b.contexts d) (field d 4 2) (field d 8 8) b) := by
  simp [createContext, allowed, free, area]

theorem destroyContext_live (found : b.contexts.get? (field d 0 2) = some e) (live : e.state ≠ .destroying) (once : e.destroyNext = none) :
    destroyContext d b = beginDestroy (field d 0 2) .manager b := by
  simp [destroyContext, found, live, once]

/-- A pin takes effect at once; its command waits for the context to be resident (R132). -/
theorem pinContext_live (found : b.contexts.get? (field d 0 2) = some e) (live : e.state ≠ .destroying)
    (room : e.pinned = true ∨ pinnedCount b < 2048) :
    pinContext d b = syncContext (field d 0 2) (seekSlot (field d 0 2)
      ((b.updContext (field d 0 2) fun x => { x with pinned := true }).ctxU fun x => { x with pinWait := some (field d 0 2) })) := by
  have below : ¬ (e.pinned = false ∧ 2048 ≤ pinnedCount b) := by
    rintro ⟨unpinned, full⟩
    exact room.elim (by simp [unpinned]) full.not_gt
  simp only [pinContext, found, live, below, if_false]

theorem unpinContext_live (found : b.contexts.get? (field d 0 2) = some e) (live : e.state ≠ .destroying) :
    unpinContext d b = cDone 0 0 (syncContext (field d 0 2) (b.updContext (field d 0 2) fun x => { x with pinned := false })) := by
  simp [unpinContext, found, live]

/-- A write of VOP that the page admits while no other is in progress. -/
theorem vcmd_takes {t : Blk} {who : Who} {page : Nat} {w : W32} (takes : viewTakes who page s b t) (idle : (t.view s).vBusy = false) :
    vcmd who page w b = settle (if bit w.toNat 0 then viewDestroy s (bits w.toNat 16 16) t else viewCreate s t) := by
  rw [vcmd, onView_takes takes, if_neg (by simp [idle])]

theorem viewCreate_good (allowed : contextRefused b s = none) (area : saveAreaOk b s (b.view s).save = true) :
    viewCreate s b = vDone s 0 b.contexts.fresh (newContext b.contexts.fresh s (b.view s).save b) := by
  simp [viewCreate, allowed, area]

theorem viewDestroy_own (found : b.contexts.get? c = some e) (own : e.slice = s) (live : e.state ≠ .destroying)
    (once : e.destroyNext = none) : viewDestroy s c b = beginDestroy c .view (b.updView s fun v => { v with vBusy := true }) := by
  simp [viewDestroy, found, own, live, once]

end Context

end Sys2Proof.Machine

namespace Sys2Proof

open Sys2Proof.Machine Sys2Proof.Safety

/-- Settles O43: the write or the event is let through, and its clause's hypotheses select one branch of what it does. A created context
takes its TARGET, or the lowest free number (R126). -/
theorem contextCommandsComplete : Obligations.ContextCommandsComplete := by
  unfold Obligations.ContextCommandsComplete
  refine ⟨?create, ?destroy, ?pin, ?unpin, ?viewCreate, ?viewDestroy, ?tablesOn, ?baseLow, ?baseHigh, ?tdHead, ?spilled, ?restored, ?admission⟩
  case create =>
    intro p b who w ext t u d takes idle tables op hu read good allowed free area
    rw [exec_createContext, execCreateContext, act_on, ccmd_data takes idle tables op (by decide) hu read, cRun_createContext good,
      createContext_good allowed free area]
  case destroy =>
    intro p b who w ext t u d e takes idle tables op hu read good found live once
    rw [exec_destroyContext, execDestroyContext, act_on, ccmd_data takes idle tables op (by decide) hu read, cRun_destroyContext good,
      destroyContext_live found live once]
  case pin =>
    intro p b who w ext t u d e takes idle tables op hu read good found live room
    rw [exec_pinContext, execPinContext, act_on, ccmd_data takes idle tables op (by decide) hu read, cRun_pinContext good,
      pinContext_live found live room]
  case unpin =>
    intro p b who w ext t u d e takes idle tables op hu read good found live
    rw [exec_unpinContext, execUnpinContext, act_on, ccmd_data takes idle tables op (by decide) hu read, cRun_unpinContext good,
      unpinContext_live found live]
  case viewCreate =>
    intro p b who page w t s takes idle create allowed area
    rw [exec_viewContextCreate, execViewContextCreate, act_on, vcmd_takes takes idle, if_neg (by simp [create]),
      viewCreate_good allowed area]
  case viewDestroy =>
    intro p b who page w t s e takes idle destroy found own live once
    rw [exec_viewContextDestroy, execViewContextDestroy, act_on, vcmd_takes takes idle, if_pos destroy,
      viewDestroy_own found own live once]
  case tablesOn =>
    intro p b who w t takes unlocked on low high
    rw [exec_ctxTablesWrite, execCtxTablesWrite, act_on, onUnit_takes takes, unlessLocked_of_not unlocked]
    simp only [on, low, high, and_self, if_true]
  case baseLow =>
    intro p b who w t takes unlocked off
    rw [exec_ctxTablesWrite, execCtxTablesWrite, act_on, onUnit_takes takes, unlessLocked_of_not unlocked]
    simp only [off, Bool.false_eq_true, if_false]
  case baseHigh =>
    intro p b who w t takes unlocked off
    rw [exec_ctxTablesWrite, execCtxTablesWrite, act_on, onUnit_takes takes, unlessLocked_of_not unlocked]
    simp only [off, Bool.false_eq_true, if_false]
  case tdHead =>
    intro p b who w t u takes fits filled hu
    subst hu
    rw [exec_tdHeadWrite, execTdHeadWrite, act_on, onUnit_takes takes]
    simp only [fits.not_ge, filled.not_gt, or_self, if_false]
  case spilled =>
    intro p b n e k a a2 u on found spilling slot hu pair
    subst hu
    rw [exec_spillDone, execSpillDone, actUnit_on on]
    simp only [found, spilling, slot, pair, ne_eq, not_true, if_false]
  case restored =>
    intro p b n e on found restoring
    rw [exec_restoreDone, execRestoreDone, actUnit_on on]
    simp only [found, restoring, ne_eq, not_true, if_false]
  case admission =>
    intro p b n rest on queue room
    have place : ¬ ((freeSlot b).isNone = true ∧ (victim b).isNone = true) := by
      rintro ⟨noSlot, noVictim⟩
      rw [Option.isNone_iff_eq_none] at noSlot noVictim
      simp [noSlot, noVictim] at room
    rw [exec_admissionServe, execAdmissionServe, actUnit_on on]
    simp only [queue, place, if_false]

end Sys2Proof

/-! A CREATE_PARTITION whose TARGET is no partition number (R111, R113): the refutation of the statement about CTX commands on
partitions. -/

namespace Sys2Proof.Machine

/-- A descriptor of CREATE_PARTITION with TARGET 64, one beyond the last partition, without AUTO, and with empty shares. -/
def partition64 : Bytes := 64 :: List.replicate 63 0

/-- A started block without partitions: its tables are in service at 2 MiB, and CMD names the descriptor at 2 GiB. -/
def awaitsPartition64 : Blk :=
  { pwr := { supplies := true, ready := true }
    ctx := { tablesEn := true, base := 0x200000, cmd := 0x80000000 }
    mem := [(0x80000000, 64)] }

/-- The block while the command runs. -/
def runsPartition64 : Blk := awaitsPartition64.ctxU fun x => { x with busy := true }

/-- What the clause of CREATE_PARTITION says of the block: the partition that the descriptor describes is made, and the command ends well. -/
def madePartition (d : Bytes) (b : Blk) : Blk :=
  cDone 0 (cNumber b.partitions d) (syncPartition (cNumber b.partitions d) { b with
    partitions := b.partitions.set (cNumber b.partitions d)
      { mask := BitVec.ofNat 64 (field d 0x20 8), hbmShare := field d 0x28 4, spShare := field d 0x2C 2, storeBlocks := field d 0x2E 2 } })

theorem paRead_runsPartition64 : paRead runsPartition64 runsPartition64.ctx.cmd 64 .poisoned = .data partition64 := by decide +kernel

theorem result_settle_refused64 : (settle (cDone 0x17 0 runsPartition64)).ctx.result = 0x17 := by decide +kernel

theorem result_settle_madePartition64 : (settle (madePartition partition64 runsPartition64)).ctx.result = 0 := by decide +kernel

end Sys2Proof.Machine

namespace Sys2Proof

open Sys2Proof.Machine Sys2Proof.Safety

/-- Refutes O42: its clause of CREATE_PARTITION does not ask that a TARGET without AUTO be in range, and neither does that of CREATE_SLICE.
TARGET 64 on a block without partitions meets the hypotheses; the command ends with 0x17 (R111, R113), where the clause says 0. -/
theorem not_partitionCommandsComplete : ¬ Obligations.PartitionCommandsComplete := by
  unfold Obligations.PartitionCommandsComplete
  rintro ⟨claim, -⟩
  have takes : unitTakes (.pf none true) pgCTX awaitsPartition64 awaitsPartition64 := ⟨rfl, rfl⟩
  have good : cFieldsOk 0 partition64 = true := by decide
  have refused : exec (.createPartition (.pf none true) 0#32 .poisoned) ⟨[], awaitsPartition64⟩ =
      .next ⟨[], settle (cDone 0x17 0 runsPartition64)⟩ :=
    exec_createPartition_targetOut takes rfl rfl rfl rfl paRead_runsPartition64 good (by decide) (by decide)
  have created : exec (.createPartition (.pf none true) 0#32 .poisoned) ⟨[], awaitsPartition64⟩ =
      .next ⟨[], settle (madePartition partition64 runsPartition64)⟩ :=
    claim [] awaitsPartition64 (.pf none true) 0#32 .poisoned awaitsPartition64 runsPartition64 partition64 takes rfl rfl rfl rfl
      paRead_runsPartition64 good (by decide) (by decide) (by decide) (by decide) (by decide) (by decide) (by decide) (by decide) (by decide)
  have same : settle (cDone 0x17 0 runsPartition64) = settle (madePartition partition64 runsPartition64) :=
    (State.mk.inj (Host.Outcome.next.inj (refused.symm.trans created))).2
  have results := result_settle_refused64
  rw [same, result_settle_madePartition64] at results
  exact absurd results (by decide)

end Sys2Proof

/-! Signals and waits of a live fence (R145, R146, R155): what a signal does on either side of VALUE, and which waits VALUE satisfies. -/

namespace Sys2Proof.Machine

section FenceValue

variable {b : Blk} {slice f : Nat} {v w : BitVec 64} {e : Fence}

/-- The last step to 255 and every one after it set STALE_SAT. -/
theorem Fence.stalePlus_eq (e : Fence) :
    e.stalePlus = { e with stale := min 255 (e.stale + 1), staleSat := e.staleSat || decide (255 ≤ e.stale + 1) } := by
  simp [Fence.stalePlus]

theorem applySignal_stale (found : b.fen.fences.get? f = some e) (owned : e.owner = slice) (stale : v ≤ e.value) :
    applySignal slice f v false b =
      (b.fenU fun x => { x with fences := x.fences.set f e.stalePlus, staleTotal := x.staleTotal.bump }, 1) := by
  simp [applySignal, found, owned, stale]

theorem applySignal_raises (found : b.fen.fences.get? f = some e) (owned : e.owner = slice) (above : e.value < v) :
    applySignal slice f v false b = (b.fenU fun x => { x with fences := x.fences.set f { e with value := v } }, 0) := by
  simp [applySignal, found, owned, BitVec.not_le.mpr above]

/-- A fence that is not being abandoned satisfies the waits of the values it has reached. -/
theorem satisfied_iff_le (found : b.fen.fences.get? f = some e) (kept : e.abandoning = false) : satisfied b f w = true ↔ w ≤ e.value := by
  simp [satisfied, found, kept]

end FenceValue

end Sys2Proof.Machine

namespace Sys2Proof

open Sys2Proof.Machine Sys2Proof.Safety

/-- Settles O10: a signal falls on one side of VALUE or the other, and every value is at or below an all-ones VALUE. At 255 STALE holds
and STALE_SAT is set (R145, log 120); the waits follow R146 and R155. -/
theorem fenceValuesOnlyRise : Obligations.FenceValuesOnlyRise := by
  unfold Obligations.FenceValuesOnlyRise
  intro b slice f e v found owned
  refine ⟨?stale, ?above, ?wait, ?waitZero, ?allOnes⟩
  case stale =>
    intro stale
    rw [applySignal_stale found owned stale, Fence.stalePlus_eq]
  case above => exact applySignal_raises found owned
  case wait =>
    intro kept w
    exact satisfied_iff_le found kept
  case waitZero =>
    intro kept i it here
    exact armWait_reached found (owned.trans here.symm) kept (BitVec.le_def.mpr (Nat.zero_le _))
  case allOnes =>
    intro top kept
    have reached : v ≤ e.value := by
      rw [top, BitVec.le_def, BitVec.toNat_allOnes]
      exact Nat.le_pred_of_lt v.isLt
    exact ⟨(satisfied_iff_le found kept).mpr reached, by rw [applySignal_stale found owned reached]⟩

end Sys2Proof

/-! Atomics at their home (R195, Table 05.5): what the atomic unit returns, leaves at the location and leaves elsewhere. -/

namespace Sys2Proof.Machine

section Atomic

variable {op : AtomOp} {k n v c old x y : Nat} {b : Blk}

/-! ## The location -/

theorem leNat_loadLocal_lt (b : Blk) (k n : Nat) : leNat (loadLocal b k n) < 2 ^ (8 * n) := by
  simpa [loadLocal] using leNat_lt (loadLocal b k n)

/-- A number stored where memory reads as bytes is read back modulo its size. -/
theorem leNat_loadLocal_storeLocal (wf : Memory.wf b.mem = true) (plain : b.ctx.spilled = []) (pos : 0 < n) :
    leNat (loadLocal (storeLocal k (leBytes n x) b) k n) = x % 2 ^ (8 * n) := by
  have filled : leBytes n x ≠ [] := List.ne_nil_of_length_pos (by rwa [leBytes_length])
  have back := stored_back b k (leBytes n x) wf plain filled
  rw [leBytes_length] at back
  rw [back, leNat_leBytes]

/-! ## The value that an atomic leaves -/

/-- Operands of `n` bytes leave a value of `n` bytes: no operation but the sum can carry out, and the sum is reduced. -/
theorem atomNew_lt (f32 : op = .addF32 → n = 4) (hold : old < 2 ^ (8 * n)) (hx : x < 2 ^ (8 * n)) :
    atomNew op n old x y < 2 ^ (8 * n) := by
  cases op with
  | add => exact Nat.mod_lt _ (Nat.two_pow_pos _)
  | minS | maxS | compareExchange =>
    rw [atomNew]
    split
    · exact hx
    · exact hold
  | minU => exact min_lt_of_left_lt hold
  | maxU => exact max_lt hold hx
  | and => exact Nat.and_lt_two_pow old hx
  | or => exact Nat.or_lt_two_pow hold hx
  | xor => exact Nat.xor_lt_two_pow hold hx
  | exchange => exact hx
  | addF32 =>
    obtain rfl := f32 rfl
    exact BitVec.isLt _

theorem toInt_atomNew_minS (pos : 0 < n) (hold : old < 2 ^ (8 * n)) (hx : x < 2 ^ (8 * n)) :
    (BitVec.ofNat (8 * n) (atomNew .minS n old x y)).toInt =
      min (BitVec.ofNat (8 * n) old).toInt (BitVec.ofNat (8 * n) x).toInt := by
  rw [atomNew, signedOf_int n old pos hold, signedOf_int n x pos hx]
  split
  next below => rw [min_eq_right below.le]
  next above => rw [min_eq_left (not_lt.mp above)]

theorem toInt_atomNew_maxS (pos : 0 < n) (hold : old < 2 ^ (8 * n)) (hx : x < 2 ^ (8 * n)) :
    (BitVec.ofNat (8 * n) (atomNew .maxS n old x y)).toInt =
      max (BitVec.ofNat (8 * n) old).toInt (BitVec.ofNat (8 * n) x).toInt := by
  rw [atomNew, signedOf_int n old pos hold, signedOf_int n x pos hx]
  split
  next above => rw [max_eq_right above.le]
  next below => rw [max_eq_left (not_lt.mp below)]

/-! ## The atomic unit -/

/-- Where FP32 add has its one size, every atomic acts on the bytes that it names. -/
theorem atomHere_eq (f32 : op = .addF32 → n = 4) :
    atomHere op k n v c b = (leNat (loadLocal b k n),
      if atomWrites op (leNat (loadLocal b k n)) (c % 2 ^ (8 * n)) then
        storeLocal k (leBytes n (atomNew op n (leNat (loadLocal b k n)) (v % 2 ^ (8 * n)) (c % 2 ^ (8 * n)))) b
      else b) := by
  have size : (if op = .addF32 then 4 else n) = n := by
    split
    next float => exact (f32 float).symm
    next => rfl
  simp only [atomHere, size]

theorem atomHere_of_not_writes (f32 : op = .addF32 → n = 4)
    (keeps : atomWrites op (leNat (loadLocal b k n)) (c % 2 ^ (8 * n)) = false) : (atomHere op k n v c b).2 = b := by
  simp [atomHere_eq f32, keeps]

theorem memGet_atomHere_other (f32 : op = .addF32 → n = 4) {a : Nat} (outside : a < k ∨ k + n ≤ a) :
    memGet (atomHere op k n v c b).2.mem a = memGet b.mem a := by
  rw [atomHere_eq f32]
  dsimp only
  split
  · rw [storeLocal_mem, memGet_memWrite_other _ _ _ _ (by rwa [leBytes_length])]
  · rfl

/-- An atomic that writes leaves `atomNew` at its location. -/
theorem leNat_loadLocal_atomHere (f32 : op = .addF32 → n = 4) (wf : Memory.wf b.mem = true) (plain : b.ctx.spilled = []) (pos : 0 < n)
    (writes : atomWrites op (leNat (loadLocal b k n)) (c % 2 ^ (8 * n)) = true) :
    leNat (loadLocal (atomHere op k n v c b).2 k n) =
      atomNew op n (leNat (loadLocal b k n)) (v % 2 ^ (8 * n)) (c % 2 ^ (8 * n)) := by
  have fits := atomNew_lt (y := c % 2 ^ (8 * n)) f32 (leNat_loadLocal_lt b k n) (Nat.mod_lt v (Nat.two_pow_pos (8 * n)))
  rw [atomHere_eq f32]
  dsimp only
  rw [if_pos writes, leNat_loadLocal_storeLocal wf plain pos, Nat.mod_eq_of_lt fits]

end Atomic

end Sys2Proof.Machine

namespace Sys2Proof

open Sys2Proof.Machine

/-- Settles O26: an atomic that writes leaves `atomNew`, and each clause says which value of Table 05.5 that is (R195). -/
theorem atomicsActAtTheirHome : Obligations.AtomicsActAtTheirHome := by
  unfold Obligations.AtomicsActAtTheirHome
  intro op k n v c b size f32 wf plain
  have pos : 0 < n := by omega
  have hold := leNat_loadLocal_lt b k n
  have hv := Nat.mod_lt v (Nat.two_pow_pos (8 * n))
  have ofNat_v : BitVec.ofNat (8 * n) (v % 2 ^ (8 * n)) = BitVec.ofNat (8 * n) v := BitVec.eq_of_toNat_eq (by simp)
  have leaves := leNat_loadLocal_atomHere (k := k) (v := v) (c := c) f32 wf plain pos
  refine ⟨by rw [atomHere_eq f32], fun a => memGet_atomHere_other f32, ?_⟩
  cases op with
  | add => rw [leaves rfl, atomNew, Nat.add_mod_mod]
  | exchange | minU | maxU => exact leaves rfl
  | compareExchange =>
    dsimp only
    split
    next same => rw [leaves (by simp [atomWrites, same]), atomNew, if_pos same]
    next other => exact atomHere_of_not_writes f32 (by simp [atomWrites, other])
  | minS => rw [leaves rfl, toInt_atomNew_minS pos hold hv, ofNat_v]
  | maxS => rw [leaves rfl, toInt_atomNew_maxS pos hold hv, ofNat_v]
  | and => rw [leaves rfl, ← ofNat_v]; exact BitVec.ofNat_and
  | or => rw [leaves rfl, ← ofNat_v]; exact BitVec.ofNat_or
  | xor => rw [leaves rfl, ← ofNat_v]; exact BitVec.ofNat_xor
  | addF32 =>
    obtain rfl := f32 rfl
    rw [leaves rfl, atomNew, show BitVec.ofNat 32 (v % 2 ^ (8 * 4)) = BitVec.ofNat 32 v from ofNat_v]

end Sys2Proof

/-! Translation and ownership (R207 to R211, R218, R501): what selects the mechanism of a DVA, and whom a granule admits. -/

namespace Sys2Proof.Machine

/-! ## Device virtual addresses -/

section Xlate

variable {b : Blk} {slice dva hva : Nat} {write : Bool}

theorem bits_57_7_eq_zero_iff (word : dva < 2 ^ 64) : bits dva 57 7 = 0 ↔ dva < 2 ^ 57 := by
  unfold bits
  omega

theorem bits_56_1_eq_one_iff (canonical : dva < 2 ^ 57) : bits dva 56 1 = 1 ↔ 2 ^ 56 ≤ dva := by
  unfold bits
  omega

theorem bits_56_1_eq_zero_iff (canonical : dva < 2 ^ 57) : bits dva 56 1 = 0 ↔ dva < 2 ^ 56 := by
  unfold bits
  omega

theorem xlate_noncanonical (high : 2 ^ 57 ≤ dva) : xlate b slice dva write = .fault 0x01 := if_pos high

theorem xlate_hostWindow (canonical : dva < 2 ^ 57) (window : 2 ^ 56 ≤ dva) : xlate b slice dva write = .host (dva - 2 ^ 56) := by
  rw [xlate, if_neg canonical.not_ge, if_pos window]

theorem xlateModel_ne_host : xlateModel b slice dva write ≠ .host hva := by
  unfold xlateModel
  dsimp only
  repeat' split
  all_goals nofun

/-- Below the host window the model window and the ranges give device addresses or faults. -/
theorem xlate_ne_host (device : dva < 2 ^ 56) : xlate b slice dva write ≠ .host hva := by
  rw [xlate, if_neg (by omega), if_neg device.not_ge]
  split
  next => nofun
  next =>
    split
    next => exact xlateModel_ne_host
    next =>
      dsimp only
      repeat' split
      all_goals nofun

/-- A range that holds the DVA and admits the access gives the address at the same distance from its PA. -/
theorem xlate_range {i : Nat} {r : Range} (device : dva < 2 ^ 56) (notNull : 0x10000 ≤ dva)
    (notModel : ¬ (modelBase ≤ dva ∧ dva < modelBase + 1024 * modelSpan)) (found : findRange b slice dva = some (i, r))
    (may : (write && r.readOnly) = false) (inside : paInside (r.pa + (dva - r.start)) 1 = true) :
    xlate b slice dva write = .dev (r.pa + (dva - r.start)) (.range slice i) := by
  rw [xlate, if_neg (by omega), if_neg device.not_ge, if_neg notNull.not_gt, if_neg notModel, found]
  simp only [may, inside, Bool.false_eq_true, if_false, if_true]

end Xlate

/-! ## Granules -/

section Granule

variable {b : Blk} {frm : Origin} {slice k n : Nat} {write : Bool}

theorem granulesOf_one (pos : 0 < n) (one : k / 65536 = (k + n - 1) / 65536) : granulesOf k n = [k / 65536] := by
  rw [granulesOf, if_neg pos.ne', ← one, Nat.sub_self]
  rfl

theorem admits_owned {o : Nat} (pos : 0 < n) (one : k / 65536 = (k + n - 1) / 65536) (plain : protectedGranule b (k / 65536) = false)
    (owned : b.own.owner.get? (k / 65536) = some o) : admits b frm slice write k n = true ↔ o = slice := by
  simp [admits, granulesOf_one pos one, plain, owned]

theorem admits_unowned (pos : 0 < n) (one : k / 65536 = (k + n - 1) / 65536) (plain : protectedGranule b (k / 65536) = false)
    (unowned : b.own.owner.get? (k / 65536) = none) :
    admits b frm slice write k n = true ↔ frm = .swedikin ∧ slice = 0 ∧ write = true := by
  simp [admits, granulesOf_one pos one, plain, unowned, and_assoc]

/-- A piece of a write that this chip's memory refuses ends the whole write. -/
theorem putSegs_refused {ctx cls scope lim dva : Nat} {dl item : Option Nat} {why : ReqFor} {tgt : Target} {rest : List Seg} {bs : Bytes}
    (refused : admits b .swedikin slice true k n = false) :
    putSegs slice ctx cls scope dl item why lim (⟨dva, n, .here k tgt⟩ :: rest) bs b = none := by
  simp [putSegs, refused]

end Granule

end Sys2Proof.Machine

namespace Sys2Proof

open Sys2Proof.Machine

/-- Settles O9: an access of one granule asks that granule's owner alone, and a refused piece ends its write (R218, R501). -/
theorem ownersGuardGranules : Obligations.OwnersGuardGranules := by
  unfold Obligations.OwnersGuardGranules
  intro b frm slice k n write pos one plain
  exact ⟨fun o => admits_owned pos one plain, admits_unowned pos one plain, fun ctx cls scope lim dl item why dva tgt bs => putSegs_refused⟩

/-- Settles O7: the high bits place the DVA in one of three intervals, and `xlate` tests the same bounds. The clause on ranges also
follows R208, R211 and R29, and R294 for the model window that it leaves out. -/
theorem addressSelectsItsMechanism : Obligations.AddressSelectsItsMechanism := by
  unfold Obligations.AddressSelectsItsMechanism
  intro b slice dva write word
  rw [ne_eq, bits_57_7_eq_zero_iff word]
  refine ⟨fun high => xlate_noncanonical (not_lt.mp high), ?host, ?device, ?range⟩
  case host =>
    intro canonical window
    exact xlate_hostWindow canonical ((bits_56_1_eq_one_iff canonical).mp window)
  case device =>
    intro canonical device hva
    exact xlate_ne_host ((bits_56_1_eq_zero_iff canonical).mp device)
  case range =>
    intro i r canonical device
    exact xlate_range ((bits_56_1_eq_zero_iff canonical).mp device)

end Sys2Proof

/-! Events of XLT (R213 to R232): what ends a translation's wait, an invalidation's steps and a batch of page requests. -/

namespace Sys2Proof

open Sys2Proof.Machine Sys2Proof.Safety

/-- Settles O40: XLT runs, and its clause's hypotheses select one branch of the event. That an answer whose set is held waits, and that a
response failure stops the function's page requests, are the model's choices (log 39, 44). -/
theorem translationEventsComplete : Obligations.TranslationEventsComplete := by
  unfold Obligations.TranslationEventsComplete
  refine ⟨?ats, ?miss, ?invalidation, ?release, ?shootdown, ?abort, ?drain, ?close, ?success, ?failure⟩
  case ats =>
    intro p b s page hpa read write on outstanding
    rw [exec_atsCompletion, execAtsCompletion, actUnit_on on, if_pos outstanding]
  case miss =>
    intro p b n m k on found noWork core
    rw [exec_rangeCacheMissDone, execRangeCacheMissDone, actUnit_on on]
    simp only [found, noWork, core]
  case invalidation =>
    intro p b fn pasid hva pages itag on room
    rw [exec_atsInvalidationRequest, execAtsInvalidationRequest, actUnit_on on, if_neg room.not_ge]
  case release =>
    intro p b holder on boundary
    rw [exec_holdRelease, execHoldRelease, actUnit_on on, if_pos boundary]
  case shootdown =>
    intro p b k x on found performed
    rw [exec_shootdownAck, execShootdownAck, actUnit_on on]
    simp only [found]
    rw [if_neg]
    rw [List.any_eq_true]
    rintro ⟨y, out, waits⟩
    obtain ⟨notWrite, notRead⟩ := forall_and.mp (performed y out)
    split at waits
    next c n why => exact notWrite n (beq_iff_eq.mp waits ▸ why)
    next c n why => exact notRead n (beq_iff_eq.mp waits ▸ why)
    next => exact Bool.false_ne_true waits
  case abort =>
    intro p b n x on found late
    rw [exec_invalidationAbort, execInvalidationAbort, actUnit_on on]
    simp only [found, late, if_true]
  case drain =>
    intro p b n lines a on found late
    rw [exec_abortDrainExpiry, execAbortDrainExpiry, actUnit_on on]
    simp only [found, late, if_true]
  case close =>
    intro p b s x on found share room
    rw [exec_faultBatchClose, execFaultBatchClose, actUnit_on on]
    simp only [found, share.not_gt, room.not_gt, and_false, if_false]
  case success =>
    intro p b fn prg n x on found good
    subst good
    rw [exec_prgResponse, execPrgResponse, actUnit_on on]
    simp [found]
  case failure =>
    intro p b fn prg n x on found bad
    rw [exec_prgResponse, execPrgResponse, actUnit_on on]
    simp only [found, bad, if_false]

end Sys2Proof

/-! XLT's fault queue, dirty logging, commands and area registers (R212, R228, R233 to R243). -/

namespace Sys2Proof.Machine

open Sys2Proof.Safety

/-! ## Commands -/

section XltCommand

variable {b t u : Blk} {who : Who} {w : W32} {ext : ExtRead} {d : Bytes} {op s : Nat}

/-- A known OP runs on the descriptor that XCMD names while no command is in progress. -/
theorem xcmd_data (takes : unitTakes who pgXLT b t) (idle : t.xlt.xbusy = false) (names : bits w.toNat 0 4 = op) (known : op < 6)
    (hu : u = t.xltU fun x => { x with xbusy := true }) (read : paRead u u.xlt.xcmd 64 ext = .data d) :
    xcmd who w ext b = settle (xRun op d u) := by
  subst names hu
  rw [xcmd, onUnit_takes takes]
  simp only [idle, known.not_ge, read, Bool.false_eq_true, if_false]

theorem xRun_mapPeer (good : xFieldsOk b 0 d = true) : xRun 0 d b = mapPeer (field d 0 2) d b := if_neg (by simp [good])
theorem xRun_unmapPeer (good : xFieldsOk b 1 d = true) : xRun 1 d b = unmapPeer (field d 0 2) d b := if_neg (by simp [good])
theorem xRun_dirtyStart (good : xFieldsOk b 2 d = true) : xRun 2 d b = dirtyStart (field d 0 2) d b := if_neg (by simp [good])
theorem xRun_dirtyStop (good : xFieldsOk b 3 d = true) : xRun 3 d b = dirtyStop (field d 0 2) b := if_neg (by simp [good])
theorem xRun_dirtyRearm (good : xFieldsOk b 4 d = true) : xRun 4 d b = dirtyRearm (field d 0 2) b := if_neg (by simp [good])
theorem xRun_invalSlice (good : xFieldsOk b 5 d = true) : xRun 5 d b = invalSlice (field d 0 2) b := if_neg (by simp [good])

/-- The range that MAP_PEER makes where its descriptor says. -/
def peerRange (d : Bytes) : Range :=
  { start := field d 8 8, len := field d 0x18 8, pa := field d 0x10 8, creator := 0xFFFF, readOnly := bit (field d 2 1) 0, peer := true }

/-- Memory of another chip is mapped at an address that no range of the slice uses. -/
theorem mapPeer_placed (area : b.xlt.areaEn = true) (room : (rangesOf b s).length < 1024) (peer : paChip (field d 0x10 8) ≠ b.chip)
    (notNull : 0x10000 ≤ field d 8 8) (free : overlapsRange b s (field d 8 8) (field d 0x18 8) = false)
    (device : field d 8 8 + field d 0x18 8 ≤ 2 ^ 56) :
    mapPeer s d b = xDone 0 (rangesOf b s).fresh (setRange s (rangesOf b s).fresh (some (peerRange d)) b) := by
  have given : field d 8 8 ≠ 0 := by omega
  simp only [mapPeer, area, room.not_ge, peer, given, notNull.not_gt, free, device.not_gt, Bool.true_eq_false, Bool.false_eq_true, or_self,
    and_false, if_false, peerRange]

theorem unmapPeer_found {n : Nat} {r : Range}
    (found : ((rangesOf b s).find? fun x => x.2.start == field d 8 8 && x.2.peer && x.2.valid) = some (n, r)) :
    unmapPeer s d b = startInval s [.range s n] false (.unmapPeer s n) b := by
  rw [unmapPeer, found]

/-- The dirty state that DIRTY_START gives a slice: the tables of its descriptor, and an empty ring. -/
def startedDirty (d : Bytes) : Dirty :=
  { hbmMap := field d 0x20 8, spMap := field d 0x28 8, ring := field d 0x30 8, ringLog2 := field d 0x38 1 }

theorem dirtyStart_new (off : b.xlt.dirty.has s = false) :
    dirtyStart s d b = xDone 0 0 (b.xltU fun t => { t with
      dirty := t.dirty.set s (startedDirty d)
      hostCache := t.hostCache.map fun e => if e.slice = s then { e with logged := false } else e }) := if_neg (by simp [off])

theorem dirtyStop_logging (logging : b.xlt.dirty.has s = true) :
    dirtyStop s b = finishDirty s (b.xltU fun t => { t with dirty := t.dirty.upd s fun d => { d with stopping := true } }) := if_pos logging

theorem dirtyRearm_logging (logging : b.xlt.dirty.has s = true) :
    dirtyRearm s b = xDone 0 0 (b.xltU fun t => { t with
      hostCache := t.hostCache.map fun e => if e.slice = s then { e with logged := false } else e }) := if_pos logging

end XltCommand

end Sys2Proof.Machine

namespace Sys2Proof

open Sys2Proof.Machine Sys2Proof.Safety

/-- Settles O41: the write or the event is let through, and its clause's hypotheses select one branch of what it does. The fields of a
notice's record, and what a queue out of service does with the records that wait, are the model's choices (log 40, 42). -/
theorem faultQueueComplete : Obligations.FaultQueueComplete := by
  unfold Obligations.FaultQueueComplete
  refine ⟨?fqHead, ?fqOn, ?fqOff, ?hot, ?accClear, ?dirtyHost, ?dirtyGranule, ?ringHead, ?mapPeer, ?unmapPeer, ?dirtyStart, ?dirtyStop,
    ?dirtyRearm, ?invalSlice, ?areaOn, ?areaLow, ?areaHigh⟩
  case fqHead =>
    intro p b who page w t s takes filled
    rw [exec_fqHeadWrite, execFqHeadWrite, act_on, onView_takes takes, if_neg filled.not_gt]
  case fqOn =>
    intro p b who page w t s takes enable keep off placed
    rw [exec_fqEnWrite, execFqEnWrite, act_on, onView_takes takes]
    simp only [enable, keep, off, placed, Bool.false_eq_true, Bool.true_eq_false, if_false, if_true]
  case fqOff =>
    intro p b who page w t s takes disable keep
    rw [exec_fqEnWrite, execFqEnWrite, act_on, onView_takes takes]
    simp only [disable, keep, Bool.false_eq_true, if_false, if_true]
  case hot =>
    intro p b s n a on found counting reached fresh enabled room
    rw [exec_hotNotice, execHotNotice, actUnit_on on]
    simp only [found, counting, reached.not_gt, fresh, enabled, room, Bool.false_eq_true, Bool.not_true, and_false, or_self, if_false, if_true]
  case accClear =>
    intro p b who page w t s takes clear
    rw [exec_accClear, execAccClear, act_on, onView_takes takes, if_pos clear]
  case dirtyHost =>
    intro p b s a d e on logging cached fresh room
    rw [exec_dirtyRecord, execDirtyRecord, actUnit_on on]
    simp only [logging, cached, fresh, room, Bool.false_eq_true, if_false, if_true]
  case dirtyGranule =>
    intro p b s a d on logging pending
    rw [exec_dirtyRecord, execDirtyRecord, actUnit_on on]
    simp only [logging, pending, Bool.false_eq_true, if_false, if_true]
  case ringHead =>
    intro p b s n d on logging fits filled
    rw [exec_dirtyRingHeadAdvance, execDirtyRingHeadAdvance, actUnit_on on]
    simp only [logging, fits.not_ge, filled.not_gt, or_self, if_false]
  case mapPeer =>
    intro p b who w ext t u d takes idle op hu read good area room peer notNull free device
    rw [exec_mapPeer, execMapPeer, act_on, xcmd_data takes idle op (by decide) hu read, xRun_mapPeer good,
      mapPeer_placed area room peer notNull free device, peerRange]
  case unmapPeer =>
    intro p b who w ext t u d n r takes idle op hu read good found
    rw [exec_unmapPeer, execUnmapPeer, act_on, xcmd_data takes idle op (by decide) hu read, xRun_unmapPeer good, unmapPeer_found found]
  case dirtyStart =>
    intro p b who w ext t u d takes idle op hu read good off
    rw [exec_dirtyStart, execDirtyStart, act_on, xcmd_data takes idle op (by decide) hu read, xRun_dirtyStart good, dirtyStart_new off,
      startedDirty]
  case dirtyStop =>
    intro p b who w ext t u d takes idle op hu read good logging
    rw [exec_dirtyStop, execDirtyStop, act_on, xcmd_data takes idle op (by decide) hu read, xRun_dirtyStop good, dirtyStop_logging logging]
  case dirtyRearm =>
    intro p b who w ext t u d takes idle op hu read good logging
    rw [exec_dirtyRearm, execDirtyRearm, act_on, xcmd_data takes idle op (by decide) hu read, xRun_dirtyRearm good,
      dirtyRearm_logging logging]
  case invalSlice =>
    intro p b who w ext t u d takes idle op hu read good
    rw [exec_invalSlice, execInvalSlice, act_on, xcmd_data takes idle op (by decide) hu read, xRun_invalSlice good]
  case areaOn =>
    intro p b who w t takes unlocked enable
    rw [exec_xltAreaWrite, execXltAreaWrite, act_on, onUnit_takes takes, unlessLocked_of_not unlocked]
    simp only [enable, if_true]
  case areaLow =>
    intro p b who w t takes unlocked off
    rw [exec_xltAreaWrite, execXltAreaWrite, act_on, onUnit_takes takes, unlessLocked_of_not unlocked]
    simp only [off, Bool.false_eq_true, if_false]
  case areaHigh =>
    intro p b who w t takes unlocked off
    rw [exec_xltAreaWrite, execXltAreaWrite, act_on, onUnit_takes takes, unlessLocked_of_not unlocked]
    simp only [off, Bool.false_eq_true, if_false]

end Sys2Proof

/-! The model store (R295 to R302): loads, failed banks and pages, repairs, and its registers. -/

namespace Sys2Proof

open Sys2Proof.Machine Sys2Proof.Safety

/-- Settles O45: MDL runs or the write is let through, and its clause's hypotheses select one branch of the command. That a failed
spare page or bank leaves the spares, and that MODEL_STORE_ERROR counts one absorbed fault, are the model's choices (log 94). -/
theorem modelStoreComplete : Obligations.ModelStoreComplete := by
  unfold Obligations.ModelStoreComplete
  refine ⟨?blockLoaded, ?page, ?bank, ?pieceReloaded, ?rows, ?enable⟩
  case blockLoaded =>
    intro p b n wk k m on work owner found loading more
    rw [exec_modelBlockLoaded, execModelBlockLoaded, actUnit_on on]
    simp only [work, owner, found]
    rw [if_pos ⟨loading, more⟩]
  case page =>
    intro p b n k on inService
    rw [exec_modelStoreError, execModelStoreError, actUnit_on on, if_neg (by simp [inService])]
  case bank =>
    intro p b n on inService
    rw [exec_modelStoreError, execModelStoreError, actUnit_on on, if_neg (by simp [inService])]
  case pieceReloaded =>
    intro p b n k a m on repaired found
    rw [exec_modelPieceReloaded, execModelPieceReloaded, actUnit_on on]
    simp only [repaired, found]
  case rows =>
    intro p b who w t takes unlocked outOfService rows blocks
    rw [exec_storeConfigWrite, execStoreConfigWrite, act_on, onUnit_takes takes, unlessLocked_of_not unlocked]
    simp only [rows.not_gt, blocks.not_gt, outOfService, Bool.false_eq_true, or_self, if_false]
  case enable =>
    intro p b who w t takes unlocked outOfService enable fits
    rw [exec_storeConfigWrite, execStoreConfigWrite, act_on, onUnit_takes takes, unlessLocked_of_not unlocked]
    simp only [enable, outOfService, fits, Bool.false_eq_true, if_false, if_true]

end Sys2Proof

/-! Runs (R92, R270 to R288): a Marionette for a run, its steps and their operations, faults of a step, and the ends of a run. -/

namespace Sys2Proof

open Sys2Proof.Machine Sys2Proof.Safety

/-- Settles O49: MAR runs, and its clause's hypotheses select one branch of the event. That STEP_START ends a follower's wait for
its plan, that a run ends only between steps, and that a KCOLL is kept until the second step after it starts, are the model's choices
(log 98, 124). -/
theorem runEventsComplete : Obligations.RunEventsComplete := by
  unfold Obligations.RunEventsComplete
  refine ⟨?assign, ?planTimeout, ?joinTimeout, ?stepStart, ?operationStart, ?operationComplete, ?commit, ?replay, ?final, ?failure, ?runEnd⟩
  case assign =>
    intro p b n r k sl on next unassigned marionette slot
    rw [exec_marionetteAssign, execMarionetteAssign, actUnit_on on]
    simp only [next, unassigned, marionette, slot]
  case planTimeout =>
    intro p b n r a on found waits follower noPlan late
    rw [exec_planTimeout, execPlanTimeout, actUnit_on on]
    simp only [found, waits]
    rw [if_pos ⟨follower, noPlan, late⟩]
  case joinTimeout =>
    intro p b n k r x on found fed follower planned admitted absent late
    subst fed
    rw [exec_admittedJoinTimeout, execAdmittedJoinTimeout, actUnit_on on]
    simp only [found]
    rw [if_pos ⟨follower, planned, admitted, absent, late⟩, abortResult]
  case stepStart =>
    intro p b n r x u on found planned due idle remains hx hu
    subst hx hu
    have starts : ¬ (r.phase ≠ .planned ∨ b.ft < r.startFt ∨ runIdle b r = false ∨ (r.steps ≠ 0 ∧ r.steps ≤ r.committed)) := by
      rintro (early | early | busy | ⟨bounded, done⟩)
      · exact early planned
      · exact early.not_ge due
      · exact Bool.false_ne_true (busy.symm.trans idle)
      · exact remains.elim bounded done.not_gt
    rw [exec_stepStart, execStepStart, actUnit_on on]
    simp only [found]
    rw [if_neg starts]
  case operationStart =>
    intro p b n r o on found names running started idle noFailure ready
    rw [exec_operationStart, execOperationStart, actUnit_on on]
    simp only [found, names]
    rw [if_pos ⟨running, started, idle, List.isEmpty_iff.mpr noFailure, ready⟩]
  case operationComplete =>
    intro p b n k r a on found running live noFailure ended good
    rw [exec_operationComplete, execOperationComplete, actUnit_on on]
    simp only [found]
    rw [if_pos ⟨running, live, List.isEmpty_iff.mpr noFailure⟩]
    simp only [ended, good, if_true]
  case commit =>
    intro p b n r on found running done noFailure readsBack
    rw [exec_stepCommit, execStepCommit, actUnit_on on]
    simp only [found]
    rw [if_pos ⟨running, done, List.isEmpty_iff.mpr noFailure, readsBack⟩]
  case replay =>
    intro p b n k fault r on found running first started replayable keeps
    rw [exec_stepRollback, execStepRollback, actUnit_on on]
    simp only [found]
    rw [if_pos ⟨running, first, started⟩, if_pos ⟨replayable, keeps⟩]
  case final =>
    intro p b n k r a a2 a3 on found running first started
    have ends : ¬ (stepFaultReplayable (.final a a2 a3) = true ∧ nokeepAt b n k r = false) := by simp [stepFaultReplayable]
    rw [exec_stepRollback, execStepRollback, actUnit_on on]
    simp only [found]
    rw [if_pos ⟨running, first, started⟩, if_neg ends, stepFaultResult]
  case failure =>
    intro p b n on isMarionette up
    rw [exec_marionetteFailure, execMarionetteFailure, actUnit_on on, if_pos ⟨isMarionette, up⟩]
  case runEnd =>
    intro p b n r on found ended
    rw [exec_runEnd, execRunEnd, actUnit_on on]
    simp only [found, ended, if_true]

end Sys2Proof

/-! Reductions in FP32 (R310): NaN, the order that maximum and minimum use, and sums with +0. -/

namespace Sys2Proof.Machine

/-! ## The order of numbers, and their sum -/

namespace Num

theorem below_irrefl (x : Num) : x.below x = false := by
  cases x <;> simp [below]

theorem below_asymm {x y : Num} (h : x.below y = true) : y.below x = false := by
  cases x with
  | nan => cases h
  | inf n => cases y <;> simp_all [below]
  | fin n m e =>
    cases y with
    | nan => rfl
    | inf n' => simp_all [below]
    | fin n' m' e' =>
      simp only [below, min_comm e' e, Bool.or_eq_true, Bool.and_eq_true, Bool.not_eq_true', decide_eq_true_eq] at h ⊢
      rcases h with less | ⟨⟨same, negative⟩, -⟩
      · simp [less.le, less.ne']
      · rw [same]
        simp [negative]

theorem add_comm (x y : Num) : x.add y = y.add x := by
  cases x with
  | nan => cases y <;> rfl
  | inf n =>
    cases y with
    | inf n' =>
      by_cases same : n = n'
      · rw [same]
      · simp [add, same, Ne.symm same]
    | _ => rfl
  | fin n m e =>
    cases y with
    | fin n' m' e' => simp only [add, min_comm e' e, Int.add_comm (scaled n' _ _), Bool.and_comm n']
    | _ => rfl

/-- Adding +0 keeps a value that is not zero, written at the exponent of the +0. -/
theorem add_posZero {n : Bool} {m : Nat} {e z : Int} (low : z ≤ e) (nonzero : m ≠ 0) :
    (fin n m e).add (fin false 0 z) = fin n (m * 2 ^ (e - z).toNat) z := by
  have pos : 0 < m * 2 ^ (e - z).toNat := by positivity
  simp only [add, scaled, min_eq_right low]
  generalize m * 2 ^ (e - z).toNat = s at pos
  cases n with
  | false => simp [pos.ne']
  | true => simp [pos.ne', pos]

theorem zero_add_posZero {n : Bool} {e z : Int} (low : z ≤ e) : (fin n 0 e).add (fin false 0 z) = fin false 0 z := by
  simp [add, scaled, min_eq_right low]

end Num

/-! ## Rounding leaves what a format holds -/

theorem rne_mul_two_pow (m k : Nat) : rne (m * 2 ^ k) (-k) = m := by
  cases k with
  | zero => simp [rne]
  | succ k => rw [Nat.cast_succ, ← Int.negSucc_eq, rne]; simp [(Nat.two_pow_pos _).ne]

theorem log2_mul_two_pow {m : Nat} (nonzero : m ≠ 0) (k : Nat) : Nat.log2 (m * 2 ^ k) = Nat.log2 m + k := by
  rw [Nat.log2_eq_iff (by positivity), pow_add, Nat.add_right_comm, pow_add]
  exact ⟨Nat.mul_le_mul_right _ (Nat.log2_self_le nonzero), Nat.mul_lt_mul_of_pos_right Nat.lt_log2_self (by positivity)⟩

/-- A mantissa at the exponent that the format gives its magnitude is kept, however far it has been shifted. -/
theorem Fmt.round_exact (f : Fmt) {m : Nat} {e : Int} (k : Nat) (nonzero : m ≠ 0)
    (fits : max ((Nat.log2 m : Int) + e) (1 - (f.bias : Int)) - f.mbits = e) :
    f.round (m * 2 ^ k) (e - k) = (e + f.mbits + f.bias - 1).toNat * 2 ^ f.mbits + m := by
  have same : ((Nat.log2 m + k : Nat) : Int) + (e - k) = Nat.log2 m + e := by omega
  have back : e - k - e = -(k : Int) := by omega
  rw [Fmt.round, if_neg (by positivity)]
  simp only [log2_mul_two_pow nonzero, same, fits, back, rne_mul_two_pow]

/-! ## FP32 words and their values -/

/-- The magnitude code of a word: all but its sign. -/
def F32.mag (x : F32) : Nat := x.toNat % 2 ^ 31
/-- The sign of a word. -/
def F32.isNeg (x : F32) : Bool := bit x.toNat 31

/-- A word is its sign and its magnitude code. -/
theorem F32.eq_sign_add_mag (x : F32) : BitVec.ofNat 32 ((if x.isNeg then 2 ^ 31 else 0) + x.mag) = x := by
  apply BitVec.eq_of_toNat_eq
  have bound := x.isLt
  simp only [isNeg, mag, bit, beq_iff_eq, BitVec.toNat_ofNat]
  split <;> omega

/-- What a word holds, by its magnitude code: a subnormal or zero, a normal value, an infinity or a NaN. -/
theorem F32.num_eq (x : F32) : x.num =
    if 0x7F7FFFFF < x.mag then (if x.mag = 0x7F800000 then .inf x.isNeg else .nan)
    else if x.mag / 2 ^ 23 = 0 then .fin x.isNeg x.mag (-149)
    else .fin x.isNeg (2 ^ 23 + x.mag % 2 ^ 23) ((x.mag / 2 ^ 23 : Nat) - 127 - 23) := by
  simp only [num, Fmt.decode, mag, isNeg, fp32, Fmt.width, Option.some.injEq, eq_comm (a := 0x7F800000)]
  rfl

theorem F32.mag_of_inf {x : F32} {n : Bool} (h : x.num = .inf n) : n = x.isNeg ∧ x.mag = 0x7F800000 := by
  rw [F32.num_eq] at h
  split_ifs at h with beyond infinite
  exact ⟨(Num.inf.inj h).symm, infinite⟩

/-- A finite word's magnitude code is made of its exponent and mantissa, and the exponent is the one of its magnitude. -/
theorem F32.mag_of_fin {x : F32} {n : Bool} {m : Nat} {e : Int} (h : x.num = .fin n m e) :
    n = x.isNeg ∧ x.mag ≤ 0x7F7FFFFF ∧ x.mag = (e + 149).toNat * 2 ^ 23 + m ∧ max ((Nat.log2 m : Int) + e) (-126) - 23 = e := by
  rw [F32.num_eq] at h
  split_ifs at h with beyond infinite subnormal
  case pos =>
    obtain ⟨rfl, rfl, rfl⟩ := Num.fin.inj h
    have log : Nat.log2 x.mag < 23 := Nat.log2_eq_log_two ▸ Nat.log_lt_of_lt_pow' (by decide) (by omega)
    exact ⟨rfl, by omega, by simp, by omega⟩
  case neg =>
    obtain ⟨rfl, rfl, rfl⟩ := Num.fin.inj h
    have log : Nat.log2 (2 ^ 23 + x.mag % 2 ^ 23) = 23 := (Nat.log2_eq_iff (by omega)).mpr (by omega)
    exact ⟨rfl, by omega, by omega, by omega⟩

/-! ## Sums with +0 -/

theorem F32.ofNum_inf {x : F32} {n : Bool} (h : x.num = .inf n) : F32.ofNum (.inf n) = x := by
  obtain ⟨rfl, mag⟩ := F32.mag_of_inf h
  conv_rhs => rw [← F32.eq_sign_add_mag x, mag]
  rfl

/-- A finite word is the encoding of its value, also where its mantissa is shifted to the least exponent. -/
theorem F32.ofNum_fin {x : F32} {n : Bool} {m : Nat} {e : Int} (h : x.num = .fin n m e) (nonzero : m ≠ 0) :
    F32.ofNum (.fin n (m * 2 ^ (e - -149).toNat) (-149)) = x := by
  obtain ⟨rfl, finite, mag, fits⟩ := F32.mag_of_fin h
  have shift : e - (e - -149).toNat = -149 := by omega
  have code : fp32.round (m * 2 ^ (e - -149).toNat) (-149) = x.mag := by
    have exactCode := Fmt.round_exact fp32 (e - -149).toNat nonzero fits
    have exponent : e + (fp32.mbits : Int) + fp32.bias - 1 = e + 149 := by simp only [fp32]; omega
    rw [shift, exponent] at exactCode
    exact exactCode.trans mag.symm
  conv_rhs => rw [← F32.eq_sign_add_mag x]
  simp only [ofNum, Fmt.encode, code]
  exact congrArg (BitVec.ofNat 32) (if_neg finite.not_gt)

theorem F32.eq_zero_of_mag {x : F32} (zero : x.mag = 0) (notNeg : x ≠ 0x80000000) : x = 0 := by
  have word := F32.eq_sign_add_mag x
  rw [zero] at word
  split at word
  · exact absurd word.symm notNeg
  · exact word.symm

/-- Adding +0 gives every word back, subnormals included, but for NaN and −0. -/
theorem F32.ofNum_add_posZero {x : F32} (number : x.num ≠ .nan) (notNeg : x ≠ 0x80000000) :
    F32.ofNum (x.num.add (.fin false 0 (-149))) = x := by
  cases h : x.num with
  | nan => exact absurd h number
  | inf n => exact F32.ofNum_inf h
  | fin n m e =>
    obtain ⟨-, -, mag, fits⟩ := F32.mag_of_fin h
    have low : -149 ≤ e := by omega
    by_cases zero : m = 0
    · subst zero
      rw [Nat.log2_zero] at fits
      have least : x.mag = 0 := by omega
      rw [Num.zero_add_posZero low, F32.eq_zero_of_mag least notNeg]
      rfl
    · rw [Num.add_posZero low zero, F32.ofNum_fin h zero]

/-! ## The operations -/

section ReduceOp

variable {a b : F32}

theorem reduceOp_nan {op : Nat} (nan : a.num = .nan ∨ b.num = .nan) : reduceOp op a b = 0x7FC00000 := by
  rcases nan with nanA | nanB
  · simp [reduceOp, nanA]
  · cases h : a.num <;> simp [reduceOp, h, nanB]

/-- Without NaN the operation is one of the three on the values. -/
theorem reduceOp_numbers {op : Nat} (ha : a.num ≠ .nan) (hb : b.num ≠ .nan) : reduceOp op a b =
    if op = 0 then F32.ofNum (a.num.add b.num)
    else if op = 1 then (if a.num.below b.num then b else a)
    else (if a.num.below b.num then a else b) := by
  unfold reduceOp
  split
  · exact absurd ‹_› ha
  · exact absurd ‹_› hb
  · rfl

theorem reduceOp_sum (ha : a.num ≠ .nan) (hb : b.num ≠ .nan) : reduceOp 0 a b = F32.ofNum (a.num.add b.num) := by
  rw [reduceOp_numbers ha hb, if_pos rfl]

theorem reduceOp_max (ha : a.num ≠ .nan) (hb : b.num ≠ .nan) : reduceOp 1 a b = if a.num.below b.num then b else a := by
  rw [reduceOp_numbers ha hb, if_neg one_ne_zero, if_pos rfl]

theorem reduceOp_min (ha : a.num ≠ .nan) (hb : b.num ≠ .nan) : reduceOp 2 a b = if a.num.below b.num then a else b := by
  rw [reduceOp_numbers ha hb, if_neg two_ne_zero, if_neg (by decide)]

theorem reduceOp_sum_comm : reduceOp 0 a b = reduceOp 0 b a := by
  by_cases nan : a.num = .nan ∨ b.num = .nan
  · rw [reduceOp_nan nan, reduceOp_nan nan.symm]
  · obtain ⟨ha, hb⟩ := not_or.mp nan
    rw [reduceOp_sum ha hb, reduceOp_sum hb ha, Num.add_comm]

/-- A maximum is an operand that neither operand is above. -/
theorem reduceOp_max_greatest (ha : a.num ≠ .nan) (hb : b.num ≠ .nan) : (reduceOp 1 a b = a ∨ reduceOp 1 a b = b) ∧
    (reduceOp 1 a b).num.below a.num = false ∧ (reduceOp 1 a b).num.below b.num = false := by
  rw [reduceOp_max ha hb]
  split
  case isTrue below => exact ⟨.inr rfl, Num.below_asymm below, Num.below_irrefl _⟩
  case isFalse notBelow => exact ⟨.inl rfl, Num.below_irrefl _, Bool.eq_false_iff.mpr notBelow⟩

/-- A minimum is an operand that neither operand is below. -/
theorem reduceOp_min_least (ha : a.num ≠ .nan) (hb : b.num ≠ .nan) : (reduceOp 2 a b = a ∨ reduceOp 2 a b = b) ∧
    a.num.below (reduceOp 2 a b).num = false ∧ b.num.below (reduceOp 2 a b).num = false := by
  rw [reduceOp_min ha hb]
  split
  case isTrue below => exact ⟨.inl rfl, Num.below_irrefl _, Num.below_asymm below⟩
  case isFalse notBelow => exact ⟨.inr rfl, Bool.eq_false_iff.mpr notBelow, Num.below_irrefl _⟩

end ReduceOp

end Sys2Proof.Machine

namespace Sys2Proof

open Sys2Proof.Machine

/-- Settles O25: NaN is asked about first, the order of values is irreflexive and asymmetric, exact addition commutes, and the encoding of
a word's value is the word. -/
theorem reductionsKeepFp32Rules : Obligations.ReductionsKeepFp32Rules := by
  unfold Obligations.ReductionsKeepFp32Rules
  refine ⟨?nan, ?comm, ?opposed, ?posZero, ?order, ?maxPosNeg, ?maxNegPos, ?minPosNeg, ?minNegPos⟩
  case nan => exact fun op a b => reduceOp_nan
  case comm => exact fun a b => reduceOp_sum_comm
  case opposed => decide
  case posZero =>
    intro a number notNeg
    have zero : (0 : F32).num = .fin false 0 (-149) := rfl
    rw [reduceOp_sum number (zero ▸ nofun), zero, F32.ofNum_add_posZero number notNeg]
  case order =>
    intro a b ha hb
    obtain ⟨isOperand, notA, notB⟩ := reduceOp_max_greatest ha hb
    exact ⟨isOperand, (reduceOp_min_least ha hb).1, notA, notB, (reduceOp_min_least ha hb).2⟩
  case maxPosNeg => decide
  case maxNegPos => decide
  case minPosNeg => decide
  case minNegPos => decide

end Sys2Proof

/-! Items of the transfer engines, of SCH and of MAR (R85, R92, R199, R304 to R311, R321), what the engines serve and lose, and group
commands (R304 to R306, R318, R319, R328, R330). -/

namespace Sys2Proof.Machine

open Sys2Proof.Safety

/-! ## Group commands -/

section GroupCommand

variable {b t u : Blk} {who : Who} {w : W32} {ext : ExtRead} {d bytes : Bytes} {op : Nat}

/-- A known OP runs on the descriptor that GCMD names while no group command is in progress. -/
theorem gcmd_data (takes : unitTakes who pgTRE b t) (idle : t.tre.gbusy = false) (names : bits w.toNat 0 2 = op) (known : op < 2)
    (hu : u = t.treU fun x => { x with gbusy := true }) (read : paRead u u.tre.gcmd 64 ext = .data d) :
    gcmd who w ext b = if op = 0 then createGroup d u else destroyGroup d u := by
  subst names hu
  rw [gcmd, onUnit_takes takes]
  simp only [idle, known.not_ge, read, Bool.false_eq_true, if_false]

/-- The member list of a group descriptor, of the bytes at MEMBERS. -/
def groupMembers (d bytes : Bytes) : List Nat := (List.range (field d 4 2)).map fun i => field bytes (2 * i) 2

/-- The group that a descriptor and its member list describe (Table 09.5). -/
def describedGroup (d bytes : Bytes) : Group :=
  { slice := field d 2 2, size := field d 4 2, rank := field d 6 2, ring := field d 8 1 == 1, members := groupMembers d bytes,
    resendBase := field d 0x18 8, resendBytes := field d 0x20 8 }

theorem createGroup_good (good : groupFieldsOk b d = true) (new : b.tre.groups.has (field d 0 2) = false)
    (read : paRead b (field d 0x10 8) (2 * field d 4 2) (.data []) = .data bytes) (members : membersOk b d (groupMembers d bytes) = true) :
    createGroup d b = gDone 0 (b.treU fun x => { x with groups := x.groups.set (field d 0 2) (describedGroup d bytes) }) := by
  have accepted : ¬ (groupFieldsOk b d = false ∨ b.tre.groups.has (field d 0 2) = true) := by simp [good, new]
  rw [groupMembers] at members
  simp only [createGroup, accepted, read, members, Bool.true_eq_false, if_false, describedGroup, groupMembers]

theorem destroyGroup_unused (found : b.tre.groups.has (field d 0 2) = true) (unused : groupInUse b (field d 0 2) = false) :
    destroyGroup d b = gDone 0 (b.treU fun x => { x with
      groups := x.groups.del (field d 0 2)
      colls := x.colls.keep fun _ c => c.group != field d 0 2
      ended := x.ended.filter fun e => e.1 != field d 0 2 }) := if_neg (by simp [found, unused])

end GroupCommand

end Sys2Proof.Machine

namespace Sys2Proof

open Sys2Proof.Machine Sys2Proof.Safety

/-- Settles O34: each item may run, and its clause's hypotheses select one branch of its command. A new run has the lowest free index
(log 11, 137). -/
theorem engineItemsComplete : Obligations.EngineItemsComplete := by
  unfold Obligations.EngineItemsComplete
  refine ⟨?copy, ?reduce, ?kvMove, ?collective, ?flushRange, ?launch, ?stepRun⟩
  case copy =>
    intro p b i it on runs
    rw [exec_copy, execCopy, actUnit_command on runs]
  case reduce =>
    intro p b i it on runs
    rw [exec_reduce, execReduce, actUnit_command on runs]
  case kvMove =>
    intro p b i it on runs
    rw [exec_kvMove, execKvMove, actUnit_command on runs]
  case collective =>
    intro p b i it g on runs found owned good
    rw [exec_collective, execCollective, actUnit_command on runs]
    simp only [found, owned, good, ne_eq, not_true, if_false]
  case flushRange =>
    intro p b i it on runs new
    rw [exec_flushRange, execFlushRange, actUnit_command on runs]
    simp only [new]
  case launch =>
    intro p b i it d u on runs cores place read good
    rw [exec_launch, execLaunch, actUnit_command on runs]
    simp only [List.isEmpty_iff, cores, place, read, withRead_data, good, if_false]
  case stepRun =>
    intro p b i it on runs inside
    rw [exec_stepRun, execStepRun, actUnit_command on runs]
    simp only [inside, Bool.not_true, Bool.false_eq_true, if_false]

/-- Settles O44: TRE runs or the write is let through, and its clause's hypotheses select one branch of what it does. That TRE_FAILURE is
absorbed by its own steps, and is no rung of the reset ladder, is the model's choice (log 59). -/
theorem engineEventsComplete : Obligations.EngineEventsComplete := by
  unfold Obligations.EngineEventsComplete
  refine ⟨?assign, ?chunkDone, ?failure, ?chunkExpiry, ?peerTimeout, ?create, ?destroy⟩
  case assign =>
    intro p b n wk k on next work engine
    rw [exec_treItemAssign, execTreItemAssign, actUnit_on on]
    simp only [next, work, engine, if_true]
  case chunkDone =>
    intro p b n on isEngine up
    rw [exec_treChunkDone, execTreChunkDone, actUnit_on on, if_pos ⟨up, isEngine⟩]
  case failure =>
    intro p b n on isEngine up
    rw [exec_treFailure, execTreFailure, actUnit_on on, if_pos ⟨isEngine, up⟩]
  case chunkExpiry =>
    intro p b on old
    rw [exec_stageChunkExpiry, execStageChunkExpiry, actUnit_on on]
    have some := List.length_filter_pos_iff.mpr (List.any_eq_true.mp old)
    simp only [some.ne', if_false]
  case peerTimeout =>
    intro p b n c k on found live late
    rw [exec_collPeerTimeout, execCollPeerTimeout, actUnit_on on]
    simp only [found, late, live, Bool.false_eq_true, if_false]
  case create =>
    intro p b who w ext t u d bytes takes idle op hu read good new list members
    rw [exec_gcreate, execGcreate, act_on, gcmd_data takes idle op (by decide) hu read, if_pos rfl, createGroup_good good new list members,
      describedGroup, groupMembers]
  case destroy =>
    intro p b who w ext t u d takes idle op hu read found unused
    rw [exec_gdestroy, execGdestroy, act_on, gcmd_data takes idle op (by decide) hu read, if_neg one_ne_zero,
      destroyGroup_unused found unused]

end Sys2Proof

/-! Packets of Lemdy's data channels (R351 to R358): requests that take their place in their source's order, duplicates, packets ahead of
their turn, and packets for other chips. -/

namespace Sys2Proof.Machine

open Sys2Proof.Safety

section

variable {p : List Instr} {b u v : Blk} {n typ : Nat} {k : Pkt}

/-! ## Ports in service -/

/-- A port in service carries packets (R371). -/
theorem kitePort_of_active (active : portActive b n = true) : kitePort (b.port n) = true := by
  simp [kitePort, of_decide_eq_true active]

/-- A port that keeps its state stays in service, or out of it. -/
theorem portActive_updPort {f : Port → Port} (keeps : (f (b.port n)).state = (b.port n).state) :
    portActive (b.updPort n f) n = portActive b n := by
  simp only [portActive, Blk.updPort_port, keeps]

/-- PORT_EN is no part of a port's own state. -/
theorem portEnabled_updPort (f : Port → Port) : portEnabled (b.updPort n f) n = portEnabled b n := rfl

/-! ## Requests in the order of their source -/

/-- A request at or below the last TXN applied is a duplicate. -/
theorem recvReq_duplicate {apply : Pkt → Blk → Blk} (notSession : k.typ ≠ 0x08) (past : k.txn ≤ (b.src k.src).last) :
    recvReq apply k b = duplicate k b := by
  rw [recvReq, if_neg notSession]
  exact if_pos past

/-- A request beyond the next one that is not yet held is held with its time. -/
theorem recvReq_ahead {apply : Pkt → Blk → Blk} (notSession : k.typ ≠ 0x08) (ahead : (b.src k.src).last + 1 < k.txn)
    (new : ((b.src k.src).held.any fun h => h.1 == k.txn) = false) :
    recvReq apply k b = b.updSrc k.src fun s => { s with held := insertOn (·.1) (k.txn, b.ft, k) s.held } := by
  have notPast : ¬ k.txn ≤ (b.src k.src).last := by omega
  simp only [recvReq, notSession, notPast, ahead.ne', new, Bool.false_eq_true, if_false]

/-- Only an FSIG is answered again; any other duplicate is counted. -/
theorem duplicate_counted (notFsig : k.typ ≠ 0x04) : duplicate k b = b.lmfU fun l => { l with dupReq := l.dupReq.bump } := if_neg notFsig

/-- A request that wakes gated units ends B1 before it takes its place. -/
theorem takeReq_wakes (notSession : k.typ ≠ 0x08) (notFsig : k.typ ≠ 0x04) : takeReq k b = recvReq applyAny k (leaveB1 b) := by
  rw [takeReq, if_neg (by simp [notSession, notFsig])]

/-- A SESSION is taken with the source that it may reset, then what was held behind it. -/
theorem takeReq_session (session : k.typ = 0x08) :
    takeReq k b = drainHeld applyAny (((recvSession k b).src k.src).held.length + 1) k.src (recvSession k b) := by
  rw [takeReq, if_pos (.inl session), recvReq, if_pos session]

/-! ## The rules of the requests, outside a block reset -/

section Rules

variable (running : b.rcv.blockPhase = 0)

include running

theorem applyAny_wr (isTyp : k.typ = 0x01) : applyAny k b = applyWr k b := by simp only [applyAny_on running, isTyp]
theorem applyAny_rd (isTyp : k.typ = 0x02) : applyAny k b = applyRd k b := by simp only [applyAny_on running, isTyp]
theorem applyAny_at (isTyp : k.typ = 0x03) : applyAny k b = applyAt k b := by simp only [applyAny_on running, isTyp]
theorem applyAny_fsig (isTyp : k.typ = 0x04) : applyAny k b = applyFsig k b := by simp only [applyAny_on running, isTyp]
theorem applyAny_planPkt (isTyp : k.typ = 0x05) : applyAny k b = applyPlanPkt k b := by simp only [applyAny_on running, isTyp]
theorem applyAny_ready (isTyp : k.typ = 0x06) : applyAny k b = applyReady k b := by simp only [applyAny_on running, isTyp]
theorem applyAny_leave (isTyp : k.typ = 0x07) : applyAny k b = applyLeave k b := by simp only [applyAny_on running, isTyp]

end Rules

/-! ## Arrivals -/

/-- A request packet for this chip takes its place, and then its credit is owed. -/
theorem arrive_request (arrives : dataArrives n k b u) (isTyp : k.typ = typ) (request : typeVc typ = 0) :
    arrive [typ] n k b = afterPkt (reorderFull b) (oweCredit n k (takeReq k u)) := by
  have ⟨_, _, ok, _⟩ := arrives
  have vc : k.vc = 0 := by rw [pktOk_vc ok, isTyp, request]
  rw [arrive_data arrives (by simp [isTyp]) (by omega)]
  simp only [takeData, vc]

/-- A request packet that is the next of its source is applied by the rule of its type. -/
theorem receive_request {apply : Pkt → Blk → Blk} (isTyp : k.typ = typ) (arrives : requestArrives n k b u v) (request : typeVc typ = 0)
    (notSession : typ ≠ 0x08) (rule : v.rcv.blockPhase = 0 → k.typ = typ → applyAny k v = apply k v) :
    actLink (fun b => arrive [typ] n k b) ⟨p, b⟩ = .next ⟨p, afterPkt (reorderFull b)
      (oweCredit n k (drainHeld applyAny (((apply k v).src k.src).held.length + 1) k.src (apply k v)))⟩ := by
  rw [actLink_on arrives.1.1, request_row arrives (by simp [isTyp]) (isTyp ▸ notSession) (isTyp ▸ request),
    rule (req_phase arrives) isTyp]

/-- A packet for another chip on a port in service owes its credit and is forwarded. -/
theorem arrive_forward (active : portActive b n = true) (ok : pktOk k = true) (data : k.vc < 3) (isTyp : k.typ = typ)
    (elsewhere : k.dest ≠ b.chip) (hu : u = oweCredit n k (b.updPort n fun q => { q with rxCtr := q.rxCtr + 1 })) :
    arrive [typ] n k b = afterPkt (reorderFull b) (forwardPkt k u) := by
  subst hu
  have counted : portActive (b.updPort n fun q => { q with rxCtr := q.rxCtr + 1 }) n = true := (portActive_updPort rfl).trans active
  rw [arrive, if_pos ⟨kitePort_of_active active, by simp [isTyp]⟩]
  simp only [deliver, ok, data.ne, counted, Blk.updPort_chip, elsewhere, Bool.true_eq_false, ne_eq, not_false_eq_true,
    if_false, if_true]

theorem forwardPkt_spent (spent : k.ttl ≤ 1) : forwardPkt k b = b.lmfU fun l => { l with ttlDrops := l.ttlDrops.bump } := if_pos spent

theorem forwardPkt_alive (alive : 1 < k.ttl) : forwardPkt k b = sendPkt { k with ttl := k.ttl - 1 } b := if_neg alive.not_ge

end

end Sys2Proof.Machine

namespace Sys2Proof

open Sys2Proof.Machine Sys2Proof.Safety

/-- Settles O13: the packet ends B1 and takes its place by its TXN, whose two clauses are a duplicate and a packet ahead. That a duplicate
leaves B1 too, and that the credit is owed at receipt, are the model's choices (log 119, 123). -/
theorem requestsAreAppliedOnceInOrder : Obligations.RequestsAreAppliedOnceInOrder := by
  intro p b u v n k arrives typ hv
  subst hv
  have notSession : k.typ ≠ 0x08 := by omega
  have notFsig : k.typ ≠ 0x04 := by omega
  have exec_eq : exec (.remoteWrReceive n k) ⟨p, b⟩ =
      .next ⟨p, afterPkt (reorderFull b) (oweCredit n k (recvReq applyAny k (leaveB1 u)))⟩ := by
    rw [exec_remoteWrReceive, execRemoteWrReceive, actLink_on arrives.1, arrive_request arrives typ rfl, takeReq_wakes notSession notFsig]
  constructor
  · intro past
    rw [exec_eq, recvReq_duplicate notSession past, duplicate_counted notFsig]
  · intro ahead new
    rw [exec_eq, recvReq_ahead notSession ahead new]

/-- Settles O14: the packet's credit is owed, and its TTL selects what forwarding does. That the credit is owed at receipt is the model's
choice (log 123). -/
theorem forwardingCountsDownTtl : Obligations.ForwardingCountsDownTtl := by
  intro p b u n k on active ok data typ elsewhere hu
  have exec_eq : exec (.remoteWrReceive n k) ⟨p, b⟩ = .next ⟨p, afterPkt (reorderFull b) (forwardPkt k u)⟩ := by
    rw [exec_remoteWrReceive, execRemoteWrReceive, actLink_on on, arrive_forward active ok data typ elsewhere hu]
  constructor
  · intro spent
    rw [exec_eq, forwardPkt_spent spent]
  · intro alive
    rw [exec_eq, forwardPkt_alive alive]

/-- Settles O46: a request in its turn is applied by the rule of its type, and a SESSION resets its source first. That a request before
ready is applied, and that the credit is owed at receipt, are the model's choices (log 108, 123). -/
theorem requestPacketsComplete : Obligations.RequestPacketsComplete := by
  unfold Obligations.RequestPacketsComplete
  refine ⟨?wr, ?rd, ?atomic, ?fsig, ?plan, ?ready, ?leave, ?session⟩
  case wr => exact fun p b n k u v typ arrives => receive_request typ arrives rfl (by decide) applyAny_wr
  case rd => exact fun p b n k u v typ arrives => receive_request typ arrives rfl (by decide) applyAny_rd
  case atomic => exact fun p b n k u v typ arrives => receive_request typ arrives rfl (by decide) applyAny_at
  case fsig => exact fun p b n k u v typ arrives => receive_request typ arrives rfl (by decide) applyAny_fsig
  case plan => exact fun p b n k u v typ arrives => receive_request typ arrives rfl (by decide) applyAny_planPkt
  case ready => exact fun p b n k u v typ arrives => receive_request typ arrives rfl (by decide) applyAny_ready
  case leave => exact fun p b n k u v typ arrives => receive_request typ arrives rfl (by decide) applyAny_leave
  case session =>
    intro p b n k u typ arrives
    rw [exec_sessionReceive, execSessionReceive, actLink_on arrives.1, arrive_request arrives typ rfl, takeReq_session typ]

end Sys2Proof

/-! Link-local packets of Lemdy and what arrives on a lane (R339, R341 to R343, R346, R349, R363, R368): control packets, codewords, markers
and key checks. -/

namespace Sys2Proof.Machine

open Sys2Proof.Safety

section

variable {p : List Instr} {b u : Blk} {n typ : Nat} {k : Pkt} {cw : Codeword}

/-- A control packet is taken by its port. -/
theorem receive_control (isTyp : k.typ = typ) (arrives : controlArrives n k b u) :
    actLink (fun b => arrive [typ] n k b) ⟨p, b⟩ = .next ⟨p, afterPkt (reorderFull b) (takeControl n k u)⟩ := by
  rw [actLink_on arrives.1, arrive_ctl arrives (by simp [isTyp])]

/-- The block with the symbols of a codeword that FEC corrected counted on its port (R341). -/
def countCorrected (n : Nat) (cw : Codeword) (b : Blk) : Blk :=
  b.updPort n fun q => { q with corrected := q.corrected.add cw.badSymbols }

/-- A correctable codeword without marker that is the next of its port is taken. -/
theorem takeAny_next (correctable : cw.badSymbols ≤ 15) (data : cw.marker = none) (inOrder : cw.seq = (b.port n).rxSeq) :
    takeAny n cw b = takeCodeword n cw (countCorrected n cw b) := by
  have inOrder' : cw.seq = ((countCorrected n cw b).port n).rxSeq := by rw [countCorrected, Blk.updPort_port, inOrder]
  rw [takeAny, if_neg correctable.not_gt]
  simp only [data]
  exact if_pos inOrder'

/-- A correctable marker is taken. -/
theorem takeAny_marker {mk : Marker} (correctable : cw.badSymbols ≤ 15) (marker : cw.marker = some mk) :
    takeAny n cw b = takeMarker n mk (countCorrected n cw b) := by
  rw [takeAny, if_neg correctable.not_gt]
  simp only [marker, countCorrected]

end

end Sys2Proof.Machine

namespace Sys2Proof

open Sys2Proof.Machine Sys2Proof.Safety

/-- Settles O48: a control packet's type selects what its port does, and a codeword or key check on a port in a state that takes it selects
one branch. That control packets are taken from ALIGN on, and that a failed key check is cause 5 and one absorbed fault, are the model's
choices (log 106, 113). -/
theorem linkPacketsComplete : Obligations.LinkPacketsComplete := by
  unfold Obligations.LinkPacketsComplete
  refine ⟨?kite, ?credit, ?lack, ?retry, ?lane, ?codeword, ?marker, ?keyPasses, ?keyFails⟩
  case kite =>
    intro p b n k u typ arrives
    rw [exec_kiteReceive, execKiteReceive, receive_control typ arrives]
    simp only [takeControl, typ]
  case credit =>
    intro p b n k u typ arrives active
    rw [exec_creditReceive, execCreditReceive, receive_control typ arrives]
    simp only [takeControl, typ, active, if_true]
  case lack =>
    intro p b n k u typ arrives
    rw [exec_lackReceive, execLackReceive, receive_control typ arrives]
    simp only [takeControl, typ]
  case retry =>
    intro p b n k u typ arrives
    rw [exec_retryReceive, execRetryReceive, receive_control typ arrives]
    simp only [takeControl, typ]
  case lane =>
    intro p b n k u typ arrives
    rw [exec_laneReceive, execLaneReceive, receive_control typ arrives]
    simp only [takeControl, typ]
  case codeword =>
    intro p b n cw on carries correctable data inOrder
    rw [exec_codewordReceive, execCodewordReceive, actLink_on on, if_pos carries, takeAny_next correctable data inOrder, countCorrected]
  case marker =>
    intro p b n cw mk on carries correctable marker
    rw [exec_codewordReceive, execCodewordReceive, actLink_on on, if_pos carries, takeAny_marker correctable marker, countCorrected]
  case keyPasses =>
    intro p b n cipher tag on key passes
    rw [exec_keychkReceive, execKeychkReceive, actLink_on on, if_pos key, if_pos passes]
  case keyFails =>
    intro p b n cipher tag on key fails
    rw [exec_keychkReceive, execKeychkReceive, actLink_on on, if_pos key, if_neg (by simp [fails])]

end Sys2Proof

/-! States of Lemdy's ports (R339, R342, R343, R359, R366, R371, R372, R374): bring-up, lanes that leave, ports that leave service, and the
writes of PORT_EN, RETRAIN and the routes. -/

namespace Sys2Proof.Machine

open Sys2Proof.Safety

section

variable {b : Blk} {n : Nat} {w : W32}

/-- RETRAIN of a port in service, on an unlocked page, takes it to TRAIN with cause 10 noted. -/
theorem portCtrl_retrain (unlocked : (b.hdr pgLMF).locked = false) (active : portActive b n = true) (retrain : w.getLsbD 0 = true) :
    portCtrl n w b = (leaveService n .train (b.updPort n fun q => { q with dateline := w.getLsbD 1 })).updPort n fun q =>
      { freshLink q with lanes := 0, downCause := 10, draining := false } := by
  have stays : portActive (b.updPort n fun q => { q with dateline := w.getLsbD 1 }) n = true := (portActive_updPort rfl).trans active
  simp only [portCtrl, unlocked, retrain, stays, Bool.false_eq_true, and_self, if_false, if_true]

end

end Sys2Proof.Machine

namespace Sys2Proof

open Sys2Proof.Machine Sys2Proof.Safety

/-- Settles O50: the link layer runs or the write is let through, and the port's state and its clause's hypotheses select one branch of the
event. That RETRAIN notes cause 10 without an event, that the median of 64 measurements is the mean of the middle two, and that the LACK
counts are the port's are the model's choices (log 113, 115, 123). -/
theorem portEventsComplete : Obligations.PortEventsComplete := by
  unfold Obligations.PortEventsComplete
  refine ⟨?laneRemove, ?markersMissed, ?lackTimer, ?down, ?retryTimer, ?calibrated, ?calFails, ?trained, ?aligned, ?measured, ?measuredAgain,
    ?drained, ?portEn, ?retrain, ?routing⟩
  case laneRemove =>
    intro p b n k on active lane inUse
    rw [exec_laneRemove, execLaneRemove, actLink_on on, if_pos ⟨active, lane, inUse⟩]
  case markersMissed =>
    intro p b n on active
    rw [exec_markersMissed, execMarkersMissed, actLink_on on, if_pos active]
  case lackTimer =>
    intro p b n on active some due
    rw [exec_lackSendTimer, execLackSendTimer, actLink_on on, if_pos ⟨active, some, due⟩]
  case down =>
    intro p b n cause on port low high notOff notDown
    rw [exec_portDown, execPortDown, actLink_on on, if_pos ⟨port, low, high, notOff, notDown⟩]
  case retryTimer =>
    intro p b n on down enabled due
    rw [exec_portRetryTimer, execPortRetryTimer, actLink_on on, if_pos ⟨down, enabled, due⟩]
  case calibrated =>
    intro p b n on cal enabled
    rw [exec_calDone, execCalDone, actLink_on on, if_pos cal, if_neg (by decide)]
    simp only [portEnabled_updPort, enabled, if_true]
  case calFails =>
    intro p b n on cal
    rw [exec_calDone, execCalDone, actLink_on on, if_pos cal, if_pos rfl]
  case trained =>
    intro p b n lanes on train enough
    have some : lanes ≠ 0 := by
      rintro rfl
      exact absurd enough (by decide)
    rw [exec_trainDone, execTrainDone, actLink_on on, if_pos train, if_neg some, if_neg enough.not_gt]
  case aligned =>
    intro p b n chip port on align other
    rw [exec_alignDone, execAlignDone, actLink_on on, if_pos align, if_neg (by decide), if_neg other]
  case measured =>
    intro p b n delays on measure exchanges enabled
    rw [exec_measureDone, execMeasureDone, actLink_on on]
    simp only [measure, exchanges, enabled, Bool.not_true, and_self, if_true]
  case measuredAgain =>
    intro p b n delays on active exchanges
    have inService : (b.port n).state = .active := of_decide_eq_true active
    rw [exec_measureDone, execMeasureDone, actLink_on on]
    simp [inService, active, exchanges]
  case drained =>
    intro p b n on inService draining done disabled stays
    rw [exec_portOffDrainEnd, execPortOffDrainEnd, actLink_on on]
    simp only [inService, draining, List.isEmpty_iff, done, stays, Bool.false_eq_true, and_self, if_false, if_true]
  case portEn =>
    intro p b who w t takes unlocked
    rw [exec_portEnWrite, execPortEnWrite, act_on, onUnit_takes takes, unlessLocked_of_not unlocked]
  case retrain =>
    intro p b who n w t takes port unlocked active retrain
    rw [exec_retrain, execRetrain, act_on, onUnit_takes takes, if_pos port, portCtrl_retrain unlocked active retrain]
  case routing =>
    intro p b who n w t x takes staged
    rw [exec_routingCommit, execRoutingCommit, act_on, onUnit_takes takes]
    simp only [staged]

end Sys2Proof

/-! Bandwidth regulators (R375 to R388): windows on fabric time, budgets and deficits, who may issue, feedback levels, and the boundary of
a commit. -/

namespace Sys2Proof.Machine

open Sys2Proof.Safety

section

variable {b t : Blk} {p : List Instr} {who : Who} {g : Regulator} {x : Waiting} {ft old new n c level : Nat} {w : W32}

/-! ## Windows and budgets (R378, R379, R380) -/

theorem Regulator.roll_of_no_commit (noCommit : g.commit = none) : g.roll ft = g.advance ft := by
  simp only [roll, noCommit]

/-- A regulator brought to a later window has the window that the present lies in. -/
theorem Regulator.advance_windowFt (later : g.windowFt / windowNs g.winK < ft / windowNs g.winK) :
    (g.advance ft).windowFt = ft / windowNs g.winK * windowNs g.winK := by
  have opens : ft / windowNs g.winK - g.windowFt / windowNs g.winK ≠ 0 := by omega
  rw [advance, if_neg opens]
  split
  case isTrue next =>
    have present : ft / windowNs g.winK = g.windowFt / windowNs g.winK + 1 := by omega
    rw [refill_ft, present, Nat.succ_mul]
  case isFalse =>
    dsimp only
    split <;> exact refill_ft _ _

/-- At an opening a limited class has its budget less its deficit, the deficit cut to the budget (R379, R380). -/
theorem Regulator.refill_rem (at' : Nat) (isClass : c < 8) :
    (g.refill at').rem c = if g.budget c = unlimited then (g.budget c : Int)
      else (g.budget c : Int) - min (g.budget c : Int) (if g.rem c < 0 then -(g.rem c) else 0) := by
  rw [refill, noteHeld_rem]
  simp [rem, List.getD_eq_getElem?_getD, isClass]

theorem Regulator.refill_rem_unlimited (at' : Nat) (isClass : c < 8) (noLimit : g.budget c = unlimited) :
    (g.refill at').rem c = unlimited := by
  rw [refill_rem at' isClass, if_pos noLimit, noLimit]

theorem Regulator.refill_rem_unspent (at' : Nat) (isClass : c < 8) (limit : g.budget c ≠ unlimited) (unspent : 0 ≤ g.rem c) :
    (g.refill at').rem c = g.budget c := by
  rw [refill_rem at' isClass, if_neg limit, if_neg unspent.not_gt]
  omega

theorem Regulator.refill_rem_deficit (at' : Nat) (isClass : c < 8) (limit : g.budget c ≠ unlimited) (deficit : g.rem c < 0) :
    (g.refill at').rem c = max 0 (g.budget c + g.rem c) := by
  rw [refill_rem at' isClass, if_neg limit, if_pos deficit]
  omega

theorem isEligible_of_saving (saving : x.req.saving = true) : isEligible b g x = true := by
  rw [isEligible, saving, Bool.true_or]

theorem isEligible_of_spent (limit : g.budget x.req.cls ≠ unlimited) (spent : g.rem x.req.cls ≤ 0) (ordinary : x.req.saving = false) :
    isEligible b g x = false := by
  simp [isEligible, ordinary, limit, spent]

/-! ## The boundary of a commit (R388) -/

/-- Window lengths are powers of 2 of one unit, so the longer of two is their least common multiple. -/
theorem windowNs_max_dvd_iff : windowNs (max old new) ∣ n ↔ windowNs old ∣ n ∧ windowNs new ∣ n := by
  refine ⟨fun h => ⟨(windowNs_dvd (le_max_left old new)).trans h, (windowNs_dvd (le_max_right old new)).trans h⟩, fun ⟨hold, hnew⟩ => ?_⟩
  rcases max_choice old new with longer | longer <;> rwa [longer]

theorem lt_commitAt (ft old new : Nat) : ft < commitAt ft old new := Nat.lt_div_mul_add (windowNs_pos _)

theorem windowNs_max_dvd_commitAt (ft old new : Nat) : windowNs (max old new) ∣ commitAt ft old new :=
  (Nat.dvd_mul_left _ _).add dvd_rfl

theorem commitAt_le {at' : Nat} (future : ft < at') (common : windowNs (max old new) ∣ at') : commitAt ft old new ≤ at' := by
  obtain ⟨m, rfl⟩ := common
  have before : ft / windowNs (max old new) < m := Nat.div_lt_of_lt_mul future
  calc commitAt ft old new = (ft / windowNs (max old new) + 1) * windowNs (max old new) := (Nat.succ_mul _ _).symm
    _ ≤ m * windowNs (max old new) := Nat.mul_le_mul_right _ before
    _ = windowNs (max old new) * m := Nat.mul_comm _ _

/-- An admitted write of a regulator's CTRL on an unlocked page is its commit. -/
theorem exec_regulatorCtrlCommit_takes (takes : unitTakes who pgBWR b t) (unlocked : (t.hdr pgBWR).locked = false) :
    exec (.regulatorCtrlCommit who n w) ⟨p, b⟩ = .next ⟨p, commitReg n w t⟩ := by
  rw [exec_regulatorCtrlCommit, execRegulatorCtrlCommit, act_on, onUnit_takes takes, unlessLocked_of_not unlocked]

theorem commitReg_too_long (reg : n < 120) (tooLong : 10 < bits w.toNat 0 4) : commitReg n w t = pageErr pgBWR 0x05 t := by
  rw [commitReg, if_neg reg.not_ge, if_pos tooLong]

theorem commitReg_staged (reg : n < 120) (short : bits w.toNat 0 4 ≤ 10) :
    commitReg n w t = t.updReg n fun g => { g.roll t.ft with
      commit := some (bits w.toNat 0 4, (g.roll t.ft).staged, commitAt t.ft (g.roll t.ft).winK (bits w.toNat 0 4)) } := by
  rw [commitReg, if_neg reg.not_ge, if_neg short.not_gt]

/-! ## Feedback (R383) -/

/-- The block with the level that a controller drives shown in LEVELS (Table 11.3). -/
def showLevel (n level : Nat) (b : Blk) : Blk :=
  b.bwrU fun v => { v with levels := (v.levels &&& ~~~(3#32 <<< (2 * n))) ||| (BitVec.ofNat 32 level <<< (2 * n)) }

/-- A level other than 11 is shown; an entry into amber or red counts, and one into red fires the BWR red source. -/
theorem exec_feedbackLevelChange_on (on : unitOn pgBWR b) (ctrl : n < 16) (valid : level % 4 ≠ 3) :
    exec (.feedbackLevelChange n level) ⟨p, b⟩ = .next ⟨p,
      if level % 4 = 1 ∧ ctrlLevel b (some n) ≠ 1 then (showLevel n (level % 4) b).bwrU fun v => { v with ambers := v.ambers.bump }
      else if 2 ≤ level % 4 ∧ ctrlLevel b (some n) < 2 then
        fire 67 noOne (BitVec.ofNat 32 n) ((showLevel n (level % 4) b).bwrU fun v => { v with reds := v.reds.bump })
      else showLevel n (level % 4) b⟩ := by
  rw [exec_feedbackLevelChange, execFeedbackLevelChange, actUnit_on on, if_pos ctrl]
  simp only [valid, false_and, if_false, showLevel, Blk.bwrU]

/-- Green is the level 0, whose bits are clear. -/
theorem showLevel_green (n : Nat) (b : Blk) :
    showLevel n 0 b = b.bwrU fun v => { v with levels := v.levels &&& ~~~(3#32 <<< (2 * n)) } := by
  simp [showLevel]

end

end Sys2Proof.Machine

namespace Sys2Proof

open Sys2Proof.Machine Sys2Proof.Safety

/-- Settles O27: an opening is at the window that the present lies in and fills each class by its budget and deficit, and the longer of the
old and the new window length is their least common multiple. That the boundary of a commit lies strictly after the write is the model's
choice (log 78). -/
theorem windowsOpenOnFabricTime : Obligations.WindowsOpenOnFabricTime := by
  unfold Obligations.WindowsOpenOnFabricTime
  refine ⟨?opens, ?budgets, ?spent, ?saving, ?boundary, ?tooLong⟩
  case opens =>
    intro g ft noCommit later
    rw [Regulator.roll_of_no_commit noCommit, Regulator.advance_windowFt later]
    exact ⟨Nat.dvd_mul_left _ _, Nat.div_mul_le_self _ _, Nat.lt_div_mul_add (windowNs_pos _)⟩
  case budgets =>
    intro g at' c isClass
    exact ⟨Regulator.refill_rem_unlimited at' isClass, Regulator.refill_rem_unspent at' isClass, Regulator.refill_rem_deficit at' isClass⟩
  case spent => exact fun b g x => isEligible_of_spent
  case saving => exact fun b g x => isEligible_of_saving
  case boundary =>
    intro ft old new
    obtain ⟨ofOld, ofNew⟩ := windowNs_max_dvd_iff.mp (windowNs_max_dvd_commitAt ft old new)
    exact ⟨lt_commitAt ft old new, ofOld, ofNew, fun at' future hold hnew => commitAt_le future (windowNs_max_dvd_iff.mpr ⟨hold, hnew⟩)⟩
  case tooLong =>
    intro p b t who r w takes unlocked reg tooLong
    rw [exec_regulatorCtrlCommit_takes takes unlocked, commitReg_too_long reg tooLong]

/-- Settles O52: the unit runs or the write is let through, and the operands and the level before select one branch of the command. That the
boundary of a commit lies strictly after the write is the model's choice (log 78). -/
theorem regulatorsComplete : Obligations.RegulatorsComplete := by
  unfold Obligations.RegulatorsComplete
  refine ⟨?window, ?issue, ?amber, ?red, ?green, ?commit⟩
  case window =>
    intro p b n on reg
    rw [exec_regulatorWindow, execRegulatorWindow, actUnit_on on, if_pos reg]
  case issue =>
    rintro p b n arrivals _ i x on reg rfl next
    rw [exec_regulatorIssue, execRegulatorIssue, actUnit_on on, if_pos reg]
    simp only [next]
  case amber =>
    intro p b n level on ctrl wasGreen amber
    rw [exec_feedbackLevelChange_on on ctrl (by omega), if_pos (by omega), amber]
    rfl
  case red =>
    intro p b n level on ctrl wasAmber red
    rw [exec_feedbackLevelChange_on on ctrl (by omega), if_neg (by omega), if_pos (by omega), red]
    rfl
  case green =>
    intro p b n level on ctrl green
    rw [exec_feedbackLevelChange_on on ctrl (by omega), if_neg (by omega), if_neg (by omega), green, showLevel_green]
  case commit =>
    intro p b who n w t takes reg unlocked short
    rw [exec_regulatorCtrlCommit_takes takes unlocked, commitReg_staged reg short]

end Sys2Proof

/-! What a family of commands leaves alone (R375, R388, R393, R408, R411, R412, R451, R457, R474, R484, R488 to R490). A frame is a part of the
block that the family cannot change: a command's own change keeps it, and so does the admission of the access, which changes page
headers and PWR alone. -/

namespace Sys2Proof.Machine

open Sys2Proof.Safety

/-! ## Parts of the block that an access and a fire keep -/

section Blind

variable {α : Type} {π : Blk → α} {who : Who} {pg page n c : Nat} {d : BitVec 32} {b : Blk}

/-- A part of the block in which page headers and PWR do not show. -/
def HeaderBlind (π : Blk → α) : Prop := ∀ ⦃b u : Blk⦄, OnlyHeaders b u → π u = π b

/-- A part of the block in which EVC does not show either. -/
def EventBlind (π : Blk → α) : Prop := ∀ ⦃b u : Blk⦄ (e : Evc), OnlyHeaders { b with evc := e } u → π u = π b

theorem EventBlind.headerBlind (blind : EventBlind π) : HeaderBlind π := fun b _ only => blind b.evc only

theorem HeaderBlind.onUnit (blind : HeaderBlind π) {k : Blk → Blk} (hk : ∀ g, π (k g) = π g) : π (onUnit who pg b k) = π b := by
  obtain ⟨g, only, h | h⟩ := onUnit_cases who pg b k
  · rw [h, blind only]
  · rw [h, hk, blind only]

theorem HeaderBlind.onView (blind : HeaderBlind π) {k : Nat → Blk → Blk} (hk : ∀ s g, π (k s g) = π g) :
    π (onView who page pg b k) = π b := by
  obtain ⟨g, only, h | ⟨s, h⟩⟩ := onView_cases who page pg b k
  · rw [h, blind only]
  · rw [h, hk, blind only]

theorem HeaderBlind.unlessLocked (blind : HeaderBlind π) {k : Blk → Blk} (hk : ∀ g, π (k g) = π g) : π (unlessLocked pg b k) = π b := by
  unfold Machine.unlessLocked
  split
  · exact blind (onlyHeaders_pageErr pg 3 b)
  · exact hk b

theorem fire_only (n c : Nat) (d : BitVec 32) (b : Blk) : ∃ e, OnlyHeaders { b with evc := e } (fire n c d b) := by
  unfold fire
  split
  · exact ⟨b.evc, rfl⟩
  · split
    · exact ⟨_, onlyHeaders_leaveB1 _⟩
    · exact ⟨b.evc, rfl⟩

theorem EventBlind.fire (blind : EventBlind π) : π (fire n c d b) = π b := by
  obtain ⟨e, only⟩ := fire_only n c d b
  exact blind e only

theorem EventBlind.fireBanked {slice i : Nat} {cq : Option Nat} (blind : EventBlind π) : π (fireBanked slice i c d cq b) = π b := by
  unfold Machine.fireBanked
  split
  · rfl
  · exact blind _ (onlyHeaders_leaveB1 _)

theorem ite_keeps {q : Prop} [Decidable q] {x y : Blk} (hx : π x = π b) (hy : π y = π b) : π (if q then x else y) = π b := by
  split
  · exact hx
  · exact hy

theorem foldl_keeps {β : Type} {f : Blk → β → Blk} (hf : ∀ b x, π (f b x) = π b) (l : List β) : π (l.foldl f b) = π b := by
  induction l generalizing b with
  | nil => rfl
  | cons x l ih => rw [List.foldl_cons, ih, hf]

end Blind

/-! ## Mailboxes and locks (R407 to R411) -/

/-- The block besides what mailboxes and locks may change. -/
def besidesMailbox (b : Blk) : Blk := { b with pages := [], pwr := {}, evc := {}, mbx := {}, out := [], readOut := 0 }

theorem besidesMailbox_frame {b u : Blk} (same : besidesMailbox u = besidesMailbox b) :
    u = { b with pages := u.pages, pwr := u.pwr, evc := u.evc, mbx := u.mbx, out := u.out, readOut := u.readOut } :=
  congrArg (fun x : Blk =>
    { x with pages := u.pages, pwr := u.pwr, evc := u.evc, mbx := u.mbx, out := u.out, readOut := u.readOut }) same

theorem besidesMailbox_blind : EventBlind besidesMailbox := fun _ _ _ only => (congrArg besidesMailbox only).trans rfl

section Mailbox

variable (b : Blk)

theorem hostNotice_besidesMailbox (src c : Nat) : besidesMailbox (hostNotice src c b) = besidesMailbox b := by
  unfold hostNotice
  split
  · exact besidesMailbox_blind.fire
  · split <;> rfl

theorem updSlot_besidesMailbox (h2m : Bool) (c : Nat) (f : MbxSlot → MbxSlot) : besidesMailbox (b.updSlot h2m c f) = besidesMailbox b := rfl

theorem sendMsg_besidesMailbox (h2m : Bool) (c : Nat) : besidesMailbox (sendMsg h2m c b) = besidesMailbox b := by
  unfold sendMsg
  split
  · dsimp only
    split
    · rfl
    · rw [hostNotice_besidesMailbox, updSlot_besidesMailbox]
  · rfl

theorem withdrawMsg_besidesMailbox (h2m : Bool) (c : Nat) : besidesMailbox (withdrawMsg h2m c b) = besidesMailbox b := by
  unfold withdrawMsg
  split <;> rfl

theorem releaseMsg_besidesMailbox (h2m : Bool) (c : Nat) : besidesMailbox (releaseMsg h2m c b) = besidesMailbox b := by
  unfold releaseMsg
  split <;> rfl

theorem takeMsg_besidesMailbox (h2m : Bool) (c : Nat) : besidesMailbox (takeMsg h2m c b) = besidesMailbox b := by
  unfold takeMsg
  split <;> rfl

theorem acked_besidesMailbox (h2m : Bool) (c : Nat) :
    besidesMailbox (if h2m then hostNotice 74 c b else b.emit (.mpNotice c)) = besidesMailbox b := by
  split
  · exact hostNotice_besidesMailbox b 74 c
  · rfl

theorem ackMsg_besidesMailbox (h2m : Bool) (c : Nat) (code : W16) : besidesMailbox (ackMsg h2m c code b) = besidesMailbox b := by
  unfold ackMsg
  split
  any_goals rfl
  all_goals rw [acked_besidesMailbox, updSlot_besidesMailbox]

theorem readLock_besidesMailbox (who : Who) (l : Nat) : besidesMailbox (readLock who l b) = besidesMailbox b := by
  unfold readLock
  repeat' split
  all_goals rfl

theorem writeLock_besidesMailbox (who : Who) (l : Nat) (w : W32) : besidesMailbox (writeLock who l w b) = besidesMailbox b := by
  unfold writeLock
  repeat' split
  all_goals rfl

theorem breakLock_besidesMailbox (secure : Bool) (w : W32) : besidesMailbox (breakLock secure w b) = besidesMailbox b := by
  unfold breakLock
  dsimp only
  split <;> rfl

variable {b}

theorem onSide_besidesMailbox {side : MbxSide} {c : Nat} {k : Blk → Blk} (hk : ∀ g, besidesMailbox (k g) = besidesMailbox g) :
    besidesMailbox (onSide side c b k) = besidesMailbox b := by
  unfold onSide
  split
  · rfl
  · cases side with
    | host who => exact besidesMailbox_blind.headerBlind.onUnit hk
    | mp =>
      dsimp only
      split
      · rfl
      · rw [hk]
        split
        · exact besidesMailbox_blind.headerBlind (onlyHeaders_leaveB1 b)
        · rfl

theorem onRead_besidesMailbox {who : Who} {pg size : Nat} {k : Blk → Blk} (hk : ∀ g, besidesMailbox (k g) = besidesMailbox g) :
    besidesMailbox (onRead who pg size b k) = besidesMailbox b := by
  have gate := besidesMailbox_blind.headerBlind (onlyHeaders_gate who pg false b)
  unfold onRead
  split
  next hpass => rwa [hpass] at gate
  next hpass =>
    rw [hpass] at gate
    split
    · rw [hk, gate]
    · exact gate

end Mailbox

theorem exec_mailbox_frame {c : Instr} (mailbox : mailboxCommand c = true) (p : List Instr) (b : Blk) :
    ∃ u, exec c ⟨p, b⟩ = .next ⟨p, u⟩ ∧ besidesMailbox u = besidesMailbox b := by
  cases c with
  | mbxSend side n => exact ⟨_, rfl, onSide_besidesMailbox fun g => sendMsg_besidesMailbox g _ n⟩
  | mbxWithdraw side n => exact ⟨_, rfl, onSide_besidesMailbox fun g => withdrawMsg_besidesMailbox g _ n⟩
  | mbxRelease side n => exact ⟨_, rfl, onSide_besidesMailbox fun g => releaseMsg_besidesMailbox g _ n⟩
  | mbxTake side n => exact ⟨_, rfl, onSide_besidesMailbox fun g => takeMsg_besidesMailbox g _ n⟩
  | mbxAck side n code => exact ⟨_, rfl, onSide_besidesMailbox fun g => ackMsg_besidesMailbox g _ n code⟩
  | lockRead who n =>
    refine ⟨_, rfl, onRead_besidesMailbox fun g => ?_⟩
    split
    · rfl
    · exact readLock_besidesMailbox g who n
  | lockFreeWrite who n w =>
    exact ⟨_, rfl, besidesMailbox_blind.headerBlind.onUnit fun g => writeLock_besidesMailbox g who n w⟩
  | lockBreak who secure w =>
    exact ⟨_, rfl, besidesMailbox_blind.headerBlind.onUnit fun g => breakLock_besidesMailbox g secure w⟩
  | _ => cases mailbox

/-! ## Event sources and Pennant registers (R393 to R399) -/

/-- The block besides what sources and Pennant registers may change. -/
def besidesSources (b : Blk) : Blk := { b with pages := [], pwr := {}, evc := {}, views := [] }

theorem besidesSources_frame {b u : Blk} (same : besidesSources u = besidesSources b) :
    u = { b with pages := u.pages, pwr := u.pwr, evc := u.evc, views := u.views } :=
  congrArg (fun x : Blk => { x with pages := u.pages, pwr := u.pwr, evc := u.evc, views := u.views }) same

theorem besidesSources_blind : EventBlind besidesSources := fun _ _ _ only => (congrArg besidesSources only).trans rfl

section Sources

variable (b : Blk)

theorem errFrom_besidesSources (who : Who) (slice pg code : Nat) : besidesSources (errFrom who slice pg code b) = besidesSources b :=
  besidesSources_blind.headerBlind (onlyHeaders_errFrom who slice pg code b)

theorem pendingFire_besidesSources {slice ctx n : Nat} {d : W32} {u : Blk} (fired : pendingFire slice ctx n d b = some u) :
    besidesSources u = besidesSources b := by
  unfold pendingFire at fired
  split at fired
  · cases fired
    exact besidesSources_blind.fire
  · split at fired
    · cases fired
      exact besidesSources_blind.fireBanked
    · cases fired

theorem pnEnable_besidesSources (who : Who) (slice : Nat) (w : W32) : besidesSources (pnEnable who slice w b) = besidesSources b := by
  unfold pnEnable
  dsimp only
  split
  · split
    · rfl
    · exact errFrom_besidesSources _ who slice pgEVC 6
  · split
    · rfl
    · split
      · exact errFrom_besidesSources b who slice pgEVC 5
      · split
        · exact errFrom_besidesSources b who slice pgEVC 6
        · rfl

theorem pnClaim_besidesSources (who : Who) (slice : Nat) (w : W32) : besidesSources (pnClaim who slice w b) = besidesSources b := by
  unfold pnClaim
  dsimp only
  split
  · rfl
  · exact errFrom_besidesSources b who slice pgEVC 5

/-- A wired line: its level, its fire, and the wake that it may request. -/
theorem wiredLine_besidesSources (n : Nat) (level : Bool) {p : List Instr} {u : Blk} (h : exec (.wiredLineChange n level) ⟨p, b⟩ = .next ⟨p, u⟩) :
    besidesSources u = besidesSources b := by
  cases h
  refine ite_keeps rfl (ite_keeps ?_ rfl)
  have fired : besidesSources (fire n noOne 0 (b.evcU fun v =>
      { v with lines := if level then v.lines ||| (1#64 <<< n) else v.lines &&& ~~~(1#64 <<< n) })) = besidesSources b :=
    besidesSources_blind.fire
  exact ite_keeps fired fired

theorem pendingWrite_besidesSources (who : Who) (page off : Nat) (bytes : Bytes) {p : List Instr} {u : Blk}
    (h : exec (.pendingWrite who page off bytes) ⟨p, b⟩ = .next ⟨p, u⟩) : besidesSources u = besidesSources b := by
  have gate := besidesSources_blind.headerBlind (onlyHeaders_gate who (pgView page) true b)
  cases h
  dsimp only
  split
  next hpass => rwa [hpass] at gate
  next hpass =>
    rw [hpass] at gate
    rw [← gate]
    have refused (mine : Bool) (sl code : Nat) (g : Blk) :
        besidesSources (if mine = true then viewErr sl pgEVC code g else pageErr pgEVC code g) = besidesSources g := by
      split <;> rfl
    split
    · rfl
    · split
      · exact refused _ _ _ _
      · split
        · exact refused _ _ _ _
        · split
          next fired => exact pendingFire_besidesSources _ fired
          next => exact refused _ _ _ _

end Sources

theorem exec_source_frame {c : Instr} (source : sourceCommand c = true) (p : List Instr) (b : Blk) :
    ∃ u, exec c ⟨p, b⟩ = .next ⟨p, u⟩ ∧ besidesSources u = besidesSources b := by
  have blind := besidesSources_blind.headerBlind
  cases c with
  | wiredLineChange n level => exact ⟨_, rfl, wiredLine_besidesSources b n level rfl⟩
  | pendingWrite who page off bytes => exact ⟨_, rfl, pendingWrite_besidesSources b who page off bytes rfl⟩
  | evcDoorbell who w =>
    refine ⟨_, rfl, blind.onUnit fun g => ?_⟩
    dsimp only
    repeat' split
    · rfl
    · rfl
    · exact besidesSources_blind.fire
  | evcModeWrite who w =>
    refine ⟨_, rfl, blind.onUnit fun g => ?_⟩
    dsimp only
    split <;> rfl
  | pendSet who n w => exact ⟨_, rfl, blind.onUnit fun g => foldl_keeps (fun _ _ => besidesSources_blind.fire) _⟩
  | pendClr who n w =>
    refine ⟨_, rfl, blind.onUnit fun g => foldl_keeps (fun x i => ?_) _⟩
    split <;> rfl
  | sourceConfigWrite who w =>
    refine ⟨_, rfl, blind.onUnit fun g => blind.unlessLocked fun g => ?_⟩
    dsimp only
    repeat' split
    all_goals rfl
  | pnEnWrite who page w => exact ⟨_, rfl, blind.onView fun s g => pnEnable_besidesSources g who s w⟩
  | pnHeadWrite who page w => exact ⟨_, rfl, blind.onView fun s g => pnClaim_besidesSources g who s w⟩
  | _ => cases source

/-! ## Regulators (R375 to R388) -/

/-- The block besides what regulators may change. -/
def besidesRegulators (b : Blk) : Blk := { b with pages := [], pwr := {}, evc := {}, bwr := {}, views := [] }

theorem besidesRegulators_frame {b u : Blk} (same : besidesRegulators u = besidesRegulators b) :
    u = { b with pages := u.pages, pwr := u.pwr, evc := u.evc, bwr := u.bwr, views := u.views } :=
  congrArg (fun x : Blk => { x with pages := u.pages, pwr := u.pwr, evc := u.evc, bwr := u.bwr, views := u.views }) same

theorem besidesRegulators_blind : EventBlind besidesRegulators := fun _ _ _ only => (congrArg besidesRegulators only).trans rfl

theorem issueReq_besidesRegulators (n i : Nat) (x : Waiting) (b : Blk) : besidesRegulators (issueReq n i x b) = besidesRegulators b :=
  ite_keeps rfl rfl

theorem actUnit_keeps {α : Type} {π : Blk → α} {pg : Nat} {f : Blk → Blk} {p : List Instr} {b : Blk} (hf : π (f b) = π b) :
    ∃ u, actUnit pg f ⟨p, b⟩ = .next ⟨p, u⟩ ∧ π u = π b := by
  refine ⟨_, rfl, ?_⟩
  dsimp only
  split
  · exact hf
  · rfl

theorem exec_regulator_frame {c : Instr} (regulator : regulatorCommand c = true) (p : List Instr) (b : Blk) :
    ∃ u, exec c ⟨p, b⟩ = .next ⟨p, u⟩ ∧ besidesRegulators u = besidesRegulators b := by
  cases c with
  | regulatorWindow n =>
    refine actUnit_keeps ?_
    split <;> rfl
  | regulatorIssue n arrivals =>
    refine actUnit_keeps (ite_keeps ?_ rfl)
    dsimp only
    split
    · exact issueReq_besidesRegulators n _ _ _
    · rfl
  | feedbackLevelChange n level =>
    have counted {q : Prop} [Decidable q] (g : Blk) : besidesRegulators (if q then pageErr pgBWR 0x0A g else g) = besidesRegulators g :=
      ite_keeps rfl rfl
    refine actUnit_keeps (ite_keeps (ite_keeps ?_ (ite_keeps ?_ ?_)) rfl)
    · exact counted _
    · exact besidesRegulators_blind.fire.trans (counted _)
    · exact counted _
  | regulatorCtrlCommit who n w =>
    have blind := besidesRegulators_blind.headerBlind
    refine ⟨_, rfl, blind.onUnit fun g => blind.unlessLocked fun g => ?_⟩
    unfold commitReg
    dsimp only
    repeat' split
    all_goals rfl
  | _ => cases regulator

end Sys2Proof.Machine

namespace Sys2Proof

open Sys2Proof.Machine Sys2Proof.Safety

/-- Settles O11: each command keeps the part of the block that its family leaves alone. -/
theorem mailboxEventFrames : Obligations.MailboxEventFrames := by
  intro c p b t hexec
  refine ⟨fun mailbox => ?_, fun source => ?_, fun regulator => ?_⟩
  · obtain ⟨u, hu, same⟩ := exec_mailbox_frame mailbox p b
    cases hu.symm.trans hexec
    exact ⟨rfl, besidesMailbox_frame same⟩
  · obtain ⟨u, hu, same⟩ := exec_source_frame source p b
    cases hu.symm.trans hexec
    exact ⟨rfl, besidesSources_frame same⟩
  · obtain ⟨u, hu, same⟩ := exec_regulator_frame regulator p b
    cases hu.symm.trans hexec
    exact ⟨rfl, besidesRegulators_frame same⟩

end Sys2Proof

/-! Frames of settings and of reads (R451, R457, R474, R484, R488 to R491). -/

namespace Sys2Proof.Machine

open Sys2Proof.Safety

section

variable {b : Blk}

/-! ## Page headers, idling, the seal and the start -/

/-- The block besides page headers and PWR. -/
def besidesHeaders (b : Blk) : Blk := { b with pages := [], pwr := {} }

theorem besidesHeaders_frame {u : Blk} (same : besidesHeaders u = besidesHeaders b) : u = { b with pages := u.pages, pwr := u.pwr } :=
  congrArg (fun x : Blk => { x with pages := u.pages, pwr := u.pwr }) same

theorem besidesHeaders_blind : HeaderBlind besidesHeaders := fun _ _ only => (congrArg besidesHeaders only).trans rfl

theorem lockPageWrite_besidesHeaders (who : Who) (off : Nat) (w : W32) : besidesHeaders (lockPageWrite who off w b) = besidesHeaders b := by
  unfold lockPageWrite
  split
  · exact besidesHeaders_blind.onView fun _ _ => rfl
  · split
    · exact besidesHeaders_blind.onUnit fun _ => ite_keeps rfl rfl
    · rfl

theorem errorClear_besidesHeaders (who : Who) (off : Nat) (w : W32) : besidesHeaders (errorClear who off w b) = besidesHeaders b := by
  unfold errorClear
  split
  · exact besidesHeaders_blind.onView fun _ _ => ite_keeps rfl rfl
  · split
    · exact besidesHeaders_blind.onUnit fun _ => ite_keeps rfl rfl
    · rfl

theorem freezeWrite_besidesHeaders (who : Who) (off : Nat) (w : W32) : besidesHeaders (freezeWrite who off w b) = besidesHeaders b := by
  unfold freezeWrite
  split
  · exact besidesHeaders_blind.onView fun _ _ => rfl
  · split
    next pg _ _ _ =>
      have gate := besidesHeaders_blind (onlyHeaders_gate who pg true b)
      split
      next hpass => rwa [hpass] at gate
      next hpass =>
        rw [hpass] at gate
        rw [← gate]
        exact ite_keeps rfl rfl
    · rfl

theorem exec_header_frame {c : Instr} (header : headerCommand c = true) (p : List Instr) (b : Blk) :
    ∃ u, exec c ⟨p, b⟩ = .next ⟨p, u⟩ ∧ besidesHeaders u = besidesHeaders b := by
  cases c with
  | pageLockWrite who off w => exact ⟨_, rfl, lockPageWrite_besidesHeaders who off w⟩
  | pageFreezeWrite who off w => exact ⟨_, rfl, freezeWrite_besidesHeaders who off w⟩
  | pageErrorClear who off w => exact ⟨_, rfl, errorClear_besidesHeaders who off w⟩
  | _ => cases header

theorem exec_idle_frame {c : Instr} (idle : idleCommand c = true) (p : List Instr) (b : Blk) :
    ∃ u, exec c ⟨p, b⟩ = .next ⟨p, u⟩ ∧ besidesHeaders u = besidesHeaders b := by
  cases c with
  | b1Entry => exact ⟨_, rfl, ite_keeps rfl rfl⟩
  | b1Exit cause =>
    have left := besidesHeaders_blind (onlyHeaders_leaveB1 b)
    cases cause with
    | packet typ => exact ⟨_, rfl, ite_keeps left rfl⟩
    | hostTlp | register | fire => exact ⟨_, rfl, left⟩
  | startGo who w => exact ⟨_, rfl, besidesHeaders_blind.onUnit fun _ => ite_keeps rfl rfl⟩
  | rsSealWrite who w => exact ⟨_, rfl, besidesHeaders_blind.onUnit fun _ => besidesHeaders_blind.unlessLocked fun _ => rfl⟩
  | _ => cases idle

/-! ## Settings of the trace unit -/

/-- The block besides what settings of the trace unit and of slices' rings may change. -/
def besidesTrace (b : Blk) : Blk := { b with pages := [], pwr := {}, trc := {}, views := [] }

theorem besidesTrace_frame {u : Blk} (same : besidesTrace u = besidesTrace b) :
    u = { b with pages := u.pages, pwr := u.pwr, trc := u.trc, views := u.views } :=
  congrArg (fun x : Blk => { x with pages := u.pages, pwr := u.pwr, trc := u.trc, views := u.views }) same

theorem besidesTrace_blind : HeaderBlind besidesTrace := fun _ _ only => (congrArg besidesTrace only).trans rfl

theorem stEnable_besidesTrace (who : Who) (slice : Nat) (w : W32) : besidesTrace (stEnable who slice w b) = besidesTrace b := by
  have refused (code : Nat) (g : Blk) : besidesTrace (errFrom who slice pgTRC code g) = besidesTrace g :=
    besidesTrace_blind (onlyHeaders_errFrom who slice pgTRC code g)
  exact ite_keeps (ite_keeps rfl (refused _ _)) (ite_keeps (refused _ _) (ite_keeps rfl (ite_keeps (refused _ _) rfl)))

/-- The word with ARM and TRG_NOW is a setting where it does not trigger. -/
theorem trcWord60_besidesTrace {w : W32} (noTrigger : w.getLsbD 1 = false) : besidesTrace (trcWord60 w b) = besidesTrace b := by
  unfold trcWord60
  rw [if_neg (ne_true_of_eq_false noTrigger)]
  exact ite_keeps (ite_keeps rfl rfl) rfl

theorem exec_traceSetting_frame {c : Instr} (setting : traceSetting c = true) (p : List Instr) (b : Blk) :
    ∃ u, exec c ⟨p, b⟩ = .next ⟨p, u⟩ ∧ besidesTrace u = besidesTrace b := by
  cases c with
  | arm who w =>
    have noTrigger : w.getLsbD 1 = false := by simpa [traceSetting] using setting
    exact ⟨_, rfl, besidesTrace_blind.onUnit fun _ => trcWord60_besidesTrace noTrigger⟩
  | tbModeWrite who w => exact ⟨_, rfl, besidesTrace_blind.onUnit fun _ => besidesTrace_blind.unlessLocked fun _ => ite_keeps rfl rfl⟩
  | stEnWrite who page w => exact ⟨_, rfl, besidesTrace_blind.onView fun s _ => stEnable_besidesTrace who s w⟩
  | _ => cases setting

/-! ## Reads -/

/-- The block besides what a read of the window may change. -/
def besidesReads (b : Blk) : Blk := { b with readOut := 0, latches := [], mbx := {}, pwr := {}, pages := [] }

theorem besidesReads_frame {u : Blk} (same : besidesReads u = besidesReads b) :
    u = { b with readOut := u.readOut, latches := u.latches, mbx := u.mbx, pwr := u.pwr, pages := u.pages } :=
  congrArg (fun x : Blk => { x with readOut := u.readOut, latches := u.latches, mbx := u.mbx, pwr := u.pwr, pages := u.pages }) same

theorem besidesReads_blind : HeaderBlind besidesReads := fun _ _ only => (congrArg besidesReads only).trans rfl

theorem readWord_besidesReads (v : Nat) : besidesReads (readWord v b) = besidesReads b := rfl

theorem latchWord_besidesReads (who : Who) (off : Nat) (w : W32) : besidesReads (latchWord who off w b) = besidesReads b := by
  unfold latchWord
  split <;> rfl

theorem readLock_besidesReads (who : Who) (l : Nat) : besidesReads (readLock who l b) = besidesReads b := by
  unfold readLock
  repeat' split
  all_goals rfl

theorem readUnit_besidesReads (who : Who) (off pg : Nat) (i : PageInfo) (rel : Nat) :
    besidesReads (readUnit who off pg i rel b).1 = besidesReads b := by
  unfold readUnit
  split
  · exact readLock_besidesReads who _
  · split
    · rfl
    · split
      · rfl
      · split
        · dsimp only
          split
          · rw [latchWord_besidesReads, latchWord_besidesReads]
          · exact latchWord_besidesReads who _ _
        · split <;> rfl

theorem readView_besidesReads (who : Who) (slice rel : Nat) : besidesReads (readView who slice rel b).1 = besidesReads b := by
  unfold readView
  dsimp only
  split
  · rfl
  · split
    · rw [latchWord_besidesReads, latchWord_besidesReads]
    · split <;> rfl

theorem seeOne_besidesReads (who : Who) (off : Nat) : besidesReads (seeOne who off b).1 = besidesReads b := by
  unfold seeOne readOne
  split
  · rfl
  · split
    · split
      · exact readView_besidesReads who _ _
      · rfl
    · split
      · exact readUnit_besidesReads who off _ _ _
      · rfl

/-- The block that a read finds: a host's read may leave B1 or ask for a wake. -/
theorem readPass_besidesReads (who : Who) (off : Nat) :
    besidesReads (if isDebug who then
        (if b.pwr.pstate < 2 ∧ alwaysOn (gatePage who off) = false then leaveB1 b else b, b.pwr.supplies || b.pwr.pstate == 3)
      else gatePower who (gatePage who off) false b).1 = besidesReads b := by
  split
  · exact ite_keeps (besidesReads_blind (onlyHeaders_leaveB1 b)) rfl
  · exact besidesReads_blind (onlyHeaders_gate who _ false b)

theorem readAt_besidesReads (who : Who) (off size : Nat) : besidesReads (readAt who off size b) = besidesReads b := by
  have found := readPass_besidesReads (b := b) who off
  unfold readAt
  dsimp only
  split
  next hpass =>
    rw [hpass] at found
    rw [readWord_besidesReads, found]
  next hpass =>
    rw [hpass] at found
    rw [← found]
    refine ite_keeps (readWord_besidesReads _) (ite_keeps ?_ ?_)
    · rw [readWord_besidesReads, seeOne_besidesReads]
    · rw [readWord_besidesReads, seeOne_besidesReads, seeOne_besidesReads]

end

end Sys2Proof.Machine

namespace Sys2Proof

open Sys2Proof.Machine Sys2Proof.Safety

/-- Settles O12: each command keeps the part of the block that its family leaves alone. -/
theorem settingFrames : Obligations.SettingFrames := by
  intro c p b t hexec
  refine ⟨fun header => ?_, fun idle => ?_, fun setting => ?_, ?_⟩
  · obtain ⟨u, hu, same⟩ := exec_header_frame header p b
    cases hu.symm.trans hexec
    exact ⟨rfl, besidesHeaders_frame same⟩
  · obtain ⟨u, hu, same⟩ := exec_idle_frame idle p b
    cases hu.symm.trans hexec
    exact ⟨rfl, besidesHeaders_frame same⟩
  · obtain ⟨u, hu, same⟩ := exec_traceSetting_frame setting p b
    cases hu.symm.trans hexec
    exact ⟨rfl, besidesTrace_frame same⟩
  · rintro who off size rfl
    cases hexec
    exact ⟨rfl, besidesReads_frame (readAt_besidesReads who off size)⟩

end Sys2Proof

/-! Page headers (R484, R488): an error counts on its page alone, and a locked page keeps its retained fields. -/

namespace Sys2Proof.Machine

open Sys2Proof.Safety

section

variable {b t : Blk} {pg pg' code ft : Nat} {h : PageHdr} {who : Who} {p : List Instr}

theorem PageHdr.count_first (zero : h.err.val = 0) (unset : h.err.sat = false) :
    h.count ft code = { h with err := ⟨1, false⟩, errCode := BitVec.ofNat 8 code, errFt := BitVec.ofNat 24 (ft / 1024) } := by
  have room : h.err.val ≠ BitVec.allOnes 31 := by
    rw [zero]
    decide
  have bump : h.err.bump = ⟨1, false⟩ := by
    rw [Ctr.bump_of_ne_allOnes room, zero, unset]
    decide
  rw [count, if_pos ⟨zero, unset⟩, bump]

theorem PageHdr.count_later (counted : h.err.val ≠ 0) : h.count ft code = { h with err := h.err.bump } :=
  if_neg fun first => counted first.1

theorem pageErr_hdr_same : (pageErr pg code b).hdr pg = (b.hdr pg).count b.ft code := Tab.getD_set_same _ _ _ _

theorem pageErr_hdr_other (other : pg' ≠ pg) : (pageErr pg code b).hdr pg' = b.hdr pg' := Tab.getD_set_other _ _ _ other

theorem unlessLocked_of_locked {k : Blk → Blk} (locked : (b.hdr pg).locked = true) : unlessLocked pg b k = pageErr pg 0x03 b := if_pos locked

/-- A write of a retained field on a locked page comes to one error of that page. -/
theorem act_onUnit_locked {k : Blk → Blk} (takes : unitTakes who pg b t) (locked : (t.hdr pg).locked = true) :
    act (fun b => onUnit who pg b fun b => unlessLocked pg b k) ⟨p, b⟩ = .next ⟨p, pageErr pg 0x03 t⟩ := by
  rw [act_on, onUnit_takes takes, unlessLocked_of_locked locked]

theorem plainUnit_stallMs_locked {w : W32} (locked : (b.hdr pgRCV).locked = true) : plainUnit pgRCV 0x40 w b = pageErr pgRCV 0x03 b := by
  have rcv : plainUnit pgRCV 0x40 w b = plainRcv 0x40 w b := rfl
  rw [rcv, plainRcv, unlessLocked_of_locked locked]

end

end Sys2Proof.Machine

namespace Sys2Proof

open Sys2Proof.Machine Sys2Proof.Safety

/-- Settles O16: the page's header after an error is its count, and every other page's is as before. -/
theorem firstErrorLatches : Obligations.FirstErrorLatches := by
  refine ⟨fun h ft code => PageHdr.count_first, fun h ft code => PageHdr.count_later, fun pg code pg' b => pageErr_hdr_other,
    fun pg code b => ⟨pageErr_hdr_same, rfl⟩, fun slice pg code b other => ?_⟩
  have view : (pageErr (pgView slice) code b).hdr pg = b.hdr pg := pageErr_hdr_other other
  rw [viewErr, pageErr_hdr_same, pageErr_hdr_other other.symm, pageErr_hdr_same, view]
  exact ⟨rfl, rfl⟩

/-- Settles O17: each of the writes asks first whether its page is locked. -/
theorem lockedPagesKeepTheirFields : Obligations.LockedPagesKeepTheirFields := by
  intro p b t who n w
  refine ⟨act_onUnit_locked, act_onUnit_locked, act_onUnit_locked, act_onUnit_locked, act_onUnit_locked, act_onUnit_locked,
    act_onUnit_locked, fun u k _ _ => plainUnit_stallMs_locked⟩

/-- Settles O18: what a command of a unit's own or of the link layer does, it does only while that runs. That the event is given again
later is the model's choice (log 13), and so is that nothing acts before SUPPLIES_VALID (log 9). -/
theorem heldUnitsDoNothing : Obligations.HeldUnitsDoNothing := by
  intro c p b
  refine ⟨fun pg event held => ?_, fun event held => ?_⟩
  · obtain ⟨u, hu⟩ := exec_unit_event event p b
    rw [hu, if_neg]
    rcases held with frozen | stopped
    · simp [frozen]
    · simp [stopped]
  · obtain ⟨u, hu⟩ := exec_link_event event p b
    rw [hu, if_neg]
    rintro ⟨on, awake, free⟩
    rcases held with frozen | asleep | off
    · simp [free] at frozen
    · omega
    · simp [on] at off

end Sys2Proof

/-! Locks (R411): who owns one, and what its reads and writes do. -/

namespace Sys2Proof.Machine

open Sys2Proof.Safety

section

variable {b t : Blk} {who : Who} {n k pg size : Nat} {w : W32} {p : List Instr} {secure : Bool}

/-- A read that reaches its page goes on in the state that it finds. -/
theorem onRead_takes {f : Blk → Blk} (gate : gatePower who pg false b = (t, true)) (sized : sizeIs size = true) :
    onRead who pg size b f = f t := by
  rw [onRead, gate]
  exact if_pos sized

theorem exec_lockRead_takes (gate : gatePower who (lockPage n) false b = (t, true)) (noDebug : isDebug who = false) :
    exec (.lockRead who n) ⟨p, b⟩ = .next ⟨p, readLock who n t⟩ := by
  rw [exec_lockRead, execLockRead, act_on, onRead_takes gate rfl, if_neg (by simp [noDebug])]

/-- A secure lock shows itself to the secure world alone. -/
theorem readLock_hidden (lock : n < 64) (isSecure : 32 ≤ n) (nonSecure : secureWorld b who = false) (noDebug : isDebug who = false) :
    readLock who n b = readWord 0xFFFFFFFF b := by
  rw [readLock, if_neg lock.not_ge, if_pos ⟨isSecure, nonSecure, by simp [noDebug]⟩]

/-- No lock hides from one who sees it: a secure one from the secure world, another from nobody. -/
theorem not_hidden (sees : 32 ≤ n → secureWorld b who = true) :
    ¬ (32 ≤ n ∧ secureWorld b who = false ∧ (!(isDebug who && decide (3 ≤ b.sec.dbgLevel))) = true) := by
  rintro ⟨isSecure, nonSecure, -⟩
  simp [sees isSecure] at nonSecure

theorem readLock_free (lock : n < 64) (sees : 32 ≤ n → secureWorld b who = true) (free : b.mbx.locks.get? n = none)
    (number : ownerNumber b who = some k) : readLock who n b = readWord 0 (b.mbxU fun m => { m with locks := m.locks.set n k }) := by
  simp only [readLock, if_neg lock.not_ge, if_neg (not_hidden sees), free, number]

theorem readLock_held (lock : n < 64) (sees : 32 ≤ n → secureWorld b who = true) (held : b.mbx.locks.get? n = some k) :
    readLock who n b = readWord k b := by
  simp only [readLock, if_neg lock.not_ge, if_neg (not_hidden sees), held]

theorem exec_lockFreeWrite_takes (takes : unitTakes who (lockPage n) b t) :
    exec (.lockFreeWrite who n w) ⟨p, b⟩ = .next ⟨p, writeLock who n w t⟩ := by
  rw [exec_lockFreeWrite, execLockFreeWrite, act_on, onUnit_takes takes]

theorem writeLock_frees (held : b.mbx.locks.get? n = some k) (owner : ownerNumber b who = some k) :
    writeLock who n 0 b = b.mbxU fun m => { m with locks := m.locks.del n } := by
  simp [writeLock, held, owner]

theorem writeLock_nonzero (held : b.mbx.locks.get? n = some k) (owner : ownerNumber b who = some k) (nonzero : w ≠ 0) :
    writeLock who n w b = pageErr (lockPage n) 0x05 b := by
  simp only [writeLock, held, owner, ne_eq, not_true_eq_false, if_false, nonzero, not_false_eq_true, if_true]

theorem writeLock_other (other : ∀ k, b.mbx.locks.get? n = some k → ownerNumber b who ≠ some k) :
    writeLock who n w b = pageErr (lockPage n) 0x02 b := by
  unfold writeLock
  split
  next held => exact if_pos (other _ held)
  next => rfl

theorem exec_lockBreak_takes (takes : unitTakes who (if secure then pgMBX + 3 else pgMBX) b t) :
    exec (.lockBreak who secure w) ⟨p, b⟩ = .next ⟨p,
      if (secure = true ↔ 32 ≤ bits w.toNat 0 6) then t.mbxU fun m => { m with locks := m.locks.del (bits w.toNat 0 6) }
      else pageErr (if secure then pgMBX + 3 else pgMBX) 0x05 t⟩ := by
  rw [exec_lockBreak, execLockBreak, act_on, onUnit_takes takes, breakLock]
  have own : (secure = decide (32 ≤ bits w.toNat 0 6)) ↔ (secure = true ↔ 32 ≤ bits w.toNat 0 6) := by
    rw [Bool.eq_iff_iff, decide_eq_true_iff]
  simp only [own]

end

end Sys2Proof.Machine

namespace Sys2Proof

open Sys2Proof.Machine Sys2Proof.Safety

/-- Settles O20: the lock's present owner selects what a read or a write of it does. That the management processor's number is the same on
its secure port is the model's reading (log 71). -/
theorem locksHaveOneOwner : Obligations.LocksHaveOneOwner := by
  refine ⟨?read, ?hidden, ?write, fun p b t who secure w => exec_lockBreak_takes, ?numbers⟩
  case read =>
    intro p b t who n k gate lock noDebug sees
    rw [exec_lockRead_takes gate noDebug]
    exact ⟨fun free number => by rw [readLock_free lock sees free number], fun held => by rw [readLock_held lock sees held]⟩
  case hidden =>
    intro p b t who n gate isSecure lock nonSecure noDebug
    rw [exec_lockRead_takes gate noDebug, readLock_hidden lock isSecure nonSecure noDebug]
  case write =>
    intro p b t who n w takes
    rw [exec_lockFreeWrite_takes takes]
    refine ⟨?_, fun k held owner nonzero => by rw [writeLock_nonzero held owner nonzero], fun notOwner => ?_⟩
    · rintro k held owner rfl
      rw [writeLock_frees held owner]
    · rw [writeLock_other]
      rintro k held owner
      rcases notOwner with free | ⟨k', held', other⟩
      · simp [free] at held
      · cases held.symm.trans held'
        exact other owner
  case numbers =>
    exact fun b => ⟨rfl, rfl, fun q v nonSecure => if_neg (by simp [nonSecure]), fun q v secure => if_pos secure⟩

end Sys2Proof

/-! Event sources and Pennant rings (R391 to R404, R412): what a fire latches, the sensing modes, configuration, and the rings of slices. -/

namespace Sys2Proof.Machine

open Sys2Proof.Safety

section

variable {b t u : Blk} {who : Who} {n c ft page slice i : Nat} {d : BitVec 32} {w : W32} {p : List Instr} {level : Bool} {src : Source'}
  {cq : Option Nat}

/-! ## Fires (R391, R392) -/

theorem fire_unassigned (awake : b.pwr.pstate < 2) (unassigned : (b.source n).assigned = false) : fire n c d b = pageErr pgEVC 0x07 b := by
  rw [fire, if_neg (by omega), if_neg (by simp [unassigned])]

theorem fire_assigned (awake : b.pwr.pstate < 2) (assigned : (b.source n).assigned = true) :
    fire n c d b = leaveB1 (b.updSource n fun s => s.fire c d b.ft none) := by
  rw [fire, if_neg (by omega), if_pos assigned]

/-- Sources other than wired ones do not fire in B2 (R396). -/
theorem fire_asleep (unwired : 64 ≤ n) (asleep : 2 ≤ b.pwr.pstate) : fire n c d b = b := if_pos ⟨asleep, unwired⟩

@[simp] theorem leaveB1_source (b : Blk) (n : Nat) : (leaveB1 b).source n = b.source n := by
  unfold leaveB1
  split <;> rfl

@[simp] theorem Blk.updSource_source (b : Blk) (n : Nat) (f : Source' → Source') : (b.updSource n f).source n = f (b.source n) :=
  Tab.getD_set_same _ _ _ _

theorem fire_source (awake : b.pwr.pstate < 2) (assigned : (b.source n).assigned = true) :
    (fire n c d b).source n = (b.source n).fire c d b.ft none := by
  rw [fire_assigned awake assigned, leaveB1_source, Blk.updSource_source]

theorem Source'.fire_pending : (src.fire c d ft cq).pending = true := by
  unfold Source'.fire
  dsimp only
  split
  · assumption
  · rfl

theorem Source'.fire_count : (src.fire c d ft cq).count = min 255 (src.count + 1) := by
  have count : (src.fire c d ft cq).count = if src.count < 255 then src.count + 1 else 255 := by
    unfold Source'.fire
    dsimp only
    split <;> rfl
  rw [count]
  split <;> omega

/-- The first fire since the source was clear is the one whose context, data and time it keeps. -/
theorem Source'.fire_first (clear : src.pending = false) :
    (src.fire c d ft cq).ctx = c ∧ (src.fire c d ft cq).data = d ∧ (src.fire c d ft cq).time = ft ∧ (src.fire c d ft cq).mixed = false := by
  simp [Source'.fire, clear]

theorem Source'.fire_mixes (pending : src.pending = true) (other : src.ctx ≠ c) :
    (src.fire c d ft cq).ctx = 0xFFFF ∧ (src.fire c d ft cq).mixed = true := by
  simp [Source'.fire, pending, other.symm]

/-! ## Wired lines and sensing modes (R393 to R395) -/

/-- The block with the level of a wired line. -/
def withLine (n : Nat) (level : Bool) (b : Blk) : Blk :=
  b.evcU fun v => { v with lines := if level then v.lines ||| (1#64 <<< n) else v.lines &&& ~~~(1#64 <<< n) }

/-- A line that EVC hears takes its level; in SERVICE a change to the active level fires. -/
theorem exec_wiredLineChange_heard (wired : n < 64) (on : b.pwr.supplies = true) (below : b.pwr.pstate < 3) (free : frozenUnit b pgEVC = false) :
    exec (.wiredLineChange n level) ⟨p, b⟩ = .next ⟨p,
      if b.evc.mode = 0 ∧ b.evc.lines.getLsbD n ≠ level ∧ level = !(b.source n).activeLow then
        if (fire n noOne 0 (withLine n level b)).pwr.pstate = 2 ∧ (b.source n).wake ∧ (b.source n).assigned ∧
            (fire n noOne 0 (withLine n level b)).pwr.wakePending.isNone then
          (fire n noOne 0 (withLine n level b)).pwrU fun p => { p with wakePending := some (2, n) }
        else fire n noOne 0 (withLine n level b)
      else withLine n level b⟩ := by
  rw [exec_wiredLineChange, execWiredLineChange, act_on, if_neg (by simp [wired.not_ge, below.not_ge, on, free])]
  rfl

/-- In software mode a line changes itself alone (R395). -/
theorem exec_wiredLineChange_software (wired : n < 64) (on : b.pwr.supplies = true) (below : b.pwr.pstate < 3)
    (free : frozenUnit b pgEVC = false) (software : b.evc.mode ≠ 0) :
    exec (.wiredLineChange n level) ⟨p, b⟩ = .next ⟨p, withLine n level b⟩ := by
  rw [exec_wiredLineChange_heard wired on below free, if_neg fun service => software service.1]

theorem exec_wiredLineChange_fires (wired : n < 64) (on : b.pwr.supplies = true) (awake : b.pwr.pstate < 2)
    (free : frozenUnit b pgEVC = false) (service : b.evc.mode = 0) (change : b.evc.lines.getLsbD n ≠ level)
    (active : level = !(b.source n).activeLow) :
    exec (.wiredLineChange n level) ⟨p, b⟩ = .next ⟨p, fire n noOne 0 (withLine n level b)⟩ := by
  have stays : (fire n noOne 0 (withLine n level b)).pwr.pstate < 2 := fire_awake n noOne 0 _ awake
  rw [exec_wiredLineChange_heard wired on (awake.trans (by decide)) free, if_pos ⟨service, change, active⟩,
    if_neg fun asleep => stays.ne asleep.1]

/-- An admitted doorbell write of EVC. -/
theorem exec_evcDoorbell_takes (takes : unitTakes who pgEVC b t) :
    exec (.evcDoorbell who w) ⟨p, b⟩ = .next ⟨p,
      if 8175 < bits w.toNat 0 13 then pageErr pgEVC 0x05 t
      else if t.evc.mode = 0 then pageErr pgEVC 0x06 t
      else fire (bits w.toNat 0 13) noOne 0 t⟩ := by
  rw [exec_evcDoorbell, execEvcDoorbell, act_on, onUnit_takes takes]

/-- An admitted write of the sensing mode. -/
theorem exec_evcModeWrite_takes (takes : unitTakes who pgEVC b t) :
    exec (.evcModeWrite who w) ⟨p, b⟩ = .next ⟨p,
      if bits w.toNat 0 2 = 0 ∨ bits w.toNat 0 2 = 2 then t.evcU fun v => { v with mode := bits w.toNat 0 2 } else pageErr pgEVC 0x05 t⟩ := by
  rw [exec_evcModeWrite, execEvcModeWrite, act_on, onUnit_takes takes]

end

end Sys2Proof.Machine

namespace Sys2Proof

open Sys2Proof.Machine Sys2Proof.Safety

/-- Settles O21: the mode selects what a doorbell or a line does, and whether a source was pending what its fire latches (R391, R396). -/
theorem sensingModesGateFires : Obligations.SensingModesGateFires := by
  refine ⟨?writes, ?line, fun n c d b => fire_unassigned, fun n c d b => fire_asleep, ?fires⟩
  case writes =>
    intro p b t who w takes
    rw [exec_evcDoorbell_takes takes, exec_evcModeWrite_takes takes]
    refine ⟨fun beyond => by rw [if_pos beyond], fun source off => by rw [if_neg source.not_gt, if_pos off], fun reserved => ?_⟩
    rw [if_neg (by omega)]
  case line => exact fun p b n x software wired on below free => exec_wiredLineChange_software wired on below free software
  case fires =>
    intro n c d b awake assigned
    rw [fire_source awake assigned]
    exact ⟨Source'.fire_pending, Source'.fire_count, Source'.fire_first, Source'.fire_mixes⟩

end Sys2Proof

namespace Sys2Proof.Machine

open Sys2Proof.Safety

section

variable {b t u : Blk} {who : Who} {n page slice i : Nat} {w : W32} {p : List Instr} {src : Source'} {bytes : Bytes}

/-! ## Pending writes and configuration (R392, R397, R412) -/

/-- A slice's pending write that its port takes. -/
theorem exec_pendingWrite_takes (takes : pageTakes who (pgView page) page slice b t) (writer : portWriter t who slice = true)
    (sized : bytes.length = 4 ∨ bytes.length = 8)
    (fired : pendingFire slice (portCtx who) (field bytes 0 4 % 8192) (BitVec.ofNat 32 (field bytes 4 4)) t = some u) :
    exec (.pendingWrite who page 0x310 bytes) ⟨p, b⟩ = .next ⟨p, u⟩ := by
  obtain ⟨gate, found⟩ := takes
  have size : (bytes.length == 4 || bytes.length == 8) = true := by simpa using sized
  simp [exec_pendingWrite, execPendingWrite, act_on, gate, found, writer, size, fired]

/-- A source that is disabled and not pending takes any configuration. -/
theorem exec_sourceConfigWrite_takes (takes : unitTakes who pgEVC b t) (unlocked : (t.hdr pgEVC).locked = false)
    (source : t.evc.srcSel ≤ 8175) (disabled : (t.source t.evc.srcSel).enabled = false) (clear : (t.source t.evc.srcSel).pending = false) :
    exec (.sourceConfigWrite who w) ⟨p, b⟩ =
      .next ⟨p, t.updSource t.evc.srcSel fun _ => configured t.evc.srcSel w (t.source t.evc.srcSel)⟩ := by
  rw [exec_sourceConfigWrite, execSourceConfigWrite, act_on, onUnit_takes takes, unlessLocked_of_not unlocked]
  simp only [source.not_gt, disabled, clear, Bool.false_eq_true, or_self, and_false, if_false]

/-! ## Pennant rings (R399, R401) -/

/-- The enable of a ring that is out of service, with a size in range at a good base. -/
theorem pnEnable_enables (off : (b.view slice).pnEn = false) (on : bit w.toNat 4 = true) (size : pnLogOk (bits w.toNat 0 4) = true)
    (base : pnBaseOk (b.view slice).pnBase (bits w.toNat 0 4) = true) :
    pnEnable who slice w b = (b.updView slice fun v => { v with
      pnLog2 := bits w.toNat 0 4, pnEn := true, pnVector := bits w.toNat 16 8, pnHead := 0, pnTail := 0, pnPhase := true }).evcU fun e =>
        { e with shadow := e.shadow.filter fun s => s.slice != slice } := by
  simp [pnEnable, off, on, size, base]

/-- The winner that is first in order is presented, unless it needs a shadow entry and the pool is full. -/
theorem presented_of_first (first : (competing b slice).head? = some (i, src)) (room : (needsShadow src && shadowFull b) = false) :
    presented b slice = some (i, src) := by
  obtain ⟨rest, hrest⟩ : ∃ rest, competing b slice = (i, src) :: rest := by
    cases hc : competing b slice with
    | nil => simp [hc] at first
    | cons e rest =>
      rw [hc, List.head?_cons, Option.some.injEq] at first
      exact ⟨rest, by rw [first]⟩
  rw [presented, hrest, List.find?_cons_of_pos (by simp [room])]

/-- The slice that is next in turn has its winner written. -/
theorem exec_pennantRecordIssue_winner (on : unitOn pgEVC b) (next : nextPennant b = some n) (noOwed : owedRecord b n = none)
    (first : (competing b n).head? = some (i, src)) (room : (needsShadow src && shadowFull b) = false) :
    exec .pennantRecordIssue ⟨p, b⟩ = .next ⟨p, takeWinner n i src (b.evcU fun e => { e with lastSlice := n })⟩ := by
  have noOwed' : owedRecord (b.evcU fun e => { e with lastSlice := n }) n = none := noOwed
  have first' : (competing (b.evcU fun e => { e with lastSlice := n }) n).head? = some (i, src) := first
  have room' : (needsShadow src && shadowFull (b.evcU fun e => { e with lastSlice := n })) = false := room
  rw [exec_pennantRecordIssue, execPennantRecordIssue, actUnit_on on]
  simp only [next, noOwed', first', Option.any_some, room', Bool.false_eq_true, if_false, presented_of_first first' room']

end

end Sys2Proof.Machine

namespace Sys2Proof

open Sys2Proof.Machine Sys2Proof.Safety

/-- Settles O53, a clause at a time from what the command does where the clause's hypotheses hold. What PEND_CLR counts, and that an enable
drops the slice's shadow entries, are the model's choices (log 67, 68). -/
theorem sourcesComplete : Obligations.SourcesComplete := by
  unfold Obligations.SourcesComplete
  refine ⟨?line, ?pendingWrite, ?doorbell, ?mode, ?set, ?clear, fun p b who w t => exec_sourceConfigWrite_takes, ?enable, ?head,
    fun p b n i src => exec_pennantRecordIssue_winner⟩
  case line =>
    intro p b n level wired on awake free service before active
    have change : b.evc.lines.getLsbD n ≠ level := by
      rw [before, active]
      exact (Bool.not_ne_self _).symm
    exact exec_wiredLineChange_fires wired on awake free service change active
  case pendingWrite => exact fun p b who page bytes t n u takes writer sized fired => exec_pendingWrite_takes takes writer sized fired
  case doorbell =>
    intro p b who w t takes source software
    rw [exec_evcDoorbell_takes takes, if_neg source.not_gt, if_neg software]
  case mode =>
    intro p b who w t takes mode
    rw [exec_evcModeWrite_takes takes, if_pos mode]
  case set =>
    intro p b who n w t takes
    rw [exec_pendSet, execPendSet, act_on, onUnit_takes takes]
  case clear =>
    intro p b who n w t takes
    rw [exec_pendClr, execPendClr, act_on, onUnit_takes takes]
  case enable =>
    intro p b who page w t n takes off log2 on base
    rw [exec_pnEnWrite, execPnEnWrite, act_on, onView_takes takes, pnEnable_enables off on (by rw [log2]; decide) (by rwa [log2]), log2]
  case head =>
    intro p b who page w t n takes inside filled
    rw [exec_pnHeadWrite, execPnHeadWrite, act_on, onView_takes takes, pnClaim, if_pos ⟨inside, filled⟩]

end Sys2Proof

/-! Low power (R450, R452, R455, R456): what refuses ENTER_B2 and ENTER_B3, the grace, and what is left in B3. -/

namespace Sys2Proof.Machine

open Sys2Proof.Safety

section

variable {b t : Blk} {who : Who} {w : W32} {p : List Instr}

/-! ## The REFUSE bits (Table 14.12) -/

/-- Seven flags that are zero as a number are all clear. -/
theorem flags_clear : ∀ x0 x1 x2 x3 x4 x5 x6 : Bool,
    BitVec.ofNat 7 ((if x0 then 2 ^ 0 else 0) + (if x1 then 2 ^ 1 else 0) + (if x2 then 2 ^ 2 else 0) + (if x3 then 2 ^ 3 else 0) +
      (if x4 then 2 ^ 4 else 0) + (if x5 then 2 ^ 5 else 0) + (if x6 then 2 ^ 6 else 0)) = 0 →
    (x0 || x1 || x2 || x3 || x4 || x5 || x6) = false := by
  decide

/-- The work that the block may hold when it is asked to a lower state. -/
def HoldsWork (b : Blk) : Prop :=
  b.items ≠ [] ∨ b.mar.runs ≠ [] ∨ b.mar.seqs ≠ [] ∨ b.xlt.dirty ≠ [] ∨ b.rcv.dump ≠ none ∨ b.rcv.busy ≠ none ∨ b.mdl.waiting ≠ [] ∨
  (∃ e ∈ b.queues, e.2.isSq = true ∧ e.2.head ≠ e.2.tail) ∨ (∃ e ∈ b.contexts, e.2.records ≠ [])

theorem refuseBits_ne_zero (work : HoldsWork b) : refuseBits b ≠ 0 := by
  intro zero
  have clear := flags_clear _ _ _ _ _ _ _ zero
  simp only [Bool.or_eq_false_iff] at clear
  obtain ⟨⟨⟨⟨⟨⟨items, -⟩, queues⟩, runs, seqs⟩, records⟩, dirty⟩, ⟨⟨⟨dump, busy⟩, -⟩, waiting⟩, -⟩ := clear
  rcases work with h | h | h | h | h | h | h | ⟨e, mem, sq, unfetched⟩ | ⟨e, mem, recorded⟩
  · exact h (by simpa using items)
  · exact h (by simpa using runs)
  · exact h (by simpa using seqs)
  · exact h (by simpa using dirty)
  · exact h (by simpa using dump)
  · exact h (by simpa using busy)
  · exact h (by simpa using waiting)
  · have entries := List.any_eq_false.mp queues e mem
    simp [sq, unfetched] at entries
  · have records := List.any_eq_false.mp records e mem
    simp [recorded] at records

theorem enterLow_refused {toB3 : Bool} (refused : refuseBits b ≠ 0) :
    enterLow toB3 b = b.pwrU fun x => { x with presult := 0x17, refuse := refuseBits b } := if_pos refused

theorem enterLow_grace {toB3 : Bool} (idle : refuseBits b = 0) :
    enterLow toB3 b = b.pwrU fun x => { x with presult := 0, refuse := 0, graceFt := some (b.ft + 10000), toB3 := toB3 } :=
  if_neg (not_not.mpr idle)

/-- A PCMD write with the code of an entry that its page admits, on a ready block awake, asks for that entry. -/
theorem pcmdWord_enters {hbmLost : Bool} (entry : bits w.toNat 0 2 = 1 ∨ bits w.toNat 0 2 = 2) (takes : unitTakes who pgPWR b t)
    (free : t.pwr.pbusy = false) (awake : t.pwr.pstate < 2) (ready : t.pwr.ready = true) :
    pcmdWord who w hbmLost b = enterLow (bits w.toNat 0 2 == 2) t := by
  obtain ⟨gate, owns⟩ := takes
  have noWake : bits w.toNat 0 2 ≠ 3 := by omega
  have command : bits w.toNat 0 2 ≠ 0 := by omega
  simp [pcmdWord, gate, owns, noWake, command, free, awake.not_ge, ready]

theorem exec_enter_takes {c : Instr} (entry : c = .enterB2 who w ∧ bits w.toNat 0 2 = 1 ∨ c = .enterB3 who w ∧ bits w.toNat 0 2 = 2)
    (takes : unitTakes who pgPWR b t) (free : t.pwr.pbusy = false) (awake : t.pwr.pstate < 2) (ready : t.pwr.ready = true) :
    exec c ⟨p, b⟩ = .next ⟨p, enterLow (bits w.toNat 0 2 == 2) t⟩ := by
  rcases entry with ⟨rfl, code⟩ | ⟨rfl, code⟩
  · rw [exec_enterB2, execEnterB2, act_on, pcmdWord_enters (.inl code) takes free awake ready]
  · rw [exec_enterB3, execEnterB3, act_on, pcmdWord_enters (.inr code) takes free awake ready]

/-! ## B3 (R455, R456) -/

/-- Nothing but the always-on domain is left in B3, and SEC holds no key there. -/
theorem goB3_darkBlk (b : Blk) : DarkBlk (goB3 b) := ⟨⟨rfl, .inr rfl⟩, rfl, rfl, rfl, rfl, rfl, rfl, rfl, rfl⟩

theorem emit_darkBlk {o : Out} (dark : DarkBlk b) : DarkBlk (b.emit o) := dark.of_darkPart_eq rfl

/-- The end of the grace of ENTER_B3 enters B3 and signals that the core supply may go. -/
theorem exec_b2GraceEnd_off {n : Nat} (on : b.pwr.supplies = true) (toB3 : b.pwr.toB3 = true) (grace : b.pwr.graceFt = some n) (due : n ≤ b.ft) :
    ∃ v, exec .b2GraceEnd ⟨p, b⟩ = .next ⟨p, (goB3 v).emit .coreSupplyMayGo⟩ := by
  rw [exec_b2GraceEnd, execB2GraceEnd, act_on, if_pos (by simp [on, grace, due]), endGrace]
  exact ⟨_, next_of_eq (if_pos toB3)⟩

end

end Sys2Proof.Machine

namespace Sys2Proof

open Sys2Proof.Machine Sys2Proof.Safety

/-- Settles O29: work held is a REFUSE bit, and no REFUSE bit is the grace. That PCMD ends within its command, and what counts as a control
write that waits and as a busy model store, are the model's choices (log 79, 80). -/
theorem lowPowerIsRefusedWhileWorkIsHeld : Obligations.LowPowerIsRefusedWhileWorkIsHeld := by
  intro p b t who w c entry takes free awake ready
  rw [exec_enter_takes entry takes free awake ready]
  refine ⟨fun work => ?_, fun idle => by rw [enterLow_grace idle]⟩
  have refused := refuseBits_ne_zero work
  rw [enterLow_refused refused]
  exact ⟨_, rfl, rfl, refused, rfl, rfl⟩

/-- Settles O31: in both cases B3 is entered with the always-on domain and the retained store alone. That the end of the grace is the end of
the core supply is the model's choice (log 83). -/
theorem supplyLossErasesEverything : Obligations.SupplyLossErasesEverything := by
  refine ⟨fun p b on below noStart => ?_, fun p b n on toB3 grace due noStart => ?_⟩
  · exact ⟨_, exec_coreSupplyLoss_on on below, rfl, dark_iff.mpr ⟨goB3_darkBlk b, noStart⟩, rfl, rfl, rfl, rfl⟩
  · obtain ⟨v, hv⟩ := exec_b2GraceEnd_off (p := p) on toB3 grace due
    exact ⟨_, hv, rfl, dark_iff.mpr ⟨emit_darkBlk (goB3_darkBlk v), noStart⟩⟩

end Sys2Proof

/-! Recovery (R416 to R424, R430 to R433): monitors and fault lines, rungs on request, dumps and self-tests. -/

namespace Sys2Proof.Machine

open Sys2Proof.Safety

section

variable {b t : Blk} {who : Who} {n k op target : Nat} {w : W32} {p : List Instr} {mon : Monitor} {x : Hang} {pass : Bool}

/-! ## Hangs -/

/-- A monitor that has not fired yet for what it names, and that nothing mutes, names the culprit, and RCV acts on it. -/
theorem exec_monitorFire_names (on : unitOn pgRCV b) (hang : hangOf b mon = some x) (fresh : b.rcv.fired.contains x.key = false)
    (heard : hangMuted b x = false) :
    exec (.monitorFire mon) ⟨p, b⟩ = .next ⟨p, settle (actOnHang x (nameCulprit x b))⟩ := by
  rw [exec_monitorFire, execMonitorFire, actUnit_on on]
  simp only [hang, fresh, heard, Bool.false_eq_true, or_self, if_false]

/-- What the fault line of a core names. -/
def faultHang (b : Blk) (k : Nat) : Hang :=
  { heldHang b 6 0x20 k pgSCH ((launchesOn (b.core k)).filterMap fun l => (b.sch.launches.get? l).bind fun y => launchItem b y.owner) with
    ctx := ((b.core k).ctx).getD noOne, key := (6, k, b.rcv.hangs.val.toNat) }

/-- A core that raises its fault line is named while the units run and no rung acts on the core. -/
theorem exec_coreFaultLine_names (core : k < 192) (run : unitsRun b = true) (low : (b.core k).faultLine = false)
    (heard : hangMuted (b.updCore k fun y => { y with faultLine := true }) (faultHang b k) = false) :
    exec (.coreFaultLine k true) ⟨p, b⟩ = .next ⟨p, settle (actOnHang (faultHang b k)
      (nameCulprit (faultHang b k) (b.updCore k fun y => { y with faultLine := true })))⟩ := by
  obtain ⟨on, awake⟩ : b.pwr.supplies = true ∧ b.pwr.pstate < 2 := by
    simp only [unitsRun, Bool.and_eq_true, decide_eq_true_eq] at run
    exact ⟨run.1.1, run.2⟩
  have run' : unitsRun (b.updCore k fun y => { y with faultLine := true }) = true := run
  rw [exec_coreFaultLine, execCoreFaultLine, act_on, if_neg (by simp [core.not_ge, awake.not_ge, on])]
  refine next_of_eq ?_
  dsimp only
  rw [if_neg (by simp [low]), if_neg (by simp [run']), if_neg]
  · rfl
  · exact ne_true_of_eq_false heard

/-! ## Rungs on request (R420) -/

theorem rungRequest_takes {block : Bool} (takes : unitTakes who pgRCV b t) : rungRequest (.cmd who w) block b = rstCmd w t := onUnit_takes takes

/-- A rung below the block reset begins when none runs and its target allows it. -/
theorem rstCmd_begins (isOp : bits w.toNat 0 4 = op) (below : op < 3) (free : b.rcv.busy = none)
    (allowed : rungRefused b op (bits w.toNat 16 16) = none) : rstCmd w b = settle (beginRung op (bits w.toNat 16 16) b) := by
  subst isOp
  simp only [rstCmd, below.ne, (below.trans (by decide : 3 < 4)).ne, free, Option.isSome_none, Bool.false_eq_true, allowed, if_false]

theorem rstCmd_block (isOp : bits w.toNat 0 4 = 3) : rstCmd w b = beginBlockReset b := if_pos isOp

/-- A dump on request starts where dumps are enabled and none runs. -/
theorem rstCmd_dump (isOp : bits w.toNat 0 4 = 4) (free : b.rcv.busy = none) (enabled : b.rcv.dumpBase ≠ 0) (noDump : b.rcv.dump = none) :
    rstCmd w b = b.rcvU fun r => { r with
      result := 0
      dump := some { reason := 0, cause := 0, culprit := noOne, startFt := b.ft, discards := b.rcv.brDiscards.val.toNat } } := by
  simp [rstCmd, isOp, free, startDump, enabled, noDump, Blk.rcvU]

/-! ## Self-tests (R422, R424) -/

theorem testDue_of_down : testDue b false = true := rfl

theorem not_asleep_or_off (awake : b.pwr.pstate < 2) (on : b.pwr.supplies = true) : ¬ (2 ≤ b.pwr.pstate ∨ b.pwr.supplies = false) := by
  simp [awake.not_ge, on]

theorem blockTested_reset (testing : b.rcv.blockPhase = 3) : blockTested pass b = settle (endBlockReset pass b) := if_pos testing

/-- A start or a wake has its self-test behind it. -/
theorem blockTested_start (noReset : b.rcv.blockPhase = 0) (starting : b.pwr.starting = true) (untested : b.pwr.selfTestDone = false) :
    blockTested true b = b.pwrU fun x => { x with selfTestDone := true } := by
  simp [blockTested, noReset, starting, untested]

/-! ## Dumps (R431, R433) -/

theorem exec_dumpReadTimeout_awake (unit : n < 18) (word : k < 8192) (awake : b.pwr.pstate < 2) (on : b.pwr.supplies = true) :
    exec (.dumpReadTimeout n k) ⟨p, b⟩ = .next ⟨p, dumpTimeout n k b⟩ := by
  rw [exec_dumpReadTimeout, execDumpReadTimeout, act_on, if_pos ⟨unit, word, awake, on⟩]

/-- A dump that ends lets the block reset that waited for it go on. -/
theorem exec_dumpComplete_dump {d : Dump} (dump : b.rcv.dump = some d) (awake : b.pwr.pstate < 2) (on : b.pwr.supplies = true) :
    exec .dumpComplete ⟨p, b⟩ = .next ⟨p,
      if d.reason = 4 ∧ (finishDump b).rcv.blockPhase = 1 then stepBlock (blockLose (finishDump b)) else finishDump b⟩ := by
  rw [exec_dumpComplete, execDumpComplete, act_on, if_neg (by simp [dump, awake.not_ge, on])]
  simp only [dump, Option.any_some, beq_iff_eq]

end

end Sys2Proof.Machine

namespace Sys2Proof

open Sys2Proof.Machine Sys2Proof.Safety

/-- Settles O54, a clause at a time. That a monitor fires when its command is given for work that its unit holds, and that OP 4 leaves LAST_OP
as it was, are the model's choices (log 60, 63). -/
theorem hangsAndRungsComplete : Obligations.HangsAndRungsComplete := by
  unfold Obligations.HangsAndRungsComplete
  refine ⟨fun p b mon x => exec_monitorFire_names, ?fault, ?context, ?engine, ?partition, ?block, ?mp, ?dump⟩
  case fault =>
    rintro p b k u x core run low rfl rfl heard
    exact exec_coreFaultLine_names core run low heard
  case context =>
    intro p b who w t takes isOp free allowed
    rw [exec_contextReset, execContextReset, act_on, rungRequest_takes takes, rstCmd_begins isOp (by decide) free allowed]
  case engine =>
    intro p b who w t takes isOp free allowed
    rw [exec_engineReset, execEngineReset, act_on, rungRequest_takes takes, rstCmd_begins isOp (by decide) free allowed]
  case partition =>
    intro p b who w t takes isOp free allowed
    rw [exec_partitionReset, execPartitionReset, act_on, rungRequest_takes takes, rstCmd_begins isOp (by decide) free allowed]
  case block =>
    intro p b who w t takes isOp
    rw [exec_blockReset, execBlockReset, act_on, rungRequest_takes takes, rstCmd_block isOp]
  case mp =>
    intro p b awake on
    rw [exec_blockReset, execBlockReset, act_on, rungRequest, if_pos ⟨rfl, awake, on⟩]
  case dump =>
    intro p b who w t takes isOp free enabled noDump
    rw [exec_dump, execDump, act_on, rungRequest_takes takes, rstCmd_dump isOp free enabled noDump]

/-- Settles O55, a clause at a time. That a dump is written whole at its end, the phases of a block reset, and what a failed self-test of the
block takes out of service are the model's choices (log 56, 57, 129). -/
theorem dumpAndTestsComplete : Obligations.DumpAndTestsComplete := by
  unfold Obligations.DumpAndTestsComplete
  refine ⟨fun p b n k => exec_dumpReadTimeout_awake, ?dump, ?resetDump, ?tre, ?mar, ?port, ?resetEnds, ?started⟩
  case dump =>
    intro p b d dump other awake on
    rw [exec_dumpComplete_dump dump awake on, if_neg fun reset => other reset.1]
  case resetDump =>
    intro p b d dump reset awake on phase
    have phase' : (finishDump b).rcv.blockPhase = 1 := (finishDump_blockPhase b).trans phase
    rw [exec_dumpComplete_dump dump awake on, if_pos ⟨reset, phase'⟩]
  case tre =>
    intro p b pass n awake on engine down
    rw [exec_selfTestDone, execSelfTestDone, act_on, if_neg (not_asleep_or_off awake on)]
    simp only [engine, down, testDue_of_down, and_self, if_true]
  case mar =>
    intro p b pass n awake on engine down
    rw [exec_selfTestDone, execSelfTestDone, act_on, if_neg (not_asleep_or_off awake on)]
    simp only [engine, down, testDue_of_down, and_self, if_true]
  case port =>
    intro p b pass n awake on engine down
    rw [exec_selfTestDone, execSelfTestDone, act_on, if_neg (not_asleep_or_off awake on)]
    simp only [engine, down, testDue_of_down, and_self, if_true]
  case resetEnds =>
    intro p b pass awake on testing
    rw [exec_selfTestDone, execSelfTestDone, act_on, if_neg (not_asleep_or_off awake on)]
    exact next_of_eq (blockTested_reset testing)
  case started =>
    intro p b awake on noReset starting untested
    rw [exec_selfTestDone, execSelfTestDone, act_on, if_neg (not_asleep_or_off awake on)]
    exact next_of_eq (blockTested_start noReset starting untested)

end Sys2Proof

/-! Security (R362, R436 to R449): delivery records, debug levels, challenges, alarms and level-1 grants. -/

namespace Sys2Proof.Machine

open Sys2Proof.Safety

section

variable {b t u : Blk} {who : Who} {n k kind slice page : Nat} {w : W32} {p : List Instr} {rec : Bytes} {x : Challenge} {y : SliceKey}

/-! ## Delivery records -/

theorem identity_takes (lifecycle : bits (field rec 8 4) 0 2 ≠ 3) (short : field rec 8 4 < 2 ^ 12) (pasid : field rec 12 4 < 2 ^ 20)
    (cold : b.pwr.startKind ≠ 1) :
    identity rec b = (takeIdentity (bits (field rec 8 4) 0 2) (bits (field rec 8 4) 2 10) (field rec 12 4) b, 0) := by
  rw [identity]
  dsimp only
  rw [if_neg (by omega), if_neg cold]

/-- A slot that has held a key takes one of a higher generation. -/
theorem loadSliceKey_rises (slot : field rec 2 2 < 4096) (live : (b.slices.get? (field rec 2 2)).all (·.draining) = false)
    (old : b.sec.sliceKeys.get? (field rec 2 2) = some y) (newer : y.gen < field rec 4 1) :
    loadSliceKey rec b = (withHolds (fun b => endNiMgr (field rec 2 2) (b.secU fun s => { s with
      sliceKeys := s.sliceKeys.set (field rec 2 2)
        { y with key := some ((rec.drop 0x20).take 32), gen := field rec 4 1, bound := true, holdKey := false } })) b, 0) := by
  have above : genAbove (some y.gen) (field rec 4 1) = true := decide_eq_true newer
  rw [loadSliceKey]
  dsimp only
  rw [old, if_neg slot.not_ge, if_neg (by simp [live]), if_neg (by simp [above])]
  rfl

/-- The first key of a port out of service goes to bank 0, which becomes the bank in use (log 75). -/
theorem loadLinkKey_first (port : field rec 2 2 < 32) (bank : field rec 1 1 = 0) (idle : portActive b (field rec 2 2) = false)
    (empty : b.sec.linkKeys.get? (field rec 2 2) = none) (own : (b.port (field rec 2 2)).keyBank = 0) :
    loadLinkKey rec b = ((b.secU fun s => { s with
      linkKeys := s.linkKeys.set (field rec 2 2)
        { bank0 := some { key := (rec.drop 0x20).take 32, salt := field rec 8 4 }, gen := field rec 4 1 } }).updPort (field rec 2 2)
      (fun q => { q with keyBank := 0 }), 0) := by
  have noSlot : b.sec.linkKeys.has (field rec 2 2) = false := by simp [Tab.has, empty]
  have fresh : b.sec.linkKeys.getD (field rec 2 2) {} = {} := by simp [Tab.getD, empty]
  have idle' (s : Sec → Sec) : portActive (b.secU s) (field rec 2 2) = false := idle
  simp [loadLinkKey, port.not_ge, bank, idle, noSlot, fresh, own, genAbove, idle']

/-! ## Debug levels -/

theorem grantDebug_met (level : field rec 5 1 = 2 ∨ field rec 5 1 = 3) (grantable : b.sec.lifecycle ≠ 1)
    (met : challengeMet b rec (some (field rec 5 1)) = true) :
    grantDebug rec b = (withHolds (fun b => (setDebug (field rec 5 1) b).secU fun s => { s with dbgFails := 0, chal := none }) b, 0) := by
  rw [grantDebug, if_neg (by omega), if_neg grantable, if_neg (by simp [met])]

/-- A refusal below the eighth in a row only counts. -/
theorem denyDebug_counts (met : challengeMet b rec none = true) (below : (b.sec.dbgFails + 1) % 8 ≠ 0) :
    denyDebug rec b = (b.secU fun s => { s with dbgFails := min 255 (b.sec.dbgFails + 1) }, 0) := by
  rw [denyDebug, if_neg (by simp [met])]
  exact if_neg fun eighth => below eighth.1

/-- A write of the word by the debug port, or by the secure world. -/
theorem debugWord_takes (gate : gatePower who pgSEC true b = (t, true)) (allowed : isDebug who = true ∨ secureWorld t who = true) :
    debugWord who w b =
      (fun b => if bits w.toNat 2 2 = 0 then b else if isDebug who then requestDebug (bits w.toNat 2 2) b else pageErr pgSEC 0x02 b)
        (if bit w.toNat 4 then dropDebug t else t) := by
  rw [debugWord, gate]
  exact if_pos allowed

theorem debugWord_requests (gate : gatePower .debug pgSEC true b = (t, true)) (stays : bit w.toNat 4 = false) (level : bits w.toNat 2 2 ≠ 0) :
    debugWord .debug w b = requestDebug (bits w.toNat 2 2) t := by
  rw [debugWord_takes gate (.inl rfl), stays]
  exact (if_neg level).trans (if_pos rfl)

theorem debugWord_drops (gate : gatePower who pgSEC true b = (t, true)) (allowed : isDebug who = true ∨ secureWorld t who = true)
    (drop : bit w.toNat 4 = true) (noLevel : bits w.toNat 2 2 = 0) : debugWord who w b = dropDebug t := by
  rw [debugWord_takes gate allowed, drop]
  exact if_pos noLevel

/-- Level 3 takes a challenge in DEVELOPMENT and in the lifecycle state 2, while no lockout runs (Table 14.6). -/
theorem requestDebug_challenges (state : b.sec.lifecycle = 0 ∨ b.sec.lifecycle = 2) (noLockout : b.sec.lockoutFt = none) :
    requestDebug 3 b = { b with free := b.free + 1 }.secU fun s => { s with chal := some (newChallenge b 3), chalWords := (newChallenge b 3).bits } := by
  rw [requestDebug, if_neg (by decide), if_neg (by decide), if_neg (by omega), if_neg (by omega), if_neg (by simp [noLockout])]

/-- In DEVELOPMENT level 2 is granted at once. -/
theorem requestDebug_grants (development : b.sec.lifecycle = 0) :
    requestDebug 2 b = withHolds (fun b => (setDebug 2 b).secU fun s => { s with chal := none }) b := by
  rw [requestDebug, if_neg (by decide), if_neg (by decide), if_neg (by omega), if_pos ⟨development, rfl⟩]

/-! ## Challenges, the lockout and alarms -/

theorem exec_challengeExpiry_debug (on : b.pwr.supplies = true) (chal : b.sec.chal = some x) (due : x.expireFt ≤ b.ft) :
    exec (.challengeExpiry none) ⟨p, b⟩ = .next ⟨p, b.secU fun s => { s with chal := none }⟩ := by
  simp [exec_challengeExpiry, execChallengeExpiry, act_on, on, chal, due]

theorem exec_challengeExpiry_slice (on : b.pwr.supplies = true) (chal : (b.view n).niChal = some x) (due : x.expireFt ≤ b.ft) :
    exec (.challengeExpiry (some n)) ⟨p, b⟩ = .next ⟨p, b.updView n fun v => { v with niChal := none }⟩ := by
  simp [exec_challengeExpiry, execChallengeExpiry, act_on, on, chal, due]

theorem exec_debugLockoutExpiry_due (on : b.pwr.supplies = true) (lockout : b.sec.lockoutFt = some k) (due : k ≤ b.ft) :
    exec .debugLockoutExpiry ⟨p, b⟩ = .next ⟨p, b.secU fun s => { s with lockoutFt := none }⟩ := by
  simp [exec_debugLockoutExpiry, execDebugLockoutExpiry, act_on, on, lockout, due]

/-- A sensor that measures trips once the sensors are armed. -/
theorem exec_alarmTrip_armed (sensor : n ≤ 10) (notKeys : n ≠ 7) (notDebug : n ≠ 9) (on : b.pwr.supplies = true) (below : b.pwr.pstate < 3)
    (armed : b.pwr.armedFt ≤ b.ft) : exec (.alarmTrip n k) ⟨p, b⟩ = .next ⟨p, tripSensor n k b⟩ := by
  rw [exec_alarmTrip, execAlarmTrip, act_on]
  exact next_of_eq (if_pos ⟨⟨sensor, notKeys, notDebug, fun _ => below⟩, .inl on, armed⟩)

/-! ## Level 1 (R449) -/

/-- The slice's own write with no command sets NI_SELF. -/
theorem niWord_self (own : ownAccess b who slice = true) (noReq : bit w.toNat 2 = false) (noDrop : bit w.toNat 3 = false) :
    niWord who slice w b = b.updView slice fun x => { x with niSelf := bit w.toNat 0 } := by
  simp [niWord, own, noReq, noDrop]

theorem niWord_requests (other : ownAccess b who slice = false) (manager : isManager b who = true) (req : bit w.toNat 2 = true)
    (noDrop : bit w.toNat 3 = false) : niWord who slice w b = requestNi slice b := by
  simp [niWord, other, manager, req, noDrop]

theorem niWord_drops (other : ownAccess b who slice = false) (noReq : bit w.toNat 2 = false) (drop : bit w.toNat 3 = true) :
    niWord who slice w b = endNiMgr slice b := by
  simp [niWord, other, noReq, drop]

/-- The right response in time grants level 1. -/
theorem submitNi_grants {key : Bytes} (hu : u = b.updView slice fun v => { v with niResp := v.niResp.set 3 w })
    (chal : (u.view slice).niChal = some x) (slot : u.sec.sliceKeys.get? slice = some y) (inTime : u.ft < x.expireFt) (keyed : y.key = some key)
    (right : responseOf key x = (u.view slice).niResp.foldr (fun d m => d.toNat + m * 2 ^ 32) 0) :
    submitNi who slice w b = (u.secU fun s => { s with sliceKeys := s.sliceKeys.set slice { y with fails := 0 } }).updView slice fun v =>
      { v with niMgr := true, niChal := none } := by
  subst hu
  rw [submitNi]
  dsimp only
  rw [chal, slot]
  dsimp only
  rw [if_neg inTime.not_ge, if_pos]
  rw [keyed, Option.any_some, beq_iff_eq, right]

end

end Sys2Proof.Machine

namespace Sys2Proof

open Sys2Proof.Machine Sys2Proof.Safety

/-- Settles O56: the record is taken or the write let through, and its clause's hypotheses select one branch. What a DBG_GRANT and a DBG_DENY
carry, the bank of a first link key, who writes DBG_REQ, which sensors trip by themselves, and IDENTITY's unnamed bits are the model's
choices (log 73, 75, 76, 77, 85). -/
theorem securityCommandsComplete : Obligations.SecurityCommandsComplete := by
  unfold Obligations.SecurityCommandsComplete
  refine ⟨?identity, ?sliceKey, ?linkKey, ?erase, ?grant, ?deny, ?challenge, ?development, ?drop, fun p b x => exec_challengeExpiry_debug,
    fun p b n x => exec_challengeExpiry_slice, fun p b k => exec_debugLockoutExpiry_due, fun p b n k => exec_alarmTrip_armed,
    ?niSelf, ?niReq, ?niDrop, ?niResp⟩
  case identity =>
    intro p b rec takes lifecycle short pasid cold
    rw [exec_identity, execIdentity, act_on, onRecord_takes takes, identity_takes lifecycle short pasid cold]
  case sliceKey =>
    intro p b rec y takes slot live old newer
    rw [exec_sliceKey, execSliceKey, act_on, onRecord_takes takes, loadSliceKey_rises slot live old newer]
  case linkKey =>
    intro p b rec takes port bank idle empty own
    rw [exec_linkKey, execLinkKey, act_on, onRecord_takes takes, loadLinkKey_first port bank idle empty own]
  case erase =>
    intro p b rec takes slot
    rw [exec_erase, execErase, act_on, onRecord_takes takes, if_neg slot.not_ge]
  case grant =>
    intro p b rec takes level grantable met
    rw [exec_dbgGrant, execDbgGrant, act_on, onRecord_takes takes, grantDebug_met level grantable met]
  case deny =>
    intro p b rec takes met below
    rw [exec_dbgDeny, execDbgDeny, act_on, onRecord_takes takes, denyDebug_counts met below]
  case challenge =>
    intro p b w t gate level stays state noLockout
    rw [exec_dbgReq, execDbgReq, act_on, debugWord_requests gate stays (by omega), level, requestDebug_challenges state noLockout]
  case development =>
    intro p b w t gate level stays development
    rw [exec_dbgReq, execDbgReq, act_on, debugWord_requests gate stays (by omega), level, requestDebug_grants development]
  case drop =>
    intro p b who w t gate allowed noLevel drop
    rw [exec_dbgDrop, execDbgDrop, act_on, debugWord_drops gate allowed drop noLevel, dropDebug]
  case niSelf =>
    intro p b who page w t n takes own noReq noDrop
    rw [exec_niSelfWrite, execNiSelfWrite, act_on, onView_takes takes, niWord_self own noReq noDrop]
  case niReq =>
    intro p b who page w t n takes other manager req noDrop
    rw [exec_niMgrReq, execNiMgrReq, act_on, onView_takes takes, niWord_requests other manager req noDrop]
  case niDrop =>
    intro p b who page w t n takes other noReq drop
    rw [exec_niMgrDrop, execNiMgrDrop, act_on, onView_takes takes, niWord_drops other noReq drop]
  case niResp =>
    intro p b who page w t n u x y key takes hu chal slot inTime keyed right
    rw [exec_niRespSubmit, execNiRespSubmit, act_on, onView_takes takes, submitNi_grants hu chal slot inTime keyed right]

end Sys2Proof

/-! TRC's registers (R472 to R474, R478, R479), the register window (R213, R476, R484, R486 to R491), and the reset values of its words. -/

namespace Sys2Proof.Machine

open Sys2Proof.Safety

section

variable {b t : Blk} {who : Who} {n k a page slice core launch dva size : Nat} {w hi : W32} {p : List Instr} {i : PageInfo} {l : Launch}

/-! ## TRC's registers -/

theorem trcWord60_triggers (trigger : w.getLsbD 1 = true) (noArm : w.getLsbD 0 = false) : trcWord60 w b = traceTrigger 0 b := by
  rw [trcWord60, if_pos trigger, if_neg (ne_true_of_eq_false noArm)]

theorem trcWord60_arms (arm : w.getLsbD 0 = true) (noTrigger : w.getLsbD 1 = false) (noPost : b.trc.postPhase = false) :
    trcWord60 w b = b.trcU fun x => { x with
      frozen := false, postPhase := false, wrapped := false, head := 0, tail := 0, written := 0 } := by
  rw [trcWord60, if_neg (ne_true_of_eq_false noTrigger), if_pos arm, armTrace, if_neg (ne_true_of_eq_false noPost)]

/-- Only a buffer in stream mode owes a GAP record. -/
theorem settleGap_of_mode (noStream : b.trc.mode ≠ 1) : settleGap b = b := if_neg fun stream => noStream stream.1

/-- ST_HEAD up to what is filled claims records. -/
theorem stClaim_claims (inside : bits w.toNat 0 16 < (b.view slice).stSize)
    (filled : (bits w.toNat 0 16 + (b.view slice).stSize - (b.view slice).stHead % (b.view slice).stSize) % (b.view slice).stSize ≤
      ((b.view slice).stTail + (b.view slice).stSize - (b.view slice).stHead % (b.view slice).stSize) % (b.view slice).stSize) :
    stClaim who slice w b = settleStGap slice (b.updView slice fun v => { v with stHead := bits w.toNat 0 16 }) :=
  if_neg (not_or.mpr ⟨inside.not_ge, filled.not_gt⟩)

/-- The enable of a slice's ring that is out of service, of a size in range and well placed. -/
theorem stEnable_enables (off : (b.view slice).stEn = false) (size : bits w.toNat 0 4 ≤ 10) (on : bit w.toNat 4 = true)
    (placed : stPlaced b slice (b.view slice).stBase (bits w.toNat 0 4) = true) :
    stEnable who slice w b = b.updView slice fun v => { v with stLog2 := bits w.toNat 0 4, stEn := true, stHead := 0, stTail := 0 } := by
  simp [stEnable, off, size.not_gt, on, placed]

/-! ## The register window -/

/-- A word of a unit page is read through its page's gate. -/
theorem readAt_unit (noDebug : isDebug who = false) (gate : gatePower who (gatePage who n) false b = (t, true)) (aligned : n % 4 = 0)
    (noView : viewAt who n = none) (page : pageAt n = some (k, i, a)) :
    readAt who n 4 b = readWord (readUnit who n k i a t).2 (readUnit who n k i a t).1 := by
  simp [readAt, noDebug, gate, sizeIs, aligned, seeOne, readOne, noView, page]

theorem satClear_unit (noView : viewAt who n = none) (page : pageAt n = some (k, i, a)) (takes : unitTakes who k b t) (clear : w.getLsbD 31 = true) :
    satClear who n w b = clearUnit k a t := by
  simp only [satClear, noView, page, onUnit_takes takes, clear, if_true]

theorem lockPageWrite_unit (noView : viewAt who n = none) (page : pageAt n = some (k, i, a)) (takes : unitTakes who k b t)
    (lock : w.getLsbD 0 = true) : lockPageWrite who n w b = { t with pages := t.pages.set k { t.hdr k with locked := true } } := by
  simp only [lockPageWrite, noView, page, onUnit_takes takes, lock, if_true]

theorem freezeWrite_debug (page : pageAt n = some (k, i, a)) (noView : viewAt .debug n = none) (gate : gatePower .debug k true b = (t, true))
    (level : freezeLevel k ≤ t.sec.dbgLevel) :
    freezeWrite .debug n w b = { t with pages := t.pages.set k { t.hdr k with freeze := w.getLsbD 0 } } := by
  simp only [freezeWrite, noView, page, gate]
  exact if_pos ⟨rfl, level⟩

theorem errorClear_unit (noView : viewAt who n = none) (page : pageAt n = some (k, i, a)) (takes : unitTakes who k b t)
    (clear : w.getLsbD 31 = true) : errorClear who n w b = clearErrors k t := by
  simp only [errorClear, noView, page, onUnit_takes takes, clear, if_true]

/-- A word of a unit page that no command of its own writes, outside the channel pages, is a plain field. -/
theorem unitWrite_plain {ext : ExtRead} (pastHeader : 0x40 ≤ a) (noChan : k ≠ pgMBX + 1) (noChan' : k ≠ pgMBX + 2) (low : ownLow who k a w ext = none)
    (high : ownHigh who k a w ext = none) (takes : unitTakes who k b t) :
    unitWrite who n k a w ext b = plainUnit k a w (if w.getLsbD 31 then clearUnit k a t else t) := by
  simp only [unitWrite, if_neg pastHeader.not_gt, noChan, noChan', or_self, if_false, low, high, onUnit_takes takes]

/-- An aligned write of four bytes in a unit page is a write of its word. -/
theorem writeAt_unit {ext : ExtRead} (allowed : debugBars who n b = false) (aligned : n % 4 = 0) (noView : viewAt who n = none)
    (page : pageAt n = some (k, i, a)) : writeAt who n 4 w hi ext b = unitWrite who n k a w ext b := by
  simp [writeAt, sizeIs, aligned, allowed, writeWord, noView, page]

/-! ## Requests of cores (R195 to R198, R213) -/

/-- A request of a work group that the core runs is made, and then all that may go on goes on. -/
theorem exec_coreMemoryRequest_runs {req : CoreReq} (on : unitOn pgXLT b) (runs : coreRuns b core launch = true)
    (found : b.sch.launches.get? launch = some l) (isLaunch : CoreReq.launch req = launch) :
    exec (.coreMemoryRequest core req) ⟨p, b⟩ = .next ⟨p, settle (coreRequest core launch l req b)⟩ := by
  subst isLaunch
  rw [exec_coreMemoryRequest, execCoreMemoryRequest, actUnit_on on]
  simp only [runs, found, Bool.true_eq_false, if_false]

theorem coreRequest_load {segs : List Seg} (planned : planSpan b l.slice dva size false = .ok segs) :
    coreRequest core launch l (.load n dva size) b =
      segs.foldl (fun b s => coreLoadSeg core launch l s b) (touchSegs l.slice segs b) := by
  simp only [coreRequest, planned]

theorem coreRequest_store {bytes : Bytes} {segs : List Seg} (planned : planSpan b l.slice dva bytes.length true = .ok segs) :
    coreRequest core launch l (.store n dva bytes) b = coreStoreSegs core launch l segs bytes (touchSegs l.slice segs b) := by
  simp only [coreRequest, planned]

/-- An atomic outside the host window is carried to its first piece. -/
theorem coreRequest_atomic {op : AtomOp} {x y : Nat} {s : Seg} {segs : List Seg} (device : dva < 2 ^ 56)
    (planned : planSpan b l.slice dva size true = .ok (s :: segs)) :
    coreRequest core launch l (.atomic n dva size op x y) b = coreAtomSeg core launch l s op size x y (touchSegs l.slice (s :: segs) b) := by
  rw [coreRequest, if_neg fun host => host.1.not_gt device]
  simp only [planned]

end

end Sys2Proof.Machine

namespace Sys2Proof

open Sys2Proof.Machine Sys2Proof.Safety

/-- Settles O59, a clause at a time. That a MARK record has slice and context 0xFFFF is the model's choice (log 91). -/
theorem traceComplete : Obligations.TraceComplete := by
  unfold Obligations.TraceComplete
  refine ⟨?trigger, ?arm, ?mark, ?head, ?mode, ?stHead, ?stEn⟩
  case trigger =>
    intro p b who w t takes trigger noArm
    rw [exec_trgNow, execTrgNow, act_on, onUnit_takes takes, trcWord60_triggers trigger noArm]
  case arm =>
    intro p b who w t takes arm noTrigger noPost
    rw [exec_arm, execArm, act_on, onUnit_takes takes, trcWord60_arms arm noTrigger noPost]
  case mark =>
    intro p b who w t takes
    rw [exec_mark, execMark, act_on, onUnit_takes takes]
  case head =>
    intro p b who w t takes noStream
    rw [exec_tbHeadWrite, execTbHeadWrite, act_on, onUnit_takes takes, if_neg fun stream => noStream stream.1]
    exact next_of_eq (settleGap_of_mode noStream)
  case mode =>
    intro p b who w t takes unlocked offOrFromOff
    rw [exec_tbModeWrite, execTbModeWrite, act_on, onUnit_takes takes, unlessLocked_of_not unlocked, if_pos (.inr offOrFromOff)]
  case stHead =>
    intro p b who page w t n takes inside filled
    rw [exec_stHeadWrite, execStHeadWrite, act_on, onView_takes takes, stClaim_claims inside filled]
  case stEn =>
    intro p b who page w t n takes off size on placed
    rw [exec_stEnWrite, execStEnWrite, act_on, onView_takes takes, stEnable_enables off size on placed]

/-- Settles O60, a clause at a time. That REGISTER_WRITE acts as the command of a word that has one, and that each piece of a core's load or
store is handled on its own, are the model's choices (log 15, 101). -/
theorem registersComplete : Obligations.RegistersComplete := by
  unfold Obligations.RegistersComplete
  refine ⟨?read, ?satClear, ?lock, ?freeze, ?errorClear, ?write, ?load, ?store, ?atomic, ?window⟩
  case read =>
    intro p b who n t k i a noDebug gate aligned noView page
    rw [exec_latchedPairRead, execLatchedPairRead, act_on, readAt_unit noDebug gate aligned noView page]
  case satClear =>
    intro p b who n w t k i a noView page takes clear
    rw [exec_counterSatClear, execCounterSatClear, act_on, satClear_unit noView page takes clear]
  case lock =>
    intro p b who n w t k i a noView page takes lock
    rw [exec_pageLockWrite, execPageLockWrite, act_on, lockPageWrite_unit noView page takes lock]
  case freeze =>
    intro p b n w t k i a page noView gate level
    rw [exec_pageFreezeWrite, execPageFreezeWrite, act_on, freezeWrite_debug page noView gate level]
  case errorClear =>
    intro p b who n w t k i a noView page takes clear
    rw [exec_pageErrorClear, execPageErrorClear, act_on, errorClear_unit noView page takes clear, clearErrors]
  case write =>
    intro p b who n w hi t k i a allowed aligned noView page pastHeader noChan noChan' low high takes
    rw [exec_registerWrite, execRegisterWrite, act_on, writeAt_unit allowed aligned noView page,
      unitWrite_plain pastHeader noChan noChan' low high takes]
  case load =>
    intro p b k n dva size l segs on runs found planned
    rw [exec_coreMemoryRequest_runs (req := .load n dva size) on runs found rfl, coreRequest_load planned]
  case store =>
    intro p b k n dva bytes l segs on runs found planned
    rw [exec_coreMemoryRequest_runs (req := .store n dva bytes) on runs found rfl, coreRequest_store planned]
  case atomic =>
    intro p b k n dva size op x y l s segs on runs found device planned
    rw [exec_coreMemoryRequest_runs (req := .atomic n dva size op x y) on runs found rfl, coreRequest_atomic device planned]
  case window =>
    intro p b k n dva l on runs found
    rw [exec_coreMemoryRequest_runs (req := .window n dva) on runs found rfl, coreRequest]

/-- Settles O24: each word of the reset state is evaluated; no regulator and no source has an entry yet, so each has its default. -/
theorem resetValuesAreTheTables : Obligations.ResetValuesAreTheTables := by
  refine ⟨rfl, rfl, rfl, rfl, rfl, rfl, rfl, rfl, rfl, rfl, rfl, rfl, rfl, rfl, rfl, rfl, rfl, rfl, fun r c _ isClass => ⟨?_, rfl⟩,
    fun n => rfl⟩
  interval_cases c <;> rfl

end Sys2Proof
